-- ==== Sys2Proof/Word.lean ====
section
/-! DEFINITION. The word types (R3, R4) and their plainest arithmetic: sign and zero extension,
byte assembly, and the 32-lane vector. -/

namespace Sys2Proof

/-- 32-bit word (R4). -/
abbrev Word := BitVec 32
/-- 8-bit byte (R4). -/
abbrev Byte := BitVec 8
/-- 64-bit value: an even:odd register pair, an address operand, a register of a control block. -/
abbrev DWord := BitVec 64
/-- One lane mask: bit i belongs to lane i (R229). -/
abbrev Mask := BitVec 32
/-- One vector register: 32 lanes of 32 bits (R27). -/
abbrev Lanes := Vector Word 32

/-- The lane vector whose lane i is `f i`. -/
def lanesOf (f : Fin 32 → Word) : Lanes := Vector.ofFn f

/-- The same value in every lane. -/
def splat (x : Word) : Lanes := Vector.replicate 32 x

/-- Lanes 0 to 31 in ascending order, the order in which a pipe streams them (R18). -/
def allLanes : List (Fin 32) := List.finRange 32

/-- The mask of the lanes that satisfy `f`. -/
def maskOf (f : Fin 32 → Bool) : Mask :=
  allLanes.foldl (fun m i => if f i then m ||| (1#32 <<< i.val) else m) 0

/-- Lane i lies in the mask. -/
def inMask (m : Mask) (i : Fin 32) : Bool := m.getLsbD i.val

/-- The lanes of a mask, ascending. -/
def lanesIn (m : Mask) : List (Fin 32) := allLanes.filter (inMask m)

/-- The number of lanes in a mask. -/
def popcount (m : Mask) : Nat := (lanesIn m).length

/-- Lowest lane of a mask. -/
def lowLane (m : Mask) : Option (Fin 32) := (lanesIn m).head?

/-- The low word of a 64-bit value: the even register of a pair (R9). -/
def lo32 (x : DWord) : Word := x.truncate 32
/-- The high word of a 64-bit value: the odd register of a pair (R9). -/
def hi32 (x : DWord) : Word := (x >>> 32).truncate 32
/-- The 64-bit value of a pair (R9): even register low, odd register high. -/
def join64 (lo hi : Word) : DWord := hi ++ lo

/-- Bits [hi:lo] of a natural number, both ends included (R3). -/
def bitsOf (x hi lo : Nat) : Nat := (x >>> lo) % 2 ^ (hi + 1 - lo)

/-- Little-endian assembly of bytes (R3): the first byte holds bits [7:0]. -/
def leNat : List Byte → Nat
  | [] => 0
  | b :: bs => b.toNat + 256 * leNat bs

/-- The low `n` bytes of a number, little-endian (R3). -/
def leBytes : Nat → Nat → List Byte
  | 0, _ => []
  | n + 1, x => BitVec.ofNat 8 x :: leBytes n (x / 256)

end Sys2Proof
end

