-- ==== Sys2Proof/Syntax.lean ====
section
/-! DEFINITION. The steps of the machine as syntax: one constructor of `Instr` per row of the opcode
table. The first 168 rows are wave instructions, the next two are control-core instructions, and the
last 98 are steps of units that carry no instruction word; the operands of those name the unit, the
entry or the choice that the spec leaves to the unit. -/

namespace Sys2Proof

/-- Element types (R49). The reserved codes 19 to 31 have no constructor. -/
inductive ElemType where
  | i8 | i16 | i32 | i64 | ui8 | ui16 | ui32 | ui64
  | fp32 | fp16 | bf16 | fp8e4 | fp8e5 | fp4 | cb2 | e8m0 | ue5m3 | pair | b32
  deriving DecidableEq, Repr

/-- Rounding modes (R49). The reserved codes 5 to 7 have no constructor. -/
inductive Rounding where
  | rne | rz | ru | rd | rna
  deriving DecidableEq, Repr

/-- Memory scopes (R48). -/
inductive Scope where
  | wg | gang | dev | pod
  deriving DecidableEq, Repr

/-- Conditions of CMP (R58). Condition 15 is reserved. -/
inductive Cond where
  | eq | ne | lt | le | gt | ge | ord | uno | equ | ltu | leu | gtu | geu | tst | ntst
  deriving DecidableEq, Repr

/-- The uniform specials 0xD0 to 0xDF (R44). -/
inductive Special where
  | wg | gx | gy | gz | stage | dimx | dimy | dimz | nstage | nwave | nwg | gangid | wglin
  | task | scrsz | devid
  deriving DecidableEq, Repr

/-- What an 8-bit operand field names (R43). -/
inductive Operand where
  | v (r : Fin 128)
  | s (r : Fin 64)
  | l (k : Fin 4)
  | zero
  | lane
  | wave
  | ones
  | p (k : Fin 8)
  | special (x : Special)
  | reserved (k : Fin 32)
  deriving DecidableEq, Repr

/-- The paths a FENCE selects (R58). -/
structure FencePaths where
  net : Bool
  eng : Bool
  scr : Bool
  st : Bool
  ld : Bool
  deriving DecidableEq, Repr

/-- A path's tag (R260): the split entry and the arm it runs under. Entry 0 is the root. -/
structure Tag where
  entry : Nat
  arm : Nat
  deriving DecidableEq, Repr

/-- The tag of the undivided wave (R260). -/
def Tag.root : Tag := ⟨0, 0⟩

/-- What a packet asks or answers (R391, R406, R410). -/
inductive PacketKind where
  /-- NPUT: write the lanes of `mask` at `va + 4i`. -/
  | put (va : Nat) (mask : Mask) (data : List Word)
  /-- NGET: read the lanes of `mask` at `va + 4i`. -/
  | get (va : Nat) (mask : Mask)
  /-- NSEND: push a record at stage queue `q`. -/
  | send (q : Nat) (data : List Word)
  /-- A remote copy-engine write. -/
  | engineWrite (va : Nat) (bytes : List Byte)
  /-- A remote copy-engine read. -/
  | engineRead (va : Nat) (len : Nat)
  /-- The reply of an NGET: a trap code (0: none) and the words read. -/
  | reply (code : Nat) (data : List Word)
  /-- The reply of a remote copy-engine read. -/
  | engineData (code : Nat) (bytes : List Byte)
  /-- The acknowledgement of a write or push: a trap code (0: none). -/
  | ack (code : Nat)
  /-- A header flit with no payload, which carries a watermark (R400). -/
  | beacon
  deriving DecidableEq, Repr

/-- A packet (R391). `ref` names the source device's outstanding operation. `period` marks the
packets of deterministic operation, whose stamp is a period number (R319). -/
structure Packet where
  dst : Nat
  src : Nat
  ordered : Bool
  period : Bool
  kind : PacketKind
  part : Fin 32
  seq : Nat
  stamp : Nat
  wm : Nat
  ref : Nat
  deriving DecidableEq, Repr

/-- The configuration record that the boot ROM applies (R413, R414) and what the module brings to it. -/
structure BootRecord where
  version : Nat
  minImage : Nat
  devid : BitVec 10
  partitions : List (BitVec 32)
  pcieMode : Bool
  virtualFunctions : Nat
  bifurcation1 : BitVec 4
  bifurcation2 : BitVec 4
  klEnable : BitVec 16
  powerLimit : BitVec 12
  vddarr : List (BitVec 12)
  deriving DecidableEq, Repr, Inhabited

/-- What lands of an engine command: all of it, or the byte `early` of it ahead of the landing (R181, R188). -/
structure Landing where
  cmd : Nat
  early : Option Nat
  deriving DecidableEq, Repr

/-- The way of an Ethernet frame; a transmitted one may be cut into segments of a size (R412). -/
inductive FrameDir where
  | receive
  | transmit (segment : Option Nat)
  deriving DecidableEq, Repr

/-- A place that a control core accesses (R88). -/
structure ControlAccess where
  core : Fin 16
  pa : Nat
  deriving DecidableEq, Repr

/-- The owner of a bank of event counters (R422). -/
inductive CounterUnit where
  | core (c : Fin 256)
  | home (h : Fin 128)
  | controller (mc : Fin 8)
  | port (n : Fin 16)
  deriving DecidableEq, Repr

/-- What a protected store returns on a read: no error, one that its code corrects, or one that it only detects (R111,
R212). -/
inductive EccError where
  | none | corrected | uncorrectable
  deriving DecidableEq, Repr

/-- What a host transaction on pcie0 does (R413, R418). [DESIGN CHOICE, log 93, safe] -/
inductive HostAccess where
  /-- BAR0: bytes written into the function's window of its partition's line space. -/
  | bar0Write (fn : Nat) (offset : Nat) (bytes : List Byte)
  /-- BAR0: bytes read from that window. -/
  | bar0Read (fn : Nat) (offset : Nat) (len : Nat)
  /-- BAR2: bytes written into the message area. -/
  | bar2Write (fn : Nat) (offset : Nat) (bytes : List Byte)
  /-- BAR2: bytes read from the message area. -/
  | bar2Read (fn : Nat) (offset : Nat) (len : Nat)
  /-- Recovery state: bytes written into the boot flash through its window. -/
  | flashWrite (offset : Nat) (bytes : List Byte)
  /-- Recovery state: bytes read from the boot flash through its window. -/
  | flashRead (offset : Nat) (len : Nat)
  /-- Recovery state: BOOTSTAT read. -/
  | bootstatRead
  /-- The control cores bind a virtual function to a partition, with its BAR0 window. -/
  | bind (fn : Nat) (part : Fin 32) (base len : Nat)
  /-- The control cores enable a virtual function, again after it was killed. -/
  | enable (fn : Nat)
  /-- The runtime writes into the message area of a function. -/
  | message (fn : Nat) (offset : Nat) (bytes : List Byte)
  deriving DecidableEq, Repr

/-- The steps of the machine. -/
inductive Instr where
  -- control flow, mode and constants
  | illegal (word : Word)
  | nop
  | mode (imm : BitVec 16)
  | li (nw : Bool) (d : Operand) (imm : BitVec 16)
  | lih (nw : Bool) (d : Operand) (imm : BitVec 16)
  | addi (nw : Bool) (d : Operand) (imm : BitVec 16)
  | br (off : BitVec 25)
  | jmp (off : BitVec 25)
  | call (off : BitVec 25)
  | jpt (off : BitVec 25)
  | ret (a : Operand)
  | jtab (a b : Operand)
  | exit
  | yield
  | trap (imm : BitVec 16)
  | sysc (d a b : Operand)
  -- two-source arithmetic and logic
  | add (nw : Bool) (d a b : Operand)
  | sub (nw : Bool) (d a b : Operand)
  | mul (nw : Bool) (d a b : Operand)
  | mulh (nw : Bool) (d a b : Operand)
  | mad (nw : Bool) (d a b : Operand)
  | min (nw : Bool) (d a b : Operand)
  | max (nw : Bool) (d a b : Operand)
  | addmin (nw : Bool) (d a b : Operand)
  | addmax (nw : Bool) (d a b : Operand)
  | and (nw : Bool) (d a b : Operand)
  | or (nw : Bool) (d a b : Operand)
  | xor (nw : Bool) (d a b : Operand)
  | shl (nw : Bool) (d a b : Operand)
  | shr (nw : Bool) (d a b : Operand)
  | sha (nw : Bool) (d a b : Operand)
  | fshl (nw : Bool) (d a b : Operand)
  | fshr (nw : Bool) (d a b : Operand)
  | rol (nw : Bool) (d a b : Operand)
  | sel (nw : Bool) (d a b : Operand)
  | bfx (nw : Bool) (d a b : Operand)
  | bfi (nw : Bool) (d a b : Operand)
  | cmp (nw : Bool) (k : Fin 8) (c : Cond) (a b : Operand)
  | div (nw : Bool) (d a b : Operand)
  | rem (nw : Bool) (d a b : Operand)
  | twosum (nw : Bool) (d a b : Operand)
  | fasttwosum (nw : Bool) (d a b : Operand)
  | twoprod (nw : Bool) (d a b : Operand)
  -- one-source functions
  | not (nw : Bool) (d a : Operand)
  | neg (nw : Bool) (d a : Operand)
  | abs (nw : Bool) (d a : Operand)
  | popc (nw : Bool) (d a : Operand)
  | clz (nw : Bool) (d a : Operand)
  | ctz (nw : Bool) (d a : Operand)
  | brev (nw : Bool) (d a : Operand)
  | rcp (nw : Bool) (d a : Operand)
  | rsq (nw : Bool) (d a : Operand)
  | sqrt (nw : Bool) (d a : Operand)
  | exp2 (nw : Bool) (d a : Operand)
  | log2 (nw : Bool) (d a : Operand)
  | sin2pi (nw : Bool) (d a : Operand)
  | cos2pi (nw : Bool) (d a : Operand)
  | floor (nw : Bool) (d a : Operand)
  | ceil (nw : Bool) (d a : Operand)
  | trunc (nw : Bool) (d a : Operand)
  | rint (nw : Bool) (d a : Operand)
  | frac (nw : Bool) (d a : Operand)
  | class (nw : Bool) (d a : Operand)
  | cvt (nw : Bool) (src : ElemType) (d a : Operand)
  | packXn (nw : Bool) (k : Fin 8) (d a : Operand)
  | packXb (nw : Bool) (k : Fin 4) (d a : Operand)
  | packXh (nw : Bool) (k : Fin 2) (d a : Operand)
  | packIn (nw : Bool) (k : Fin 8) (d a : Operand)
  | packIb (nw : Bool) (k : Fin 4) (d a : Operand)
  | packIh (nw : Bool) (k : Fin 2) (d a : Operand)
  -- operations across lanes
  | shfl (nw : Bool) (d a b : Operand)
  | shflup (nw : Bool) (d a b : Operand)
  | shfldn (nw : Bool) (d a b : Operand)
  | shflx (nw : Bool) (d a b : Operand)
  | ballot (nw : Bool) (d a : Operand)
  | voteAny (nw : Bool) (d a : Operand)
  | voteAll (nw : Bool) (d a : Operand)
  | voteUni (nw : Bool) (d a : Operand)
  | match_ (nw : Bool) (d a : Operand)
  | reduceAdd (nw : Bool) (d a : Operand)
  | reduceMin (nw : Bool) (d a : Operand)
  | reduceMax (nw : Bool) (d a : Operand)
  | reduceAnd (nw : Bool) (d a : Operand)
  | reduceOr (nw : Bool) (d a : Operand)
  | reduceXor (nw : Bool) (d a : Operand)
  | scanAdd (nw : Bool) (excl : Bool) (d a : Operand)
  | scanMin (nw : Bool) (excl : Bool) (d a : Operand)
  | scanMax (nw : Bool) (excl : Bool) (d a : Operand)
  | scanAnd (nw : Bool) (excl : Bool) (d a : Operand)
  | scanOr (nw : Bool) (excl : Bool) (d a : Operand)
  | scanXor (nw : Bool) (excl : Bool) (d a : Operand)
  | bcast (nw : Bool) (d a b : Operand)
  -- global memory and scratchpad
  | ld (d a b : Operand)
  | st (d a b : Operand)
  | lds (d a b : Operand)
  | sts (d a b : Operand)
  | stm (d a b : Operand)
  | ldacq (d a b : Operand)
  | strel (d a b : Operand)
  | fence (paths : FencePaths) (scope : Scope)
  | pref (a : Operand)
  | clean (a : Operand)
  | inval (a : Operand)
  | monitor (a : Operand)
  | mwait
  -- atomics and combining
  | atadd (nw : Bool) (d a b : Operand)
  | atmin (nw : Bool) (d a b : Operand)
  | atmax (nw : Bool) (d a b : Operand)
  | atand (nw : Bool) (d a b : Operand)
  | ator (nw : Bool) (d a b : Operand)
  | atxor (nw : Bool) (d a b : Operand)
  | atxchg (nw : Bool) (d a b : Operand)
  | atcas (nw : Bool) (d a : Operand)
  | comb (nw : Bool) (d a b : Operand)
  | cmbarg (d : Operand)
  | cmbreply (a : Operand)
  | cmbend
  -- barriers and queues
  | arrive (nw : Bool) (d a b : Operand)
  | waitb (a b : Operand)
  | bar (a b : Operand)
  | qpush (nw : Bool) (d a : Operand) (q : BitVec 8)
  | qpop (d : Operand) (q : BitVec 8)
  | qstat (nw : Bool) (d : Operand) (q : BitVec 8)
  -- copy engine and matrix array
  | copy (nw : Bool) (d a b : Operand)
  | copym (nw : Bool) (d a b : Operand)
  | engwait (a b : Operand)
  | sleepuntil (a : Operand)
  | publish (a : Operand)
  | quant2 (nw : Bool) (d a b : Operand)
  | mma (a b : Operand)
  | accz (a : Operand)
  | accrd (d a : Operand)
  | accwr (d a : Operand)
  | acccvt (d a : Operand)
  | cbld (a : Operand)
  | rotld (a : Operand)
  | rot (d a : Operand)
  | clockTick (nw : Bool) (d : Operand)
  | clockLogical (nw : Bool) (d : Operand)
  | clockPeriod (nw : Bool) (d : Operand)
  | clockPod (nw : Bool) (d : Operand)
  -- segments, tasks, network, launch, CSRs
  | segopen (nw : Bool) (d a : Operand)
  | segseal (a : Operand)
  | segref (nw : Bool) (d a : Operand)
  | segdrop (a : Operand)
  | link (nw : Bool) (d a b : Operand)
  | unlink (nw : Bool) (d a b : Operand)
  | ctxpin (nw : Bool) (d a : Operand)
  | ctxunpin
  | tkpost (nw : Bool) (d a : Operand)
  | tkdone
  | tkpull (d a : Operand)
  | tkcancel (nw : Bool) (d a : Operand)
  | tkpark (nw : Bool) (d a : Operand)
  | tkresume (nw : Bool) (d a : Operand)
  | nput (d a : Operand)
  | nputOrd (d a : Operand)
  | nget (d a : Operand)
  | nsend (d a : Operand)
  | nsendOrd (d a : Operand)
  | nrecv (d a : Operand)
  | nfence
  | launch (nw : Bool) (d a b : Operand)
  | csrr (nw : Bool) (d : Operand) (csr : BitVec 8)
  | csrw (d : Operand) (csr : BitVec 8)
  | trapretResume
  | trapretSkip
  | trapretExit
  -- control-core instructions (R285)
  | cdmLaunch (rs2 rs1 rd : Fin 32)
  | cdmLstat (rs2 rs1 rd : Fin 32)
  -- steps of the waves' waits and deferred results
  | waveWake (w : Nat) (tag : Tag)
  | waveEnd (w : Nat)
  | loadReply (w d : Nat)
  | atomicRequest (m : Nat)
  | atomicReply (w d : Nat)
  -- steps of homes, caches and combiner
  | homeRead (m : Nat)
  | homeWrite (m : Nat)
  | sectorWriteback (m : Nat)
  | l2Fill (line : Nat) (asid : BitVec 8)
  | expandedRead (line : Nat) (asid : BitVec 8)
  | combRequest (m : Nat)
  | combinerBatch (h : Fin 128)
  | methodInstructionLimit (h : Fin 128)
  | combReply (w d : Nat)
  | linkMethod (k : Nat)
  | editionCommit (k : Nat)
  | releaseRecordAppend (p : Fin 32)
  | releaseComplete (r : Nat)
  | barrierArrival (k : Nat)
  -- translation
  | pageWalk (core : Fin 256) (asid : BitVec 8) (va : Nat)
  | tlbinvAll
  | tlbinvAsid (asid : BitVec 8)
  | tlbinvPage (asid : BitVec 8) (page : BitVec 39)
  | tlbinvComplete
  -- memory controllers
  | writeback (line : Nat) (candidate : Option Nat) (chunk : Nat) (shared : Nat)
  | overflowRetry (mc : Fin 8) (candidate : Option Nat) (chunk : Nat) (shared : Nat)
  | lineRead (line : Nat) (error : EccError)
  | mcpgcmdPacked (mc : Fin 8) (page : BitVec 24) (part : Fin 32)
  | mcpgcmdFixed (mc : Fin 8) (page : BitVec 24) (part : Fin 32) (chunks : List Nat)
  | mcpgcmdUnbacked (mc : Fin 8) (page : BitVec 24) (part : Fin 32)
  | mcpgcmdReserved (mc : Fin 8) (page : BitVec 24) (part : Fin 32)
  | mccrd (mc : Fin 8) (index : DWord)
  | mcerrlogPop (mc : Fin 8)
  | mcresvWrite (mc : Fin 8) (p : Fin 32) (value : DWord)
  | fwRegisterWrite (window : Fin 16) (reg : Fin 7) (value : DWord)
  -- copy engine, arrays, producer slots, combiner control
  | nvmeCompletion (core : Fin 256) (cmd : Nat) (status : Nat) (data : List Byte)
  | commandAccept (core : Fin 256) (cmd : Nat)
  | commandLanded (core : Fin 256) (what : Landing)
  | commandFailed (core : Fin 256) (cmd : Nat) (cause : BitVec 8) (status : Nat)
  | publishInstant (k : Nat)
  | mmaStep (core : Fin 256) (mismatch : Bool)
  | arrayEntryExecute (core : Fin 256)
  | accownWrite (core : Fin 256) (g : Fin 16) (value : DWord)
  | mgstrWrite (core : Fin 256) (value : DWord)
  | psctlRun (core : Fin 256)
  | psctlStop (core : Fin 256)
  | producerLoadWrite (core : Fin 256) (offset : Nat) (value : DWord)
  | cmbctlStop
  | cmbctlResume
  | cmbMethodWrite (offset : Nat) (value : DWord)
  | dlConfigWrite (size : Bool) (asid : BitVec 8) (value : DWord)
  | dldropRead (asid : BitVec 8)
  -- scheduler and switching
  | launchReady (slot : Fin 256)
  | starvationBound (part : Fin 32)
  | schctxRun (asid : BitVec 8)
  | schctxStop (asid : BitVec 8)
  | schboundWrite (value : DWord)
  | gangSave (g : Nat)
  | gangResume (g : Nat)
  -- deterministic operation
  | quantumEnd (w : Nat)
  | periodEnd (slot : Fin 256)
  | periodAdvance (slot : Fin 256)
  -- system calls and freezing
  | syscPost (w d : Nat)
  | syscReply (w d : Nat) (status : DWord) (replies : List DWord)
  | freezeRecordAppend
  | frzcmdThaw (master : DWord)
  | frzcmdKill (master : DWord)
  | frzcmdHalt (master : DWord)
  -- tasks and catalogue
  | taskHandout (w : Nat)
  | taskIrrevocable (w : Nat)
  | resumeRecordAppend (p : Fin 32)
  | catctlStop
  | catctlResume
  -- fabric
  | packetArrival (port : Fin 16) (pkt : Packet) (crcOk : Bool)
  | packetForward (output : Fin 17)
  | orderedDelivery
  | remoteAccess (k : Nat)
  | netReply (op : Nat)
  | heldPush (k : Nat)
  | beacon (port : Fin 16)
  | watermarkStall (input : Fin 17)
  | klresume (cut : DWord)
  | klportEnable (n : Fin 16) (value : DWord)
  | podset (value : DWord)
  | ptpEventMessage (port : Fin 16) (correction : Int)
  | ethernetFrame (port : Fin 2) (way : FrameDir) (bytes : List Byte)
  -- device
  | powerOnReset (derived readable trained : Bool)
  | bootWatchdog
  | bootstatWrite (value : DWord)
  | partclWrite (p : Fin 32) (value : DWord)
  | pwrlimWrite (value : DWord)
  | thermalTrip (reading : BitVec 8)
  | marginReplan (drift : List (BitVec 16))
  | vddarrWrite (die : Fin 4) (value : DWord)
  | counterSelectWrite (unit : CounterUnit) (k : Nat) (value : DWord)
  | registerWrite (place : ControlAccess) (value : DWord)
  | hostBarAccess (access : HostAccess)
  | powerThermalThrottle (average : BitVec 12) (hottest : BitVec 8)
  deriving DecidableEq, Repr

end Sys2Proof
end

