-- ==== Sys2Proof/WellFormed.lean ====
section
/-! DEFINITION. Which instruction terms are words of the machine: the checks that the constructors'
types do not make by themselves (R42, R47, R57, R58), and the ranges of the unit steps' operands. -/

namespace Sys2Proof

/-- R47: with nw = 1 an instruction whose card gives d no source role encodes d as 0x00. -/
def nwClear (nw : Bool) (d : Operand) : Bool := !nw || d == .v 0

/-- The opcodes that R56 marks reserved, and opcode 0x00 (R57). -/
def reservedOpcode (op : Nat) : Bool :=
  op == 0 || op == 0x2E || op == 0x2F || (0x3A ≤ op && op ≤ 0x3F) || op == 0x4B ||
  (0x5C ≤ op && op ≤ 0x5F) || (0x6A ≤ op && op ≤ 0x6F) || (0x78 ≤ op && op ≤ 0x7F)

/-- A line number of HBM line space or of the expanded views (R88). -/
def lineInRange (line : Nat) : Bool := line < 0x200_0000_0000 / 128

/-- The term is an instruction of the machine. -/
def Instr.WellFormed : Instr → Bool
  | .illegal w => reservedOpcode (w.toNat / 2 ^ 25)
  | .li nw d _ => nwClear nw d
  | .add nw d _ _ | .sub nw d _ _ | .mul nw d _ _ | .mulh nw d _ _ | .min nw d _ _ | .max nw d _ _
  | .and nw d _ _ | .or nw d _ _ | .xor nw d _ _ | .shl nw d _ _ | .shr nw d _ _ | .sha nw d _ _
  | .rol nw d _ _ | .bfx nw d _ _ | .div nw d _ _ | .rem nw d _ _
  | .twosum nw d _ _ | .fasttwosum nw d _ _ | .twoprod nw d _ _
  | .shfl nw d _ _ | .shflup nw d _ _ | .shfldn nw d _ _ | .shflx nw d _ _ | .bcast nw d _ _
  | .atadd nw d _ _ | .atmin nw d _ _ | .atmax nw d _ _ | .atand nw d _ _ | .ator nw d _ _
  | .atxor nw d _ _ | .atxchg nw d _ _ | .comb nw d _ _ | .arrive nw d _ _
  | .copy nw d _ _ | .copym nw d _ _ | .quant2 nw d _ _ | .link nw d _ _ | .unlink nw d _ _
  | .launch nw d _ _ => nwClear nw d
  | .not nw d _ | .neg nw d _ | .abs nw d _ | .popc nw d _ | .clz nw d _ | .ctz nw d _ | .brev nw d _
  | .rcp nw d _ | .rsq nw d _ | .sqrt nw d _ | .exp2 nw d _ | .log2 nw d _ | .sin2pi nw d _
  | .cos2pi nw d _ | .floor nw d _ | .ceil nw d _ | .trunc nw d _ | .rint nw d _ | .frac nw d _
  | .class nw d _ | .ballot nw d _ | .voteAny nw d _ | .voteAll nw d _ | .voteUni nw d _
  | .match_ nw d _ | .reduceAdd nw d _ | .reduceMin nw d _ | .reduceMax nw d _ | .reduceAnd nw d _
  | .reduceOr nw d _ | .reduceXor nw d _ | .segopen nw d _ | .segref nw d _ | .ctxpin nw d _
  | .tkpost nw d _ | .tkcancel nw d _ | .tkpark nw d _ | .tkresume nw d _ => nwClear nw d
  | .cvt nw _ d _ | .packXn nw _ d _ | .packXb nw _ d _ | .packXh nw _ d _
  | .scanAdd nw _ d _ | .scanMin nw _ d _ | .scanMax nw _ d _ | .scanAnd nw _ d _ | .scanOr nw _ d _
  | .scanXor nw _ d _ => nwClear nw d
  | .qpush nw d _ _ => nwClear nw d
  | .qstat nw d _ | .csrr nw d _ | .clockTick nw d | .clockLogical nw d | .clockPeriod nw d
  | .clockPod nw d => nwClear nw d
  | .fence p _ => p.net || p.eng || p.scr || p.st || p.ld
  | .l2Fill line _ | .lineRead line _ | .writeback line _ _ _ => lineInRange line
  | .expandedRead line _ => 0x100_0000_0000 / 128 ≤ line && lineInRange line
  | .pageWalk _ _ va => va < 2 ^ 55
  | .mcpgcmdFixed _ _ _ chunks => chunks.length == 64
  | .marginReplan drift => drift.length == 13
  | _ => true

end Sys2Proof
end

