-- ==== Sys2Proof/Decode.lean ====
section
/-! DEFINITION. Instruction words: the field codes (R43, R49, R58), the decoder of wave words, the
decoder of the control cores' extension (R285), and the encoder, all written from the opcode map
(R56) and the function-code tables (R58). -/

namespace Sys2Proof

/-! ### Fields of a word (R40) -/

/-- The fields of a word in the R and U formats; the I and B formats join some of them (R40). -/
structure Fields where
  op : BitVec 7
  nw : Bool
  d : BitVec 8
  a : BitVec 8
  b : BitVec 8
  deriving DecidableEq, Repr

/-- The fields of a word (R40). -/
def fieldsOf (w : Word) : Fields :=
  ⟨BitVec.ofNat 7 (w.toNat / 2 ^ 25), decide (w.toNat / 2 ^ 24 % 2 = 1),
    BitVec.ofNat 8 (w.toNat / 2 ^ 16), BitVec.ofNat 8 (w.toNat / 2 ^ 8), BitVec.ofNat 8 w.toNat⟩

/-- The word that holds the fields (R40). -/
def Fields.word (f : Fields) : Word :=
  BitVec.ofNat 32 (f.op.toNat * 2 ^ 25 + (if f.nw then 2 ^ 24 else 0) + f.d.toNat * 2 ^ 16
    + f.a.toNat * 2 ^ 8 + f.b.toNat)

/-- imm16 of the I format: bits [15:0] (R40). -/
def imm16 (f : Fields) : BitVec 16 := BitVec.ofNat 16 (f.a.toNat * 256 + f.b.toNat)
/-- Bits [15:8] of an imm16. -/
def immHi (i : BitVec 16) : BitVec 8 := BitVec.ofNat 8 (i.toNat / 256)
/-- Bits [7:0] of an imm16. -/
def immLo (i : BitVec 16) : BitVec 8 := BitVec.ofNat 8 i.toNat
/-- The 25-bit offset of the B format: bits [24:0] (R40). -/
def off25 (f : Fields) : BitVec 25 :=
  BitVec.ofNat 25 ((if f.nw then 2 ^ 24 else 0) + f.d.toNat * 2 ^ 16 + f.a.toNat * 256 + f.b.toNat)
/-- The fields of a B-format word. -/
def offFields (op : BitVec 7) (o : BitVec 25) : Fields :=
  ⟨op, decide (o.toNat / 2 ^ 24 = 1), BitVec.ofNat 8 (o.toNat / 2 ^ 16), BitVec.ofNat 8 (o.toNat / 256),
    BitVec.ofNat 8 o.toNat⟩

/-! ### Field codes -/

/-- The code of a uniform special, less 0xD0 (R44). -/
def Special.index : Special → Nat
  | .wg => 0 | .gx => 1 | .gy => 2 | .gz => 3 | .stage => 4 | .dimx => 5 | .dimy => 6 | .dimz => 7
  | .nstage => 8 | .nwave => 9 | .nwg => 10 | .gangid => 11 | .wglin => 12 | .task => 13
  | .scrsz => 14 | .devid => 15

/-- The uniform special of a code 0xD0 + n (R44). -/
def Special.ofIndex : Nat → Special
  | 0 => .wg | 1 => .gx | 2 => .gy | 3 => .gz | 4 => .stage | 5 => .dimx | 6 => .dimy | 7 => .dimz
  | 8 => .nstage | 9 => .nwave | 10 => .nwg | 11 => .gangid | 12 => .wglin | 13 => .task
  | 14 => .scrsz | _ => .devid

/-- The 8-bit code of an operand (R43). -/
def Operand.code : Operand → BitVec 8
  | .v r => BitVec.ofNat 8 r.val
  | .s r => BitVec.ofNat 8 (0x80 + r.val)
  | .l k => BitVec.ofNat 8 (0xC0 + k.val)
  | .zero => 0xC4 | .lane => 0xC5 | .wave => 0xC6 | .ones => 0xC7
  | .p k => BitVec.ofNat 8 (0xC8 + k.val)
  | .special x => BitVec.ofNat 8 (0xD0 + x.index)
  | .reserved k => BitVec.ofNat 8 (0xE0 + k.val)

/-- What an 8-bit operand field names (R43). -/
def Operand.ofCode (c : BitVec 8) : Operand :=
  let n := c.toNat
  if h : n < 0x80 then .v ⟨n, h⟩
  else if h : n < 0xC0 then .s ⟨n - 0x80, by omega⟩
  else if h : n < 0xC4 then .l ⟨n - 0xC0, by omega⟩
  else if n = 0xC4 then .zero
  else if n = 0xC5 then .lane
  else if n = 0xC6 then .wave
  else if n = 0xC7 then .ones
  else if h : n < 0xD0 then .p ⟨(n - 0xC8) % 8, by omega⟩
  else if n < 0xE0 then .special (.ofIndex (n - 0xD0))
  else .reserved ⟨(n - 0xE0) % 32, by omega⟩

/-- The code of an element type (R49). -/
def ElemType.code : ElemType → Nat
  | .i8 => 0 | .i16 => 1 | .i32 => 2 | .i64 => 3 | .ui8 => 4 | .ui16 => 5 | .ui32 => 6 | .ui64 => 7
  | .fp32 => 8 | .fp16 => 9 | .bf16 => 10 | .fp8e4 => 11 | .fp8e5 => 12 | .fp4 => 13 | .cb2 => 14
  | .e8m0 => 15 | .ue5m3 => 16 | .pair => 17 | .b32 => 18

/-- The element type of a code; codes 19 to 31 are reserved (R49). -/
def ElemType.ofCode : Nat → Option ElemType
  | 0 => some .i8 | 1 => some .i16 | 2 => some .i32 | 3 => some .i64
  | 4 => some .ui8 | 5 => some .ui16 | 6 => some .ui32 | 7 => some .ui64
  | 8 => some .fp32 | 9 => some .fp16 | 10 => some .bf16 | 11 => some .fp8e4
  | 12 => some .fp8e5 | 13 => some .fp4 | 14 => some .cb2 | 15 => some .e8m0
  | 16 => some .ue5m3 | 17 => some .pair | 18 => some .b32 | _ => none

/-- The code of a rounding mode (R49). -/
def Rounding.code : Rounding → Nat
  | .rne => 0 | .rz => 1 | .ru => 2 | .rd => 3 | .rna => 4

/-- The rounding mode of a code; codes 5 to 7 are reserved (R49). -/
def Rounding.ofCode : Nat → Option Rounding
  | 0 => some .rne | 1 => some .rz | 2 => some .ru | 3 => some .rd | 4 => some .rna | _ => none

/-- The code of a scope (R48). -/
def Scope.code : Scope → Nat
  | .wg => 0 | .gang => 1 | .dev => 2 | .pod => 3

/-- The scope of a two-bit code (R48). -/
def Scope.ofCode : Nat → Scope
  | 0 => .wg | 1 => .gang | 2 => .dev | _ => .pod

/-- The code of a CMP condition (R58). -/
def Cond.code : Cond → Nat
  | .eq => 0 | .ne => 1 | .lt => 2 | .le => 3 | .gt => 4 | .ge => 5 | .ord => 6 | .uno => 7
  | .equ => 8 | .ltu => 9 | .leu => 10 | .gtu => 11 | .geu => 12 | .tst => 13 | .ntst => 14

/-- The CMP condition of a code; code 15 is reserved (R58). -/
def Cond.ofCode : Nat → Option Cond
  | 0 => some .eq | 1 => some .ne | 2 => some .lt | 3 => some .le | 4 => some .gt | 5 => some .ge
  | 6 => some .ord | 7 => some .uno | 8 => some .equ | 9 => some .ltu | 10 => some .leu
  | 11 => some .gtu | 12 => some .geu | 13 => some .tst | 14 => some .ntst | _ => none

/-- FENCE's path bits fn[6:2] as a number (R58). -/
def FencePaths.code (p : FencePaths) : Nat :=
  (if p.net then 16 else 0) + (if p.eng then 8 else 0) + (if p.scr then 4 else 0)
    + (if p.st then 2 else 0) + (if p.ld then 1 else 0)

/-- FENCE's paths of a five-bit number (R58). -/
def FencePaths.ofCode (n : Nat) : FencePaths :=
  ⟨decide (n / 16 % 2 = 1), decide (n / 8 % 2 = 1), decide (n / 4 % 2 = 1), decide (n / 2 % 2 = 1),
    decide (n % 2 = 1)⟩

/-! ### The decoder of wave words -/

/-- Why a word that is not of opcode 0x00 or a reserved opcode is no instruction (R60 step 1). Each of
these raises ILLEGAL_OP. -/
inductive DecodeReject where
  /-- a reserved function code or reserved fn bit (R58) -/
  | reservedFunction
  /-- a nonzero field that the card does not use (R42) -/
  | unusedField
  /-- nw = 1 where R47 forbids it -/
  | nwForbidden
  /-- nw = 1 with a nonzero d where R47 requires d = 0x00 -/
  | nwDestination
  /-- MODE with nw or d nonzero (R17) -/
  | modeField
  deriving DecidableEq, Repr

/-- A form with no fields. -/
def none0 (f : Fields) (i : Instr) : Except DecodeReject Instr :=
  if f.nw then .error .nwForbidden
  else if f.d != 0 || f.a != 0 || f.b != 0 then .error .unusedField else .ok i

/-- I format with a destination; `dsrc` says that the card reads d (R232). -/
def dImm (f : Fields) (dsrc : Bool) (mk : Bool → Operand → BitVec 16 → Instr) :
    Except DecodeReject Instr :=
  if f.nw && !dsrc && f.d != 0 then .error .nwDestination
  else .ok (mk f.nw (.ofCode f.d) (imm16 f))

/-- A form that uses the a field alone. -/
def aOnly (f : Fields) (mk : Operand → Instr) : Except DecodeReject Instr :=
  if f.nw then .error .nwForbidden
  else if f.d != 0 || f.b != 0 then .error .unusedField else .ok (mk (.ofCode f.a))

/-- A form that uses the a and b fields. -/
def aAndB (f : Fields) (mk : Operand → Operand → Instr) : Except DecodeReject Instr :=
  if f.nw then .error .nwForbidden
  else if f.d != 0 then .error .unusedField else .ok (mk (.ofCode f.a) (.ofCode f.b))

/-- R format with nw = 0 only. -/
def dab (f : Fields) (mk : Operand → Operand → Operand → Instr) : Except DecodeReject Instr :=
  if f.nw then .error .nwForbidden else .ok (mk (.ofCode f.d) (.ofCode f.a) (.ofCode f.b))

/-- R format with nw (R47). -/
def nwDab (f : Fields) (dsrc : Bool) (mk : Bool → Operand → Operand → Operand → Instr) :
    Except DecodeReject Instr :=
  if f.nw && !dsrc && f.d != 0 then .error .nwDestination
  else .ok (mk f.nw (.ofCode f.d) (.ofCode f.a) (.ofCode f.b))

/-- U format, or R format without b, with nw (R47). -/
def nwDa (f : Fields) (dsrc : Bool) (mk : Bool → Operand → Operand → Instr) :
    Except DecodeReject Instr :=
  if f.nw && !dsrc && f.d != 0 then .error .nwDestination
  else .ok (mk f.nw (.ofCode f.d) (.ofCode f.a))

/-- QPUSH: the b field is a raw queue number (R165). -/
def nwDaq (f : Fields) (mk : Bool → Operand → Operand → BitVec 8 → Instr) :
    Except DecodeReject Instr :=
  if f.nw && f.d != 0 then .error .nwDestination
  else .ok (mk f.nw (.ofCode f.d) (.ofCode f.a) f.b)

/-- U format that uses a alone. -/
def aFn (f : Fields) (mk : Operand → Instr) : Except DecodeReject Instr :=
  if f.nw then .error .nwForbidden
  else if f.d != 0 then .error .unusedField else .ok (mk (.ofCode f.a))

/-- U format that uses d alone. -/
def dFn (f : Fields) (mk : Operand → Instr) : Except DecodeReject Instr :=
  if f.nw then .error .nwForbidden
  else if f.a != 0 then .error .unusedField else .ok (mk (.ofCode f.d))

/-- U format that uses d and a, nw = 0 only. -/
def daFn (f : Fields) (mk : Operand → Operand → Instr) : Except DecodeReject Instr :=
  if f.nw then .error .nwForbidden else .ok (mk (.ofCode f.d) (.ofCode f.a))

/-- U format that uses d with nw (the CLOCK group, R300). -/
def nwD (f : Fields) (mk : Bool → Operand → Instr) : Except DecodeReject Instr :=
  if f.a != 0 then .error .unusedField
  else if f.nw && f.d != 0 then .error .nwDestination else .ok (mk f.nw (.ofCode f.d))

/-- U format with no fields. -/
def noneFn (f : Fields) (i : Instr) : Except DecodeReject Instr :=
  if f.nw then .error .nwForbidden
  else if f.d != 0 || f.a != 0 then .error .unusedField else .ok i

/-- CMP (R58): fn[7] reserved, fn[6:4] the predicate, fn[3:0] the condition, d the second source. -/
def decodeCmp (f : Fields) : Except DecodeReject Instr :=
  let n := f.b.toNat
  if n / 128 = 1 then .error .reservedFunction
  else match Cond.ofCode (n % 16) with
    | none => .error .reservedFunction
    | some c => .ok (.cmp f.nw ⟨n / 16 % 8, by omega⟩ c (.ofCode f.a) (.ofCode f.d))

/-- CVT (R58): fn[7:5] reserved, fn[4:0] the source type code. -/
def decodeCvt (f : Fields) : Except DecodeReject Instr :=
  if f.b.toNat / 32 ≠ 0 then .error .reservedFunction
  else match ElemType.ofCode (f.b.toNat % 32) with
    | none => .error .reservedFunction
    | some t => nwDa f false (.cvt · t)

/-- PACK (R58): fn[7:4] the operation, fn[3:0] the position. The inserts read d. -/
def decodePack (f : Fields) : Except DecodeReject Instr :=
  let k := f.b.toNat % 16
  match f.b.toNat / 16 with
  | 0 => if h : k < 8 then nwDa f false (.packXn · ⟨k, h⟩) else .error .reservedFunction
  | 1 => if h : k < 4 then nwDa f false (.packXb · ⟨k, h⟩) else .error .reservedFunction
  | 2 => if h : k < 2 then nwDa f false (.packXh · ⟨k, h⟩) else .error .reservedFunction
  | 3 => if h : k < 8 then nwDa f true (.packIn · ⟨k, h⟩) else .error .reservedFunction
  | 4 => if h : k < 4 then nwDa f true (.packIb · ⟨k, h⟩) else .error .reservedFunction
  | 5 => if h : k < 2 then nwDa f true (.packIh · ⟨k, h⟩) else .error .reservedFunction
  | _ => .error .reservedFunction

/-- FENCE (R58): fn[7] reserved, fn[6:2] the paths (not all clear), fn[1:0] the scope. -/
def decodeFence (f : Fields) : Except DecodeReject Instr :=
  let n := f.b.toNat
  if n / 128 = 1 || n / 4 % 32 = 0 then .error .reservedFunction
  else if f.nw then .error .nwForbidden
  else if f.d != 0 || f.a != 0 then .error .unusedField
  else .ok (.fence (.ofCode (n / 4 % 32)) (.ofCode (n % 4)))

/-- Opcode 0x2B (R58). -/
def decodeUnary (f : Fields) : Except DecodeReject Instr :=
  match f.b.toNat with
  | 0x00 => nwDa f false .not
  | 0x01 => nwDa f false .neg
  | 0x02 => nwDa f false .abs
  | 0x03 => nwDa f false .popc
  | 0x04 => nwDa f false .clz
  | 0x05 => nwDa f false .ctz
  | 0x06 => nwDa f false .brev
  | 0x10 => nwDa f false .rcp
  | 0x11 => nwDa f false .rsq
  | 0x12 => nwDa f false .sqrt
  | 0x13 => nwDa f false .exp2
  | 0x14 => nwDa f false .log2
  | 0x15 => nwDa f false .sin2pi
  | 0x16 => nwDa f false .cos2pi
  | 0x17 => nwDa f false .floor
  | 0x18 => nwDa f false .ceil
  | 0x19 => nwDa f false .trunc
  | 0x1A => nwDa f false .rint
  | 0x1B => nwDa f false .frac
  | 0x1C => nwDa f false .class
  | _ => .error .reservedFunction
/-- Opcode 0x35 (R58). -/
def decodeVote (f : Fields) : Except DecodeReject Instr :=
  match f.b.toNat with
  | 0x00 => nwDa f false .voteAny
  | 0x01 => nwDa f false .voteAll
  | 0x02 => nwDa f false .voteUni
  | _ => .error .reservedFunction
/-- Opcode 0x37 (R58). -/
def decodeReduce (f : Fields) : Except DecodeReject Instr :=
  match f.b.toNat with
  | 0x00 => nwDa f false .reduceAdd
  | 0x01 => nwDa f false .reduceMin
  | 0x02 => nwDa f false .reduceMax
  | 0x03 => nwDa f false .reduceAnd
  | 0x04 => nwDa f false .reduceOr
  | 0x05 => nwDa f false .reduceXor
  | _ => .error .reservedFunction
/-- Opcode 0x38 (R58). -/
def decodeScan (f : Fields) : Except DecodeReject Instr :=
  match f.b.toNat with
  | 0x00 => nwDa f false (.scanAdd · false)
  | 0x01 => nwDa f false (.scanMin · false)
  | 0x02 => nwDa f false (.scanMax · false)
  | 0x03 => nwDa f false (.scanAnd · false)
  | 0x04 => nwDa f false (.scanOr · false)
  | 0x05 => nwDa f false (.scanXor · false)
  | 0x08 => nwDa f false (.scanAdd · true)
  | 0x09 => nwDa f false (.scanMin · true)
  | 0x0A => nwDa f false (.scanMax · true)
  | 0x0B => nwDa f false (.scanAnd · true)
  | 0x0C => nwDa f false (.scanOr · true)
  | 0x0D => nwDa f false (.scanXor · true)
  | _ => .error .reservedFunction
/-- Opcode 0x48 (R58). -/
def decodeCache (f : Fields) : Except DecodeReject Instr :=
  match f.b.toNat with
  | 0x00 => aFn f .pref
  | 0x01 => aFn f .clean
  | 0x02 => aFn f .inval
  | _ => .error .reservedFunction
/-- Opcode 0x55 (R58). -/
def decodeCombiner (f : Fields) : Except DecodeReject Instr :=
  match f.b.toNat with
  | 0x00 => dFn f .cmbarg
  | 0x01 => aFn f .cmbreply
  | 0x02 => noneFn f .cmbend
  | _ => .error .reservedFunction
/-- Opcode 0x67 (R58). -/
def decodeAcc (f : Fields) : Except DecodeReject Instr :=
  match f.b.toNat with
  | 0x00 => aFn f .accz
  | 0x01 => daFn f .accrd
  | 0x02 => daFn f .accwr
  | 0x03 => daFn f .acccvt
  | _ => .error .reservedFunction
/-- Opcode 0x68 (R58). -/
def decodeShelf (f : Fields) : Except DecodeReject Instr :=
  match f.b.toNat with
  | 0x00 => aFn f .cbld
  | 0x01 => aFn f .rotld
  | 0x02 => daFn f .rot
  | _ => .error .reservedFunction
/-- Opcode 0x69 (R58). -/
def decodeClock (f : Fields) : Except DecodeReject Instr :=
  match f.b.toNat with
  | 0x00 => nwD f .clockTick
  | 0x01 => nwD f .clockLogical
  | 0x02 => nwD f .clockPeriod
  | 0x03 => nwD f .clockPod
  | _ => .error .reservedFunction
/-- Opcode 0x70 (R58). -/
def decodeSeg (f : Fields) : Except DecodeReject Instr :=
  match f.b.toNat with
  | 0x00 => nwDa f false .segopen
  | 0x01 => aFn f .segseal
  | 0x02 => nwDa f false .segref
  | 0x03 => aFn f .segdrop
  | _ => .error .reservedFunction
/-- Opcode 0x73 (R58). -/
def decodeCtx (f : Fields) : Except DecodeReject Instr :=
  match f.b.toNat with
  | 0x00 => nwDa f false .ctxpin
  | 0x01 => noneFn f .ctxunpin
  | _ => .error .reservedFunction
/-- Opcode 0x74 (R58). -/
def decodeTask (f : Fields) : Except DecodeReject Instr :=
  match f.b.toNat with
  | 0x00 => nwDa f false .tkpost
  | 0x01 => noneFn f .tkdone
  | 0x02 => daFn f .tkpull
  | 0x03 => nwDa f false .tkcancel
  | 0x04 => nwDa f false .tkpark
  | 0x05 => nwDa f false .tkresume
  | _ => .error .reservedFunction
/-- Opcode 0x75 (R58). -/
def decodeNet (f : Fields) : Except DecodeReject Instr :=
  match f.b.toNat with
  | 0x00 => daFn f .nput
  | 0x08 => daFn f .nputOrd
  | 0x01 => daFn f .nget
  | 0x02 => daFn f .nsend
  | 0x0A => daFn f .nsendOrd
  | 0x03 => daFn f .nrecv
  | 0x04 => noneFn f .nfence
  | _ => .error .reservedFunction
/-- Opcode 0x77 (R58). -/
def decodeCsr (f : Fields) : Except DecodeReject Instr :=
  match f.b.toNat with
  | 0x00 => if f.nw && f.d != 0 then .error .nwDestination else .ok (.csrr f.nw (Operand.ofCode f.d) f.a)
  | 0x01 => if f.nw then .error .nwForbidden else .ok (.csrw (Operand.ofCode f.d) f.a)
  | 0x10 => noneFn f .trapretResume
  | 0x11 => noneFn f .trapretSkip
  | 0x12 => noneFn f .trapretExit
  | _ => .error .reservedFunction

/-- The instruction that the fields name (R56). -/
def decodeFields (f : Fields) : Except DecodeReject Instr :=
  match f.op.toNat with
  | 0x01 => none0 f .nop
  | 0x02 => if f.nw || f.d != 0 then .error .modeField else .ok (.mode (imm16 f))
  | 0x03 => dImm f false .li
  | 0x04 => dImm f true .lih
  | 0x05 => dImm f true .addi
  | 0x06 => .ok (.br (off25 f))
  | 0x07 => .ok (.jmp (off25 f))
  | 0x08 => .ok (.call (off25 f))
  | 0x09 => .ok (.jpt (off25 f))
  | 0x0A => aOnly f .ret
  | 0x0B => aAndB f .jtab
  | 0x0C => none0 f .exit
  | 0x0D => none0 f .yield
  | 0x0E => if f.nw then .error .nwForbidden else if f.d != 0 then .error .unusedField else .ok (.trap (imm16 f))
  | 0x0F => dab f .sysc
  | 0x10 => nwDab f false .add
  | 0x11 => nwDab f false .sub
  | 0x12 => nwDab f false .mul
  | 0x13 => nwDab f false .mulh
  | 0x14 => nwDab f true .mad
  | 0x15 => nwDab f false .min
  | 0x16 => nwDab f false .max
  | 0x17 => nwDab f true .addmin
  | 0x18 => nwDab f true .addmax
  | 0x19 => nwDab f false .and
  | 0x1A => nwDab f false .or
  | 0x1B => nwDab f false .xor
  | 0x1C => nwDab f false .shl
  | 0x1D => nwDab f false .shr
  | 0x1E => nwDab f false .sha
  | 0x1F => nwDab f true .fshl
  | 0x20 => nwDab f true .fshr
  | 0x21 => nwDab f false .rol
  | 0x22 => nwDab f true .sel
  | 0x23 => nwDab f false .bfx
  | 0x24 => nwDab f true .bfi
  | 0x25 => decodeCmp f
  | 0x26 => nwDab f false .div
  | 0x27 => nwDab f false .rem
  | 0x28 => nwDab f false .twosum
  | 0x29 => nwDab f false .fasttwosum
  | 0x2A => nwDab f false .twoprod
  | 0x2B => decodeUnary f
  | 0x2C => decodeCvt f
  | 0x2D => decodePack f
  | 0x30 => nwDab f false .shfl
  | 0x31 => nwDab f false .shflup
  | 0x32 => nwDab f false .shfldn
  | 0x33 => nwDab f false .shflx
  | 0x34 => if f.b != 0 then .error .unusedField else nwDa f false .ballot
  | 0x35 => decodeVote f
  | 0x36 => if f.b != 0 then .error .unusedField else nwDa f false .match_
  | 0x37 => decodeReduce f
  | 0x38 => decodeScan f
  | 0x39 => nwDab f false .bcast
  | 0x40 => dab f .ld
  | 0x41 => dab f .st
  | 0x42 => dab f .lds
  | 0x43 => dab f .sts
  | 0x44 => dab f .stm
  | 0x45 => dab f .ldacq
  | 0x46 => dab f .strel
  | 0x47 => decodeFence f
  | 0x48 => decodeCache f
  | 0x49 => aOnly f .monitor
  | 0x4A => none0 f .mwait
  | 0x4C => nwDab f false .atadd
  | 0x4D => nwDab f false .atmin
  | 0x4E => nwDab f false .atmax
  | 0x4F => nwDab f false .atand
  | 0x50 => nwDab f false .ator
  | 0x51 => nwDab f false .atxor
  | 0x52 => nwDab f false .atxchg
  | 0x53 => if f.b != 0 then .error .unusedField else nwDa f true .atcas
  | 0x54 => nwDab f false .comb
  | 0x55 => decodeCombiner f
  | 0x56 => nwDab f false .arrive
  | 0x57 => aAndB f .waitb
  | 0x58 => aAndB f .bar
  | 0x59 => nwDaq f .qpush
  | 0x5A => if f.nw then .error .nwForbidden else if f.a != 0 then .error .unusedField else .ok (.qpop (Operand.ofCode f.d) f.b)
  | 0x5B => if f.a != 0 then .error .unusedField else if f.nw && f.d != 0 then .error .nwDestination else .ok (.qstat f.nw (Operand.ofCode f.d) f.b)
  | 0x60 => nwDab f false .copy
  | 0x61 => nwDab f false .copym
  | 0x62 => aAndB f .engwait
  | 0x63 => aOnly f .sleepuntil
  | 0x64 => aOnly f .publish
  | 0x65 => nwDab f false .quant2
  | 0x66 => aAndB f .mma
  | 0x67 => decodeAcc f
  | 0x68 => decodeShelf f
  | 0x69 => decodeClock f
  | 0x70 => decodeSeg f
  | 0x71 => nwDab f false .link
  | 0x72 => nwDab f false .unlink
  | 0x73 => decodeCtx f
  | 0x74 => decodeTask f
  | 0x75 => decodeNet f
  | 0x76 => nwDab f false .launch
  | 0x77 => decodeCsr f
  | _ => .ok (.illegal f.word)

/-- The decoder of wave words: total, rejecting by name (R62). -/
def decodeWord (w : Word) : Except DecodeReject Instr := decodeFields (fieldsOf w)

/-! ### The encoder -/

/-- The fields of an instruction's word; a unit step has none. -/
def encodeFields : Instr → Option Fields
  | .illegal w => some (fieldsOf w)
  | .nop => some ⟨0x01, false, 0, 0, 0⟩
  | .mode imm => some ⟨0x02, false, 0, immHi imm, immLo imm⟩
  | .li nw d imm => some ⟨0x03, nw, d.code, immHi imm, immLo imm⟩
  | .lih nw d imm => some ⟨0x04, nw, d.code, immHi imm, immLo imm⟩
  | .addi nw d imm => some ⟨0x05, nw, d.code, immHi imm, immLo imm⟩
  | .br off => some (offFields 0x06 off)
  | .jmp off => some (offFields 0x07 off)
  | .call off => some (offFields 0x08 off)
  | .jpt off => some (offFields 0x09 off)
  | .ret a => some ⟨0x0A, false, 0, a.code, 0⟩
  | .jtab a b => some ⟨0x0B, false, 0, a.code, b.code⟩
  | .exit => some ⟨0x0C, false, 0, 0, 0⟩
  | .yield => some ⟨0x0D, false, 0, 0, 0⟩
  | .trap imm => some ⟨0x0E, false, 0, immHi imm, immLo imm⟩
  | .sysc d a b => some ⟨0x0F, false, d.code, a.code, b.code⟩
  | .add nw d a b => some ⟨0x10, nw, d.code, a.code, b.code⟩
  | .sub nw d a b => some ⟨0x11, nw, d.code, a.code, b.code⟩
  | .mul nw d a b => some ⟨0x12, nw, d.code, a.code, b.code⟩
  | .mulh nw d a b => some ⟨0x13, nw, d.code, a.code, b.code⟩
  | .mad nw d a b => some ⟨0x14, nw, d.code, a.code, b.code⟩
  | .min nw d a b => some ⟨0x15, nw, d.code, a.code, b.code⟩
  | .max nw d a b => some ⟨0x16, nw, d.code, a.code, b.code⟩
  | .addmin nw d a b => some ⟨0x17, nw, d.code, a.code, b.code⟩
  | .addmax nw d a b => some ⟨0x18, nw, d.code, a.code, b.code⟩
  | .and nw d a b => some ⟨0x19, nw, d.code, a.code, b.code⟩
  | .or nw d a b => some ⟨0x1A, nw, d.code, a.code, b.code⟩
  | .xor nw d a b => some ⟨0x1B, nw, d.code, a.code, b.code⟩
  | .shl nw d a b => some ⟨0x1C, nw, d.code, a.code, b.code⟩
  | .shr nw d a b => some ⟨0x1D, nw, d.code, a.code, b.code⟩
  | .sha nw d a b => some ⟨0x1E, nw, d.code, a.code, b.code⟩
  | .fshl nw d a b => some ⟨0x1F, nw, d.code, a.code, b.code⟩
  | .fshr nw d a b => some ⟨0x20, nw, d.code, a.code, b.code⟩
  | .rol nw d a b => some ⟨0x21, nw, d.code, a.code, b.code⟩
  | .sel nw d a b => some ⟨0x22, nw, d.code, a.code, b.code⟩
  | .bfx nw d a b => some ⟨0x23, nw, d.code, a.code, b.code⟩
  | .bfi nw d a b => some ⟨0x24, nw, d.code, a.code, b.code⟩
  | .cmp nw k c a b => some ⟨0x25, nw, b.code, a.code, BitVec.ofNat 8 (16 * k.val + c.code)⟩
  | .div nw d a b => some ⟨0x26, nw, d.code, a.code, b.code⟩
  | .rem nw d a b => some ⟨0x27, nw, d.code, a.code, b.code⟩
  | .twosum nw d a b => some ⟨0x28, nw, d.code, a.code, b.code⟩
  | .fasttwosum nw d a b => some ⟨0x29, nw, d.code, a.code, b.code⟩
  | .twoprod nw d a b => some ⟨0x2A, nw, d.code, a.code, b.code⟩
  | .not nw d a => some ⟨0x2B, nw, d.code, a.code, 0x00⟩
  | .neg nw d a => some ⟨0x2B, nw, d.code, a.code, 0x01⟩
  | .abs nw d a => some ⟨0x2B, nw, d.code, a.code, 0x02⟩
  | .popc nw d a => some ⟨0x2B, nw, d.code, a.code, 0x03⟩
  | .clz nw d a => some ⟨0x2B, nw, d.code, a.code, 0x04⟩
  | .ctz nw d a => some ⟨0x2B, nw, d.code, a.code, 0x05⟩
  | .brev nw d a => some ⟨0x2B, nw, d.code, a.code, 0x06⟩
  | .rcp nw d a => some ⟨0x2B, nw, d.code, a.code, 0x10⟩
  | .rsq nw d a => some ⟨0x2B, nw, d.code, a.code, 0x11⟩
  | .sqrt nw d a => some ⟨0x2B, nw, d.code, a.code, 0x12⟩
  | .exp2 nw d a => some ⟨0x2B, nw, d.code, a.code, 0x13⟩
  | .log2 nw d a => some ⟨0x2B, nw, d.code, a.code, 0x14⟩
  | .sin2pi nw d a => some ⟨0x2B, nw, d.code, a.code, 0x15⟩
  | .cos2pi nw d a => some ⟨0x2B, nw, d.code, a.code, 0x16⟩
  | .floor nw d a => some ⟨0x2B, nw, d.code, a.code, 0x17⟩
  | .ceil nw d a => some ⟨0x2B, nw, d.code, a.code, 0x18⟩
  | .trunc nw d a => some ⟨0x2B, nw, d.code, a.code, 0x19⟩
  | .rint nw d a => some ⟨0x2B, nw, d.code, a.code, 0x1A⟩
  | .frac nw d a => some ⟨0x2B, nw, d.code, a.code, 0x1B⟩
  | .class nw d a => some ⟨0x2B, nw, d.code, a.code, 0x1C⟩
  | .cvt nw src d a => some ⟨0x2C, nw, d.code, a.code, BitVec.ofNat 8 src.code⟩
  | .packXn nw k d a => some ⟨0x2D, nw, d.code, a.code, BitVec.ofNat 8 (0 + k.val)⟩
  | .packXb nw k d a => some ⟨0x2D, nw, d.code, a.code, BitVec.ofNat 8 (16 + k.val)⟩
  | .packXh nw k d a => some ⟨0x2D, nw, d.code, a.code, BitVec.ofNat 8 (32 + k.val)⟩
  | .packIn nw k d a => some ⟨0x2D, nw, d.code, a.code, BitVec.ofNat 8 (48 + k.val)⟩
  | .packIb nw k d a => some ⟨0x2D, nw, d.code, a.code, BitVec.ofNat 8 (64 + k.val)⟩
  | .packIh nw k d a => some ⟨0x2D, nw, d.code, a.code, BitVec.ofNat 8 (80 + k.val)⟩
  | .shfl nw d a b => some ⟨0x30, nw, d.code, a.code, b.code⟩
  | .shflup nw d a b => some ⟨0x31, nw, d.code, a.code, b.code⟩
  | .shfldn nw d a b => some ⟨0x32, nw, d.code, a.code, b.code⟩
  | .shflx nw d a b => some ⟨0x33, nw, d.code, a.code, b.code⟩
  | .ballot nw d a => some ⟨0x34, nw, d.code, a.code, 0⟩
  | .voteAny nw d a => some ⟨0x35, nw, d.code, a.code, 0x00⟩
  | .voteAll nw d a => some ⟨0x35, nw, d.code, a.code, 0x01⟩
  | .voteUni nw d a => some ⟨0x35, nw, d.code, a.code, 0x02⟩
  | .match_ nw d a => some ⟨0x36, nw, d.code, a.code, 0⟩
  | .reduceAdd nw d a => some ⟨0x37, nw, d.code, a.code, 0x00⟩
  | .reduceMin nw d a => some ⟨0x37, nw, d.code, a.code, 0x01⟩
  | .reduceMax nw d a => some ⟨0x37, nw, d.code, a.code, 0x02⟩
  | .reduceAnd nw d a => some ⟨0x37, nw, d.code, a.code, 0x03⟩
  | .reduceOr nw d a => some ⟨0x37, nw, d.code, a.code, 0x04⟩
  | .reduceXor nw d a => some ⟨0x37, nw, d.code, a.code, 0x05⟩
  | .scanAdd nw x d a => some ⟨0x38, nw, d.code, a.code, BitVec.ofNat 8 (0 + if x then 8 else 0)⟩
  | .scanMin nw x d a => some ⟨0x38, nw, d.code, a.code, BitVec.ofNat 8 (1 + if x then 8 else 0)⟩
  | .scanMax nw x d a => some ⟨0x38, nw, d.code, a.code, BitVec.ofNat 8 (2 + if x then 8 else 0)⟩
  | .scanAnd nw x d a => some ⟨0x38, nw, d.code, a.code, BitVec.ofNat 8 (3 + if x then 8 else 0)⟩
  | .scanOr nw x d a => some ⟨0x38, nw, d.code, a.code, BitVec.ofNat 8 (4 + if x then 8 else 0)⟩
  | .scanXor nw x d a => some ⟨0x38, nw, d.code, a.code, BitVec.ofNat 8 (5 + if x then 8 else 0)⟩
  | .bcast nw d a b => some ⟨0x39, nw, d.code, a.code, b.code⟩
  | .ld d a b => some ⟨0x40, false, d.code, a.code, b.code⟩
  | .st d a b => some ⟨0x41, false, d.code, a.code, b.code⟩
  | .lds d a b => some ⟨0x42, false, d.code, a.code, b.code⟩
  | .sts d a b => some ⟨0x43, false, d.code, a.code, b.code⟩
  | .stm d a b => some ⟨0x44, false, d.code, a.code, b.code⟩
  | .ldacq d a b => some ⟨0x45, false, d.code, a.code, b.code⟩
  | .strel d a b => some ⟨0x46, false, d.code, a.code, b.code⟩
  | .fence p sc => some ⟨0x47, false, 0, 0, BitVec.ofNat 8 (p.code * 4 + sc.code)⟩
  | .pref a => some ⟨0x48, false, 0, a.code, 0x00⟩
  | .clean a => some ⟨0x48, false, 0, a.code, 0x01⟩
  | .inval a => some ⟨0x48, false, 0, a.code, 0x02⟩
  | .monitor a => some ⟨0x49, false, 0, a.code, 0⟩
  | .mwait => some ⟨0x4A, false, 0, 0, 0⟩
  | .atadd nw d a b => some ⟨0x4C, nw, d.code, a.code, b.code⟩
  | .atmin nw d a b => some ⟨0x4D, nw, d.code, a.code, b.code⟩
  | .atmax nw d a b => some ⟨0x4E, nw, d.code, a.code, b.code⟩
  | .atand nw d a b => some ⟨0x4F, nw, d.code, a.code, b.code⟩
  | .ator nw d a b => some ⟨0x50, nw, d.code, a.code, b.code⟩
  | .atxor nw d a b => some ⟨0x51, nw, d.code, a.code, b.code⟩
  | .atxchg nw d a b => some ⟨0x52, nw, d.code, a.code, b.code⟩
  | .atcas nw d a => some ⟨0x53, nw, d.code, a.code, 0⟩
  | .comb nw d a b => some ⟨0x54, nw, d.code, a.code, b.code⟩
  | .cmbarg d => some ⟨0x55, false, d.code, 0, 0x00⟩
  | .cmbreply a => some ⟨0x55, false, 0, a.code, 0x01⟩
  | .cmbend => some ⟨0x55, false, 0, 0, 0x02⟩
  | .arrive nw d a b => some ⟨0x56, nw, d.code, a.code, b.code⟩
  | .waitb a b => some ⟨0x57, false, 0, a.code, b.code⟩
  | .bar a b => some ⟨0x58, false, 0, a.code, b.code⟩
  | .qpush nw d a q => some ⟨0x59, nw, d.code, a.code, q⟩
  | .qpop d q => some ⟨0x5A, false, d.code, 0, q⟩
  | .qstat nw d q => some ⟨0x5B, nw, d.code, 0, q⟩
  | .copy nw d a b => some ⟨0x60, nw, d.code, a.code, b.code⟩
  | .copym nw d a b => some ⟨0x61, nw, d.code, a.code, b.code⟩
  | .engwait a b => some ⟨0x62, false, 0, a.code, b.code⟩
  | .sleepuntil a => some ⟨0x63, false, 0, a.code, 0⟩
  | .publish a => some ⟨0x64, false, 0, a.code, 0⟩
  | .quant2 nw d a b => some ⟨0x65, nw, d.code, a.code, b.code⟩
  | .mma a b => some ⟨0x66, false, 0, a.code, b.code⟩
  | .accz a => some ⟨0x67, false, 0, a.code, 0x00⟩
  | .accrd d a => some ⟨0x67, false, d.code, a.code, 0x01⟩
  | .accwr d a => some ⟨0x67, false, d.code, a.code, 0x02⟩
  | .acccvt d a => some ⟨0x67, false, d.code, a.code, 0x03⟩
  | .cbld a => some ⟨0x68, false, 0, a.code, 0x00⟩
  | .rotld a => some ⟨0x68, false, 0, a.code, 0x01⟩
  | .rot d a => some ⟨0x68, false, d.code, a.code, 0x02⟩
  | .clockTick nw d => some ⟨0x69, nw, d.code, 0, 0x00⟩
  | .clockLogical nw d => some ⟨0x69, nw, d.code, 0, 0x01⟩
  | .clockPeriod nw d => some ⟨0x69, nw, d.code, 0, 0x02⟩
  | .clockPod nw d => some ⟨0x69, nw, d.code, 0, 0x03⟩
  | .segopen nw d a => some ⟨0x70, nw, d.code, a.code, 0x00⟩
  | .segseal a => some ⟨0x70, false, 0, a.code, 0x01⟩
  | .segref nw d a => some ⟨0x70, nw, d.code, a.code, 0x02⟩
  | .segdrop a => some ⟨0x70, false, 0, a.code, 0x03⟩
  | .link nw d a b => some ⟨0x71, nw, d.code, a.code, b.code⟩
  | .unlink nw d a b => some ⟨0x72, nw, d.code, a.code, b.code⟩
  | .ctxpin nw d a => some ⟨0x73, nw, d.code, a.code, 0x00⟩
  | .ctxunpin => some ⟨0x73, false, 0, 0, 0x01⟩
  | .tkpost nw d a => some ⟨0x74, nw, d.code, a.code, 0x00⟩
  | .tkdone => some ⟨0x74, false, 0, 0, 0x01⟩
  | .tkpull d a => some ⟨0x74, false, d.code, a.code, 0x02⟩
  | .tkcancel nw d a => some ⟨0x74, nw, d.code, a.code, 0x03⟩
  | .tkpark nw d a => some ⟨0x74, nw, d.code, a.code, 0x04⟩
  | .tkresume nw d a => some ⟨0x74, nw, d.code, a.code, 0x05⟩
  | .nput d a => some ⟨0x75, false, d.code, a.code, 0x00⟩
  | .nputOrd d a => some ⟨0x75, false, d.code, a.code, 0x08⟩
  | .nget d a => some ⟨0x75, false, d.code, a.code, 0x01⟩
  | .nsend d a => some ⟨0x75, false, d.code, a.code, 0x02⟩
  | .nsendOrd d a => some ⟨0x75, false, d.code, a.code, 0x0A⟩
  | .nrecv d a => some ⟨0x75, false, d.code, a.code, 0x03⟩
  | .nfence => some ⟨0x75, false, 0, 0, 0x04⟩
  | .launch nw d a b => some ⟨0x76, nw, d.code, a.code, b.code⟩
  | .csrr nw d c => some ⟨0x77, nw, d.code, c, 0x00⟩
  | .csrw d c => some ⟨0x77, false, d.code, c, 0x01⟩
  | .trapretResume => some ⟨0x77, false, 0, 0, 0x10⟩
  | .trapretSkip => some ⟨0x77, false, 0, 0, 0x11⟩
  | .trapretExit => some ⟨0x77, false, 0, 0, 0x12⟩
  | .cdmLaunch _ _ _ => none
  | .cdmLstat _ _ _ => none
  | .waveWake _ _ => none
  | .waveEnd _ => none
  | .loadReply _ _ => none
  | .atomicRequest _ => none
  | .atomicReply _ _ => none
  | .homeRead _ => none
  | .homeWrite _ => none
  | .sectorWriteback _ => none
  | .l2Fill _ _ => none
  | .expandedRead _ _ => none
  | .combRequest _ => none
  | .combinerBatch _ => none
  | .methodInstructionLimit _ => none
  | .combReply _ _ => none
  | .linkMethod _ => none
  | .editionCommit _ => none
  | .releaseRecordAppend _ => none
  | .releaseComplete _ => none
  | .barrierArrival _ => none
  | .pageWalk _ _ _ => none
  | .tlbinvAll => none
  | .tlbinvAsid _ => none
  | .tlbinvPage _ _ => none
  | .tlbinvComplete => none
  | .writeback _ _ _ _ => none
  | .overflowRetry _ _ _ _ => none
  | .lineRead _ _ => none
  | .mcpgcmdPacked _ _ _ => none
  | .mcpgcmdFixed _ _ _ _ => none
  | .mcpgcmdUnbacked _ _ _ => none
  | .mcpgcmdReserved _ _ _ => none
  | .mccrd _ _ => none
  | .mcerrlogPop _ => none
  | .mcresvWrite _ _ _ => none
  | .fwRegisterWrite _ _ _ => none
  | .nvmeCompletion _ _ _ _ => none
  | .commandAccept _ _ => none
  | .commandLanded _ _ => none
  | .commandFailed _ _ _ _ => none
  | .publishInstant _ => none
  | .mmaStep _ _ => none
  | .arrayEntryExecute _ => none
  | .accownWrite _ _ _ => none
  | .mgstrWrite _ _ => none
  | .psctlRun _ => none
  | .psctlStop _ => none
  | .producerLoadWrite _ _ _ => none
  | .cmbctlStop => none
  | .cmbctlResume => none
  | .cmbMethodWrite _ _ => none
  | .dlConfigWrite _ _ _ => none
  | .dldropRead _ => none
  | .launchReady _ => none
  | .starvationBound _ => none
  | .schctxRun _ => none
  | .schctxStop _ => none
  | .schboundWrite _ => none
  | .gangSave _ => none
  | .gangResume _ => none
  | .quantumEnd _ => none
  | .periodEnd _ => none
  | .periodAdvance _ => none
  | .syscPost _ _ => none
  | .syscReply _ _ _ _ => none
  | .freezeRecordAppend => none
  | .frzcmdThaw _ => none
  | .frzcmdKill _ => none
  | .frzcmdHalt _ => none
  | .taskHandout _ => none
  | .taskIrrevocable _ => none
  | .resumeRecordAppend _ => none
  | .catctlStop => none
  | .catctlResume => none
  | .packetArrival _ _ _ => none
  | .packetForward _ => none
  | .orderedDelivery => none
  | .remoteAccess _ => none
  | .netReply _ => none
  | .heldPush _ => none
  | .beacon _ => none
  | .watermarkStall _ => none
  | .klresume _ => none
  | .klportEnable _ _ => none
  | .podset _ => none
  | .ptpEventMessage _ _ => none
  | .ethernetFrame _ _ _ => none
  | .powerOnReset _ _ _ => none
  | .bootWatchdog => none
  | .bootstatWrite _ => none
  | .partclWrite _ _ => none
  | .pwrlimWrite _ => none
  | .thermalTrip _ => none
  | .marginReplan _ => none
  | .vddarrWrite _ _ => none
  | .counterSelectWrite _ _ _ => none
  | .registerWrite _ _ => none
  | .hostBarAccess _ => none
  | .powerThermalThrottle _ _ => none

/-! ### The control cores' extension (R285) -/

/-- The R-type word of the launch extension: rs2, rs1, funct3, rd in custom-0, funct7 = 0 (R285). -/
def cdmWord (funct3 : Nat) (rs2 rs1 rd : Fin 32) : Word :=
  BitVec.ofNat 32 (rs2.val * 2 ^ 20 + rs1.val * 2 ^ 15 + funct3 * 2 ^ 12 + rd.val * 2 ^ 7 + 0x0B)

/-- The decoder of control-core words: `none` for a word outside the launch extension. -/
def decodeCdm (w : Word) : Option Instr :=
  let n := w.toNat
  if n % 128 = 0x0B && n / 2 ^ 25 = 0 then
    match n / 2 ^ 12 % 8 with
    | 0 => some (.cdmLaunch ⟨n / 2 ^ 20 % 32, by omega⟩ ⟨n / 2 ^ 15 % 32, by omega⟩ ⟨n / 2 ^ 7 % 32, by omega⟩)
    | 1 => some (.cdmLstat ⟨n / 2 ^ 20 % 32, by omega⟩ ⟨n / 2 ^ 15 % 32, by omega⟩ ⟨n / 2 ^ 7 % 32, by omega⟩)
    | _ => none
  else none

/-- The word of an instruction, where it has one. -/
def encode (i : Instr) : Option Word :=
  match i with
  | .cdmLaunch rs2 rs1 rd => some (cdmWord 0 rs2 rs1 rd)
  | .cdmLstat rs2 rs1 rd => some (cdmWord 1 rs2 rs1 rd)
  | i => (encodeFields i).map Fields.word

/-- The word a trap record holds (TWORD, R323) for a wave instruction. -/
def wordOf (i : Instr) : Word := (encode i).getD 0

/-- The bytes of a word in memory, little-endian (R3). -/
def wordBytes (w : Word) : List Byte := leBytes 4 w.toNat

/-- The word that four bytes hold, little-endian (R3). -/
def wordOfBytes (bs : List Byte) : Word := BitVec.ofNat 32 (leNat bs)

/-- The instruction read from a table row's bits: a control-core word where the bits are one of the
launch extension, otherwise a wave word. The two agents fetch from different places, so the two
decoders never meet on the device; here the opcode table's own rows tell them apart. -/
def decodeTableWord (nbits w : Nat) : Option Instr :=
  let x := wordOfBytes (leBytes 4 (w % 2 ^ nbits))
  match decodeCdm x with
  | some i => some i
  | none =>
    match decodeWord x with
    | .ok i => some i
    | .error _ => none

end Sys2Proof
end

