-- ==== Sys2Proof/Config.lean ====
section
/-! DEFINITION. The free values: what the spec leaves open, as constants with no body. Nothing can evaluate
them, so a claim that holds of the model holds whatever they are. Each is applied to the counter
`State.freeCtr`, which the step that uses it advances, or to the operands it depends on. -/

namespace Sys2Proof.Config

/-- Device ticks that pass beside one step, less one (R5, R37: no latency is fixed). [DESIGN CHOICE, log 7, unsafe] -/
opaque tickGap : Nat → Nat
/-- Pipe cycles that a stalled instruction holds its pipe in one step, less one (R38: no latency is fixed). -/
opaque stallCycles : Nat → Nat
/-- A soft error of two bits that comes up beside one step (R212): core, memory, word. [DESIGN CHOICE, log 125, safe] -/
opaque strike : Nat → Option (Nat × Nat × Nat)
/-- Pod-time units that pass in one step, in units of 2^-40 of a unit (R394, R395). [DESIGN CHOICE, log 7, unsafe] -/
opaque podGap : Nat → Nat
/-- Packets of one virtual channel that a port's receiver has room for, less one (R391). [DESIGN CHOICE, log 126, unsafe] -/
opaque linkDepth : Nat
/-- A credit that comes back beside one step (R391): 3 · port + channel. [DESIGN CHOICE, log 126, unsafe] -/
opaque creditReturn : Nat → Option Nat
/-- The device serial, which the PUF fixes (R413). [DESIGN CHOICE, log 97, unsafe] -/
opaque serial : DWord
/-- The boot flash holds an image and a record whose key and signatures the boot ROM accepts (R413). [DESIGN CHOICE, log 97, unsafe] -/
opaque flashSigned : List (Nat × BitVec 8) → Bool
/-- The record of the boot flash can be applied (R413). [DESIGN CHOICE, log 97, unsafe] -/
opaque recordApplies : List (Nat × BitVec 8) → Bool
/-- The configuration record that the boot flash holds (R413, R414); the layout of the flash is not stated. [DESIGN CHOICE, log 97, unsafe] -/
opaque bootRecord : List (Nat × BitVec 8) → BootRecord
/-- The version of the image that the boot flash holds (R413). [DESIGN CHOICE, log 97, unsafe] -/
opaque imageVersion : List (Nat × BitVec 8) → Nat
/-- Ticks that a ramp of an array voltage lasts beyond the shortest time (R421). [DESIGN CHOICE, log 95, unsafe] -/
opaque rampSlack : Nat → Nat
/-- The slack of a promise over the acceptance tick plus 1 (R195). [DESIGN CHOICE, log 44, safe] -/
opaque promiseSlack : Nat → Nat
/-- The index of the free values that a step of a deterministic domain takes: the domain's own data fix it (R303). [DESIGN CHOICE, log 130, unsafe] -/
opaque domainFree : List Nat → Nat
/-- The choice between two bytes where either is allowed (R191). [DESIGN CHOICE, log 6, unsafe; DESIGN CHOICE, log 45, safe] -/
opaque chooseByte : Nat → Bool
/-- A correctly rounded result that the bounded computation of a transcendental function does not settle
(R254): function code, operand, rounding code. [DESIGN CHOICE, log 23, safe] -/
opaque undecided : Nat → Word → Nat → Word
/-- The context for which the control cores load the combiner engines (R297). [DESIGN CHOICE, log 92, unsafe] -/
opaque reloadContext : Nat → BitVec 8
/-- Which of several entries a unit takes: a free slot, a packet of an output (R336, R391). [DESIGN CHOICE, log 6, unsafe; DESIGN CHOICE, log 57, safe] -/
opaque chooseIndex : Nat → Nat
/-- A namespace of a drive has 4,096-byte logical blocks, not 512-byte ones (R109): drive and namespace id. [DESIGN CHOICE, log 47, safe] -/
opaque wideBlocks : Nat → Nat → Bool
/-- A word that the spec leaves unstated. [DESIGN CHOICE, log 6, unsafe; DESIGN CHOICE, log 67, safe] -/
opaque freeWord : Nat → Word
/-- A 64-bit value that the spec leaves unstated. [DESIGN CHOICE, log 6, unsafe] -/
opaque freeDWord : Nat → DWord

end Sys2Proof.Config
end

