-- ==== Sys2Proof/Machine/Memory.lean ====
section
/-! DEFINITION. Sparse maps in one canonical form: a list of (key, value) pairs, keys strictly rising, no
entry equal to what an unlisted key reads as. `Memory` is such a map of bytes. -/

namespace Sys2Proof.Machine

/-- A sparse map: key and value, keys strictly rising. -/
abbrev SMap (α : Type) := List (Nat × α)

/-- The listed value at a key, if there is one. -/
def SMap.at? {α : Type} : SMap α → Nat → Option α
  | [], _ => none
  | (j, v) :: m, k => if j = k then some v else if k < j then none else SMap.at? m k

/-- The value at a key; an unlisted key reads as `d`. -/
def SMap.get {α : Type} (d : α) (m : SMap α) (k : Nat) : α := (SMap.at? m k).getD d

/-- The map with the entry at `k` removed. -/
def SMap.erase {α : Type} : SMap α → Nat → SMap α
  | [], _ => []
  | (j, v) :: m, k => if j = k then m else if k < j then (j, v) :: m else (j, v) :: SMap.erase m k

/-- The map with the entry `(k, x)`, in its place. -/
def SMap.insert {α : Type} : SMap α → Nat → α → SMap α
  | [], k, x => [(k, x)]
  | (j, v) :: m, k, x =>
    if j = k then (k, x) :: m
    else if k < j then (k, x) :: (j, v) :: m
    else (j, v) :: SMap.insert m k x

/-- The map that reads as `x` at `k` and as before elsewhere; writing the default removes the entry. -/
def SMap.set {α : Type} [DecidableEq α] (d : α) (m : SMap α) (k : Nat) (x : α) : SMap α :=
  if x = d then SMap.erase m k else SMap.insert m k x

/-- Keys strictly rising, all above `lo`, no entry equal to the default of its key. -/
def SMap.wfFrom {α : Type} [DecidableEq α] (d : Nat → α) : Option Nat → SMap α → Bool
  | _, [] => true
  | lo, (k, v) :: m => (match lo with | none => true | some l => decide (l < k)) && decide (v ≠ d k)
      && SMap.wfFrom d (some k) m

/-- The canonical form. -/
def SMap.wf {α : Type} [DecidableEq α] (d : Nat → α) (m : SMap α) : Bool := SMap.wfFrom d none m

/-- Byte memory: an unlisted address reads as 0. For line space this is the ZERO entry of R95, the reset
content of the concordance; for the scratchpad and the Stacks a named reset value. -/
abbrev Memory := List Host.Cell

/-- What an unlisted address reads as. [DESIGN CHOICE, log 14, unsafe] -/
def Memory.blank : Byte := 0

/-- One byte. [DESIGN CHOICE, log 14, unsafe] -/
def Memory.read (m : Memory) (a : Nat) : Byte := SMap.get Memory.blank m a

/-- The memory with one byte written. -/
def Memory.write (m : Memory) (a : Nat) (b : Byte) : Memory := SMap.set Memory.blank m a b

/-- `n` consecutive bytes. -/
def Memory.readN (m : Memory) (a : Nat) : Nat → List Byte
  | 0 => []
  | n + 1 => m.read a :: Memory.readN m (a + 1) n

/-- Consecutive bytes written, the first at `a`. -/
def Memory.writeN (m : Memory) (a : Nat) : List Byte → Memory
  | [] => m
  | b :: bs => Memory.writeN (m.write a b) (a + 1) bs

/-- A range set to zero: its entries dropped. -/
def Memory.clear (m : Memory) (a n : Nat) : Memory := m.filter fun c => !(decide (a ≤ c.1) && decide (c.1 < a + n))

/-- The canonical form of memory. -/
def Memory.wf (m : Memory) : Bool := SMap.wf (fun _ => Memory.blank) m

end Sys2Proof.Machine
end

