-- ==== Sys2Proof/Machine/State.lean ====
section
/-! DEFINITION. The state of the machine as plain data, its faults and refusals, and the state after reset. -/

namespace Sys2Proof.Machine

/-! ## A wave's own state -/

/-- The mode word M (R48), as its fields; the reserved type and rounding codes cannot enter it (R49). -/
structure Mode where
  scope : Scope
  sat : Bool
  round : Rounding
  type : ElemType
  ginv : Bool
  gen : Bool
  gidx : Fin 8
  deriving DecidableEq, Repr

/-- M at placement: 0x0040 (R16, R48). -/
def Mode.initial : Mode :=
  { scope := .wg, sat := false, round := .rne, type := .i32, ginv := false, gen := false, gidx := 0 }

/-- A bypass latch (R51). -/
structure Latch where
  val : Lanes
  valid : Bool
  uniform : Bool
  deriving DecidableEq, Repr

/-- An invalid latch. -/
def Latch.empty : Latch := { val := splat 0, valid := false, uniform := false }

/-- A register a deferred result may name (R54). -/
inductive RegName where
  | v (r : Fin 128)
  | s (r : Fin 64)
  deriving DecidableEq, Repr

/-- Trap codes (R320). -/
inductive TrapCode where
  | illegalOp | illegalOperand | latchStale | privileged
  | memFault | memProt | memAlign | memRace | eccUncorr | windowWrite
  | jtabRange | retEmpty | retDiverge | callDepth | barMask
  | promiseMissed | accOwned | engFault | combFault
  | taskCancelled | versionFull | linkState | soft | syscErr | debugHalt
  /-- No trap of R320: an access across a partition boundary, which freezes its master (R339, R417). -/
  | boundary
  deriving DecidableEq, Repr

/-- What a trap records beside the place where it stands (R323, R324). -/
structure TrapInfo where
  code : TrapCode
  /-- TCAUSE[15:8]. -/
  kind : BitVec 8
  mask : Mask
  info : Word
  addr : DWord
  aux : DWord
  deriving DecidableEq, Repr

/-- An entry of the faulted-load list (R323). -/
structure FaultedLoad where
  pair : Bool
  code : TrapCode
  dst : RegName
  lanes : Mask
  deriving DecidableEq, Repr

/-- The trap CSRs of a wave (R323). TBASE is TRAPBASE(asid) and has no storage here; TPEND is computed. -/
structure TrapCsrs where
  cause : Word
  pc : BitVec 55
  word : Word
  mask : Mask
  path : Mask
  mode : Mode
  info : Word
  addr : DWord
  aux : DWord
  task : Word
  faulted : List FaultedLoad
  sel : Word
  tick : DWord
  scratch : Vector Word 4
  xpc : BitVec 55
  deriving DecidableEq, Repr

/-- The reset values of R323. -/
def TrapCsrs.reset : TrapCsrs :=
  { cause := 0, pc := 0, word := 0, mask := 0, path := 0, mode := Mode.initial, info := 0, addr := 0, aux := 0,
    task := BitVec.ofNat 32 0xFFFFFFFF, faulted := [], sel := 0, tick := 0, scratch := Vector.replicate 4 0,
    xpc := 0 }

/-- What a blocked path waits for: the saved wake condition of R330, and the waits of R321, R327 and R308. [DEDUCED, log 118, unsafe] -/
inductive WakeCond where
  /-- A pending destination (R54), and whether the wait is a blocking point (R330). -/
  | reply (regs : List RegName) (point : Bool)
  /-- BAR: the barrier completes or fails; the instruction's word, for the record of a failure (R299). -/
  | bar (word : Word)
  /-- WAITB: the phase of the word at this window offset differs (R163). -/
  | phase (off : Nat) (p : Nat)
  /-- ENGWAIT (R203). -/
  | engine (off : Nat) (p : Nat)
  /-- MWAIT (R157). -/
  | watch
  /-- SLEEPUNTIL (R202). -/
  | tick (t : Nat)
  /-- QPOP into this register (R165). -/
  | queue (q : Fin 16) (d : Fin 128)
  /-- TKPULL into this register pair with this type mask (R375). -/
  | task (mask : BitVec 8) (d : Fin 64)
  /-- NRECV of this stage queue (R406). -/
  | record (q : Nat)
  /-- The task becomes irrevocable (R327). -/
  | irrevocable
  /-- A trap taken, its deferred results not yet drained (R321 step 3). -/
  | drain (info : TrapInfo) (xpc : Nat) (word : Word)
  /-- The EXIT of the last lane waits for the duties of the wave's end (R178, R189). -/
  | ending
  /-- The quantum of a deterministic wave has ended before this instruction (R306). -/
  | period
  deriving DecidableEq, Repr

/-- Where a path stands. -/
inductive PathStatus where
  | ready
  | blocked (c : WakeCond)
  deriving DecidableEq, Repr

/-- How far an instruction has come that holds its pipe, or has woken. -/
inductive Stage where
  /-- Nothing: the instruction starts from its checks. -/
  | none
  /-- The release with this id (R144, R171). -/
  | release (id : Nat)
  /-- The release of the instruction is complete; the rest of it follows. -/
  | released
  /-- The copy-engine command with this id, issued and not yet accepted (R200). -/
  | command (id : Nat)
  /-- The array entry with this id (R227). -/
  | entry (id : Nat)
  /-- The link operation with this id (R360). -/
  | link (id : Nat)
  /-- The TKPARK with this id, held by a full resume ring (R374). -/
  | park (id : Nat)
  /-- It does not hold the pipe: its wake condition has come to hold (R330), and it has still to execute. -/
  | woken
  deriving DecidableEq, Repr

/-- One path of a wave (R260). -/
structure Path where
  tag : Tag
  pc : Nat
  mask : Mask
  mode : Mode
  latches : Vector Latch 4
  pending : List RegName
  jp : Option Nat
  wj : Option Nat
  status : PathStatus
  stage : Stage
  /-- The switch point before the next instruction has been taken, and the path has not executed it yet (R31). -/
  swDone : Bool
  /-- The next instruction is a switch point whatever it is: first of a handler, after TRAPRET, at a rejoin (R55). -/
  swNext : Bool
  /-- TASK_CANCELLED may be delivered at the next instruction: a TRAPRET was a taken backward branch (R273, R329). -/
  late : Bool
  /-- A pre-emption has stopped the path: at a blocking point, or before the target of a taken backward branch (R331). -/
  halted : Bool
  deriving DecidableEq, Repr

/-- An arm of a split that has not started (R264). -/
structure Arm where
  num : Nat
  mask : Mask
  target : Nat
  deriving DecidableEq, Repr

/-- A split entry (R263). -/
structure Split where
  /-- The number that tags name; 1 for the outermost. -/
  num : Nat
  join : Nat
  mask : Mask
  arrived : Mask
  mode : Mode
  pending : List RegName
  /-- The pending sets of the arms that have arrived, joined (R266). -/
  armPending : List RegName
  tag : Tag
  waiting : List Arm
  /-- It was made as a dual path (R265). -/
  dual : Bool
  /-- It holds a rejoin mask and a shared instruction-buffer entry (R265). -/
  holds : Bool
  /-- It stands in the spill area (R263). -/
  spilled : Bool
  deriving DecidableEq, Repr

/-- The instructions whose results arrive from outside the pipe (R51). -/
inductive DeferKind where
  /-- The table that a JTAB reads (R276): no destination, and JTAB itself takes it. -/
  | table
  | load | loadAcquire | lds | atomic | comb | qpop | nget | nrecv | tkpull | accrd | sysc
  deriving DecidableEq, Repr

/-- One lane of a deferred result that waits for memory: address, width and extension (R152). -/
structure LaneWait where
  lane : Fin 32
  ea : Nat
  pa : Nat
  width : Nat
  signed : Bool
  /-- Bytes of the wave's earlier writes that the home does not hold yet (R142, R168, R186). -/
  own : List (Option Byte)
  deriving DecidableEq, Repr

/-- A failure of some lanes of a deferred result (R112, R128, R178, R338, R410). -/
structure LoadFail where
  info : TrapInfo
  deriving DecidableEq, Repr

/-- An outstanding deferred-result instruction (R51, R54). -/
structure Inflight where
  id : Nat
  kind : DeferKind
  /-- The destinations: `d`, and `d + 1` where it writes two. -/
  dst : List RegName
  /-- One scalar result in place of one result per lane. -/
  uniform : Bool
  mask : Mask
  vals : List Lanes
  waiting : List LaneWait
  /-- Lanes whose reply comes from elsewhere than the L1 and has not come. -/
  due : Mask
  failed : List LoadFail
  /-- The reply is an acquire at this scope (R127, R154). -/
  acquire : Option Scope
  pc : Nat
  deriving DecidableEq, Repr

/-- A COMB instruction with requests outstanding (R137). -/
structure CombOp where
  id : Nat
  pc : Nat
  left : Nat
  /-- The instruction has executed: false only while a deterministic COMB still waits for its turn of step 4 (R314). -/
  granted : Bool
  /-- Aborted lanes: lane, status, method trap code, object address. -/
  aborted : List (Fin 32 × Nat × Nat × Nat)
  deriving DecidableEq, Repr

/-- The wave's watch (R157). -/
structure Watch where
  line : Nat
  fired : Bool
  /-- Held in the partition's watch entries while the wave is switched out (R122, R332). -/
  entry : Bool
  deriving DecidableEq, Repr

/-- How a wave holds its task (R325, R327). -/
inductive TaskMode where
  /-- vt = 0: no version. -/
  | plain
  /-- Task mode, with a version id. -/
  | versioned (ver : Nat)
  /-- Irrevocable: its writes are no longer versioned. -/
  | irrevocable
  deriving DecidableEq, Repr

/-- The task a wave holds (R375). -/
structure TaskHold where
  index : Nat
  mode : TaskMode
  /-- The address of the TKPULL that returned it: the pull point (R325). -/
  pull : Nat
  deriving DecidableEq, Repr

/-- Accesses an instruction issues, as the paths of FENCE name them (R155). -/
inductive AccessClass where
  | load | store | scratch | engine | net
  deriving DecidableEq, Repr

/-- Later accesses held until earlier ones are performed: FENCE, LDACQ, NFENCE, CLEAN and INVAL, PUBLISH,
ACCCVT (R155, R154, R408, R156, R205, R226). -/
structure Hold where
  /-- Classes of the accesses held. -/
  classes : List AccessClass
  /-- Only accesses that resolve through this entry: remap entry or buffer-map entry, workgroup, index (R205). -/
  through : Option (Bool × Nat × Nat)
  /-- Home messages, releases, PUBLISHes and array entries that must be performed. -/
  deps : List Nat
  /-- Deferred results whose values must have arrived. -/
  loads : List Nat
  /-- Copy-engine commands that must have landed. -/
  commands : List Nat
  /-- Network operations that must have been acknowledged. -/
  netOps : List Nat
  /-- An acquire follows (R155). -/
  acquire : Bool
  deriving DecidableEq, Repr

/-- A race tag (R119), also what a request carries and a dirty sector records of its writer (R143). -/
structure RaceTag where
  v : Bool
  slot : BitVec 8
  wg : BitVec 23
  phase : BitVec 16
  /-- The request that carries it is not checked (R176, R179, R311); a stored tag has it clear. The MODEL's own data. -/
  quiet : Bool := false
  deriving DecidableEq, Repr

/-- The tag that records no write, and of a request that is not checked. -/
def RaceTag.none : RaceTag := { v := false, slot := 0, wg := 0, phase := 0, quiet := true }

/-- A write in the store buffer of a deterministic wave (R309). -/
structure BufWrite where
  /-- The scratchpad of this core, or global memory. -/
  scratch : Option (Fin 256)
  addr : Nat
  bytes : List Byte
  /-- The tag that a plain store sets (R119, R311). -/
  tag : Option RaceTag
  /-- It stands in the memory queue until the task is irrevocable, and past the period's end (R327). -/
  held : Bool := false
  deriving DecidableEq, Repr

/-- The deterministic state of a wave (R305, R306, R309). -/
structure WaveDet where
  buffer : List BufWrite
  retired : Nat
  ended : Bool
  /-- Step 4 of the period end has come to its pending synchronising operation (R312). -/
  atEnd : Bool
  /-- The operation it waits at has blocked at a step 4, or is an end that waits: the wave counts as blocked (R316). -/
  tried : Bool
  deriving DecidableEq, Repr

/-- The three kinds of wave (R59, R134, R166). -/
inductive WaveKind where
  | launched
  | combiner (home : Fin 128)
  | producer
  deriving DecidableEq, Repr

/-- A wave: control state, registers and everything the rules attach to it. -/
structure Wave where
  id : Nat
  kind : WaveKind
  /-- A wave of a system context (R148, R59). -/
  system : Bool
  asid : BitVec 8
  part : Fin 32
  core : Fin 256
  pipe : Fin 32
  slot : Fin 8
  /-- First of its vector register blocks in the pipe's file (R27). -/
  block : Nat
  gang : Nat
  wg : Nat
  /-- Wave index in the workgroup (R29). -/
  index : Nat
  /-- Vector and scalar registers allocated (R27, R46). -/
  nv : Nat
  ns : Nat
  v : Vector Lanes 128
  s : Vector Word 64
  p : Vector Mask 8
  /-- The uniform specials in the order of their codes (R44). -/
  special : Vector Word 16
  /-- The kernel base E (R260). -/
  base : Nat
  /-- Priority of the launch; 3 for the producer slot (R294). -/
  prio : Nat
  paths : List Path
  splits : List Split
  returns : List (Nat × Tag)
  inflight : List Inflight
  combOps : List CombOp
  /-- Reports that wait for delivery, oldest first (R329). -/
  reports : List TrapInfo
  /-- A PROMISE_MISSED that another report went before: the address of its SLEEPUNTIL (R329). -/
  missed : Option (Nat × TrapInfo)
  /-- Handler state: the tag of the trapping path and the depth of the split stack at entry (R322). -/
  handler : Option (Tag × Nat)
  csr : TrapCsrs
  watch : Option Watch
  wakePending : Bool
  /-- The pin: map va, map pa, slot (R365). -/
  pin : Option (Nat × Nat × Fin 8)
  task : Option TaskHold
  /-- A store of the task found no room in its version: its later accesses wait until it is irrevocable (R326, R327). -/
  outgrown : Bool
  /-- Instructions retired since placement (R300, R305). -/
  clock : Nat
  /-- Age: the larger, the younger (R294). -/
  rank : Nat
  /-- Cycles the pipe has been held (R38). -/
  heldCycles : Nat
  holds : List Hold
  /-- Freeze cause and trap code (R339). -/
  frozen : Option (Nat × Nat)
  /-- The trap that froze it with cause 5 or 6: path, record, word; a thaw takes it again (R341). -/
  again : Option (Tag × TrapInfo × Word)
  /-- A halt is requested (R341). -/
  haltReq : Bool
  /-- A pre-emption is requested (R331). -/
  stopReq : Bool
  /-- Stopped for a save, or saved (R331, R332). -/
  stopped : Bool
  /-- Its last lane has exited; WAVE_END follows (R278). -/
  exited : Bool
  det : Option WaveDet
  deriving DecidableEq, Repr

/-! ## Workgroups, gangs, launches -/

/-- A barrier that is collecting or failed (R299); an idle one is not listed. -/
structure Barrier where
  /-- 0 workgroup, 1 gang, 2 launch. -/
  scope : Fin 3
  id : Fin 16
  failed : Bool
  expected : List Nat
  named : List Nat
  arrived : List Nat
  m0 : Word
  deriving DecidableEq, Repr

/-- A workgroup of a gang. [DESIGN CHOICE, log 79, unsafe] -/
structure Workgroup where
  /-- Launch-linear index (R289). -/
  lin : Nat
  core : Fin 256
  /-- Scratchpad allocation in bytes (R159). -/
  base : Nat
  size : Nat
  /-- The eight window remap entries (R160). -/
  remap : Vector Word 8
  qmask : BitVec 16
  /-- Barriers completed, for the phase number (R175). -/
  launchBars : Nat
  gangBars : Nat
  bars : List Barrier
  /-- MEM_RACE reports from write-backs, not yet delivered (R178). -/
  races : List TrapInfo
  /-- Saved with the gang: scratchpad, local queues (R332), arrivals and commands recorded (R334). -/
  savedScratch : Memory
  savedQueues : List (Fin 16 × List Lanes)
  savedArrivals : List (Nat × Nat)
  deriving DecidableEq, Repr

/-- A range of virtual addresses a launch declares as a handoff window (R179). -/
structure Window where
  base : Nat
  len : Nat
  deriving DecidableEq, Repr

/-- A launch record, read and checked (R281, R282). -/
structure LaunchRec where
  entry : Nat
  dimx : Nat
  dimy : Nat
  dimz : Nat
  stages : Nat
  persist : Bool
  det : Bool
  prio : Fin 4
  qmask : BitVec 16
  /-- Bytes of scratchpad a workgroup. -/
  scratch : Nat
  sregs : Nat
  /-- Vector register blocks a wave. -/
  vblk : Nat
  /-- Workgroups a gang, waves a workgroup. -/
  nwg : Nat
  nwv : Nat
  quantum : Nat
  remap : Vector Word 8
  /-- Dependences: virtual address (0: none) and count. -/
  deps : List (Nat × Nat)
  done : Nat
  windows : List Window
  deriving DecidableEq, Repr

/-! ## Caches and homes -/

/-- Sector states of the L1 (R140). -/
inductive SectorState where
  | i | c | d | df
  deriving DecidableEq, Repr

/-- A sector of the L1 (R140, R143). -/
structure Sector where
  st : SectorState
  bytes : Vector Byte 32
  mask : BitVec 32
  /-- The writer's values; none where a STREL wrote, which leaves the tag as it is (R119, R154). -/
  stamp : Option RaceTag
  asid : BitVec 8
  /-- The version whose bytes it holds: only that version's task is served from it (R142, R143, R186). -/
  ver : Option Nat
  /-- The wave that wrote last: the consumer of an error that the write-back meets (R112). The MODEL's own data. -/
  writer : Nat
  deriving DecidableEq, Repr

/-- An invalid sector. -/
def Sector.empty : Sector :=
  { st := .i, bytes := Vector.replicate 32 0, mask := 0, stamp := none, asid := 0, ver := none, writer := 0 }

/-- An entry of the dirty FIFO (R144): a line, or the marker of a release with the write-backs it waits for. -/
inductive FifoEntry where
  | line (n : Nat)
  | marker (waits : List Nat)
  deriving DecidableEq, Repr

/-- A line of the L1; `line` is the physical address divided by 128. -/
structure L1Line where
  line : Nat
  sectors : Vector Sector 4
  deriving DecidableEq, Repr

/-- A translation held by a TLB (R149): one 64 KiB page of one ASID. -/
structure TlbEntry where
  asid : BitVec 8
  page : Nat
  frame : Nat
  rd : Bool
  wr : Bool
  ex : Bool
  sys : Bool
  bmi : Bool
  /-- It is part of a 512 MiB page (R146). -/
  large : Bool
  deriving DecidableEq, Repr

/-- A dependence counter (R120). -/
structure DepCounter where
  cnt : Nat
  slot : BitVec 8
  phase : BitVec 16
  first : BitVec 23
  last : BitVec 23
  deriving DecidableEq, Repr

/-- The counter that counts nothing. -/
def DepCounter.zero : DepCounter := { cnt := 0, slot := 0, phase := 0, first := 0, last := 0 }

/-- A line of a home slice (R115, R117, R119, R120). -/
structure L2Line where
  line : Nat
  data : Vector Byte 128
  dirty : BitVec 4
  tags : Vector RaceTag 4
  dep : DepCounter
  asid : BitVec 8
  deriving DecidableEq, Repr

/-- Who a request comes from. -/
structure Requester where
  wave : Nat
  core : Fin 256
  asid : BitVec 8
  part : Fin 32
  stamp : RaceTag
  /-- The version of the task it comes from (R326). -/
  ver : Option Nat := none
  deriving DecidableEq, Repr

/-- The atomic operations of R124. -/
inductive AtomicOp where
  | add | min | max | and | or | xor | xchg | cas
  deriving DecidableEq, Repr

/-- An atomic request (R126). -/
structure AtomicReq where
  op : AtomicOp
  type : ElemType
  round : Rounding
  sat : Bool
  pa : Nat
  ea : Nat
  lane : Fin 32
  /-- The value, or the swap operand of ATCAS. -/
  val : DWord
  cmp : DWord
  /-- The deferred result it replies to; none with nw = 1. -/
  infl : Option Nat
  deriving DecidableEq, Repr

/-- A COMB request (R131). -/
structure CombReq where
  req : Requester
  obj : Nat
  objVa : Nat
  arg : DWord
  lane : Fin 32
  op : Nat
  infl : Option Nat
  /-- The message it arrived as, which stays outstanding until its batch has run. -/
  msg : Nat
  deriving DecidableEq, Repr

/-- A held arrival of a BAR in a deterministic launch (R313). -/
structure HeldBar where
  wave : Nat
  mask : Word
  sel : Word
  deriving DecidableEq, Repr

/-- The period machinery of a deterministic launch (R306, R307). -/
structure DetState where
  quantum : Nat
  period : Nat
  /-- Steps 1 to 3 of this period are done, and step 4 is under way. -/
  closing : Bool
  /-- Steps 1 to 6 of this period are done. -/
  ended : Bool
  /-- Waves whose pending operation step 4 has still to execute, in the order of R312. -/
  order : List Nat
  /-- COMB requests of this period that no batch has taken yet, in the order of R312 (R314). -/
  combs : List CombReq
  heldBars : List HeldBar
  deriving DecidableEq, Repr

/-- A launch that holds a slot (R284). -/
structure Launch where
  slot : Fin 256
  seq : Nat
  asid : BitVec 8
  part : Fin 32
  system : Bool
  record : LaunchRec
  /-- Dependence words: physical address and count (R286). -/
  depPas : List (Nat × Nat)
  donePa : Option Nat
  /-- Its dependences have been found met, at this tick (R286, R292). -/
  ready : Option Nat
  /-- Placement units not yet placed, and gangs that have ended (R286, R290). -/
  unplaced : Nat
  units : Nat
  gangsEnded : Nat
  bars : List Barrier
  det : Option DetState
  deriving DecidableEq, Repr

/-- What a message asks of a home slice. -/
inductive HomeOp where
  /-- Fill of an L1 sector for a deferred load, or for a prefetch. -/
  | fill (sector : Nat) (infl : Option Nat)
  /-- A load performed at the home (LDACQ, R141). -/
  | read (infl : Nat) (lane : LaneWait)
  /-- A store performed at the home (STREL, R154). -/
  | write (pa : Nat) (bytes : List Byte)
  /-- Masked bytes of a dirty sector, with the tag they set (R143); with a version id, version data. -/
  | sector (pa : Nat) (bytes : Vector Byte 32) (mask : BitVec 32) (tag : Option RaceTag)
  | atomic (a : AtomicReq)
  | comb (c : CombReq)
  /-- CLEAN and INVAL at device scope (R156). -/
  | clean (line : Nat)
  | inval (line : Nat)
  deriving DecidableEq, Repr

/-- A message from a core to a home slice; messages of one core to one slice arrive in order (R116). -/
structure Message where
  id : Nat
  home : Fin 128
  req : Requester
  op : HomeOp
  deriving DecidableEq, Repr

/-- What is done when a release completes (R144, R171), and the accesses that wait in a core's memory queue (R154, R155,
R205, R327, R408). -/
inductive ReleaseAct where
  | none
  /-- A store leaves for its home (STREL). -/
  | store (msgs : List (Fin 128 × HomeOp))
  /-- An arrival at a barrier word: physical core and offset, count (R163). -/
  | arrive (core : Fin 256) (off : Nat) (n : Nat)
  /-- The arrival of a wave at a BAR (R299). -/
  | bar (mask : Word) (sel : Word)
  /-- A plain load at the L1, for a deferred result. -/
  | load (infl : Nat) (lanes : List LaneWait)
  /-- Plain stores at the L1: tag, effective and physical address, bytes. -/
  | plain (stores : List (Option RaceTag × Nat × Nat × List Byte))
  /-- Loads at their homes (LDACQ), for a deferred result. -/
  | reads (infl : Nat) (lanes : List LaneWait)
  /-- Scratch loads: lane, window offset, width, extension. -/
  | lds (infl : Nat) (lanes : List (Fin 32 × Nat × Nat × Bool))
  /-- Scratch stores: window offset, bytes. -/
  | sts (stores : List (Nat × List Byte))
  /-- CLEAN or INVAL of lines at a scope. -/
  | clean (scope : Scope) (drop : Bool) (pas : List Nat)
  /-- PREF. -/
  | prefetch (pas : List Nat)
  /-- The packet of a network operation enters the router (R408). -/
  | net (packet : Packet)
  deriving DecidableEq, Repr

/-- What an access in a memory queue waits for beside other accesses: deferred results, commands, network operations, and
the irrevocability of its task (R155, R327). -/
structure Waits where
  deps : List Nat
  loads : List Nat
  commands : List Nat
  netOps : List Nat
  irrevocable : Bool
  /-- It resolves through an entry that is being published: it is translated when it is performed (R205). -/
  resolve : Bool
  deriving DecidableEq, Repr

/-- A release that has not completed, or an access that waits in its core's memory queue; the list of them stands in the
order of issue. -/
structure Release where
  id : Nat
  req : Requester
  waits : Waits
  act : ReleaseAct
  deriving DecidableEq, Repr

/-- The batch a combiner engine runs (R132, R134). -/
structure Batch where
  obj : Nat
  reqs : List CombReq
  header : DWord
  nlines : Nat
  staged : Memory
  replies : List (Nat × DWord)
  wave : Nat
  /-- First word of the method and its length (R138). -/
  start : Nat
  len : Nat
  deriving DecidableEq, Repr

/-- A home slice. `lines` stands most recently used first. -/
structure Home where
  lines : List L2Line
  combQ : List CombReq
  batch : Option Batch
  deriving DecidableEq, Repr

/-- A whole line on its way from a home to its controller (R115). `master` caused the eviction (R102). -/
structure LineWrite where
  line : Nat
  data : Vector Byte 128
  master : DWord
  held : Bool
  deriving DecidableEq, Repr

/-! ## Memory controllers -/

/-- A concordance entry (R95). -/
structure ConcEntry where
  mode : BitVec 4
  part : BitVec 5
  refc : BitVec 23
  ptr : BitVec 32
  deriving DecidableEq, Repr

/-- The reset entry: ZERO (R95). -/
def ConcEntry.zero : ConcEntry := { mode := 0, part := 0, refc := 0, ptr := 0 }

/-- A page state (R91). -/
structure PageState where
  state : BitVec 2
  part : Fin 32
  deriving DecidableEq, Repr

/-- A line in the overflow buffer (R101). -/
structure OverflowLine where
  index : Nat
  part : Fin 32
  data : Vector Byte 128
  deriving DecidableEq, Repr

/-- A memory controller (R90 to R104). -/
structure Controller where
  entries : SMap ConcEntry
  pages : SMap PageState
  /-- F: free chunks (R99). -/
  free : Nat
  /-- U(p) (R99). -/
  used : SMap Nat
  /-- Chunks withdrawn (R113). -/
  bad : List Nat
  overflow : List OverflowLine
  /-- Error records, oldest first: cause and line index (R104). -/
  errlog : List (BitVec 8 × BitVec 30)
  deriving DecidableEq, Repr

/-- Chunks in a pool (R90). -/
def poolSize : Nat := 2919235584

/-! ## Copy engines, arrays, cores -/

/-- The three command kinds (R199). -/
inductive CmdKind where
  | copy | copym | quant2
  deriving DecidableEq, Repr

/-- The spaces of a command's sides (R192). -/
inductive EngSpace where
  | global | scratch | stacks | acc | archive | remote
  deriving DecidableEq, Repr

/-- A byte that a command writes: a physical address, a window offset, an offset in the core's slice, or a byte of the
accumulator store (8 bytes a pair). -/
structure EngWrite where
  space : EngSpace
  addr : Nat
  byte : Byte
  deriving DecidableEq, Repr

/-- What a command writes, as its sources stand: its bytes, the causes of late faults that they show, and the value
folded into the amax word (R189, R207). -/
structure EngPlan where
  writes : List EngWrite
  causes : List Nat
  fold : Option Word
  /-- A gathered row crosses a partition boundary, which freezes the engine (R339, R417). -/
  crosses : Bool
  /-- The drive's status (R189). -/
  status : Nat
  deriving DecidableEq, Repr

/-- How far a command has come. -/
inductive CmdState where
  /-- Issued; it waits for its release, for a free entry, or for step 5 of a period. -/
  | issued
  | accepted
  /-- Its remote transfers are under way (R188). -/
  | sent
  /-- Its plan is complete; its results become visible when it comes due (R316). -/
  | done
  /-- The copy part of a COPYM has landed; its MMA is in the array queue (R201). -/
  | follow (entry : Nat)
  deriving DecidableEq, Repr

/-- A copy-engine command (R187). -/
structure EngCmd where
  id : Nat
  kind : CmdKind
  /-- The word of the instruction that issued it. -/
  word : Word
  req : Requester
  gang : Nat
  wg : Nat
  system : Bool
  blkVa : Nat
  blk : List Byte
  round : Rounding
  promise : Nat
  state : CmdState
  /-- Pages translated at acceptance: virtual page, frame; source and destination (R189). -/
  srcPages : SMap Nat
  dstPages : SMap Nat
  /-- The amax word and the block itself, physical (QUANT2, R206). -/
  amaxPa : Nat
  blkPa : Nat
  /-- The pin it gathers through (R194): physical address of the image. -/
  image : Option Nat
  /-- Entries whose hidden copy it writes: buffer-map entry, or remap entry of workgroup and index (R204). -/
  hidden : List (Bool × Nat × Nat)
  /-- What it writes, where its sources have been read (R316). -/
  plan : Option EngPlan
  /-- Issued by a deterministic wave (R316). -/
  det : Bool
  /-- Its place in the order of acceptance (R187, R316). -/
  order : Nat
  /-- The remap entries of the gang's workgroups at acceptance (R160, R205). -/
  remaps : List (Vector Word 8)
  netOps : List Nat
  release : Option Nat
  dst : Option (Fin 64)
  pc : Nat
  /-- Bytes that it has written before it lands (R181): space and address. -/
  early : List (EngSpace × Nat)
  deriving DecidableEq, Repr

/-- An entry of the array queue (R208). -/
inductive ArrayOp where
  /-- An MMA: operand block, steps done, Δ vector once read (R216, R219, R222); `cmd` for a COPYM's. -/
  | mma (blkVa : Nat) (blk : List Byte) (done : Nat) (delta : Option (List Word)) (cmd : Option Nat)
  | accz (region : Word)
  | accrd (row col : Nat) (exec : Mask) (mode : Mode) (infl : Nat)
  | accwr (row col : Nat) (exec : Mask) (h l : Lanes)
  | acccvt (region : Word) (off pitch : Nat) (mode : Mode)
  /-- CBLD (false) and ROTLD (true), with the frames of the image's pages (R227). -/
  | shelf (rot : Bool) (va : Nat) (pages : SMap Nat)
  deriving DecidableEq, Repr

/-- What an array operation reads beside the accumulators, as it stood when a step 5 accepted it (R316): the scratchpads of its
gang's cores, the remap entries of its workgroups, the slice and the shelves. -/
structure ArraySnap where
  scratch : List (Fin 256 × Memory)
  remaps : List (Vector Word 8)
  stackMem : Memory
  codebook : Memory
  rotation : Memory
  deriving DecidableEq, Repr

/-- A queued array operation. -/
structure ArrayEntry where
  id : Nat
  req : Requester
  gang : Nat
  wg : Nat
  op : ArrayOp
  pc : Nat
  /-- Issued in deterministic mode: it is accepted at step 5 of the period (R316). -/
  issued : Bool
  /-- Its place in the order of acceptance at step 5 (R316). -/
  order : Nat
  /-- Accepted at a step 5 and not yet due: it is executed on these sources when it comes due (R316). -/
  snap : Option ArraySnap := none
  deriving DecidableEq, Repr

/-- A gang (R25, R26). -/
structure Gang where
  id : Nat
  launch : Fin 256
  seq : Nat
  x : Nat
  y : Nat
  z : Nat
  stage : Nat
  gangid : Nat
  cluster : Fin 64
  firstSlot : Nat
  wgs : List Workgroup
  bars : List Barrier
  resident : Bool
  stopping : Bool
  saved : Bool
  /-- Array entries and commands saved with it, in order (R222, R334). -/
  savedArray : List ArrayEntry
  savedCmds : List EngCmd
  deriving DecidableEq, Repr

/-- The memories of a core that an error code protects: the Stacks and the shelves (R212), and the scratchpad, of which an A
byte can be uncorrectable (R221). -/
inductive Sram where
  | stacks | codebook | rotation | scratch
  deriving DecidableEq, Repr

/-- Eight bytes of a memory of a core that show an error of two bits (R212): word `word` stands at byte 8 · word. -/
structure Strike where
  core : Fin 256
  store : Sram
  word : Nat
  deriving DecidableEq, Repr

/-- A compute core. -/
structure Core where
  /-- L1 lines, most recently used first, and lines in lent scratchpad units (R140, R159). -/
  l1 : List L1Line
  lent : List L1Line
  /-- Dirty FIFO, oldest first (R144). -/
  fifo : List FifoEntry
  tlb : List TlbEntry
  scratch : Memory
  queues : Vector (List Lanes) 16
  engine : List EngCmd
  arrayQ : List ArrayEntry
  /-- Accumulator pairs, h in the low word, at key 128·row + column (R217). -/
  acc : SMap DWord
  stackMem : Memory
  codebook : Memory
  rotation : Memory
  deriving DecidableEq, Repr

/-! ## Publication, tasks, link unit -/

/-- A PUBLISH that has not taken effect (R205). -/
structure Publish where
  id : Nat
  req : Requester
  gang : Nat
  /-- Scratch remap entry in place of a buffer-map entry. -/
  remap : Bool
  /-- Buffer-map entry index, or workgroup index and entry. -/
  wg : Nat
  entry : Nat
  release : Nat
  /-- Commands it waits for: core and id. -/
  commands : List (Fin 256 × Nat)
  deriving DecidableEq, Repr

/-- Task states (R370). -/
inductive TaskState where
  | free | waiting | ready | running | faulted | parked
  deriving DecidableEq, Repr

/-- A task-table entry (R369). -/
structure TaskEntry where
  succ : BitVec 52
  arg : BitVec 52
  seq : BitVec 32
  iter : BitVec 32
  layer : BitVec 16
  lin : BitVec 16
  ver : BitVec 12
  vt : Bool
  cp : Bool
  dep : BitVec 16
  state : TaskState
  type : BitVec 4
  asid : BitVec 8
  deriving DecidableEq, Repr

/-- The free entry, all bits 0 (R370). -/
def TaskEntry.empty : TaskEntry :=
  { succ := 0, arg := 0, seq := 0, iter := 0, layer := 0, lin := 0, ver := 0, vt := false, cp := false,
    dep := 0, state := .free, type := 0, asid := 0 }

/-- A LINK or UNLINK request (R360). -/
structure LinkReq where
  unlink : Bool
  mapVa : Nat
  mapPa : Nat
  /-- S[b] to S[b+3] of LINK; S[b] of UNLINK in the first word. -/
  w0 : Word
  w1 : Word
  w2 : DWord
  asid : BitVec 8
  part : Fin 32
  deriving DecidableEq, Repr

/-- A task's version (R326): bytes by physical address, held atomics and held LINKs. -/
structure Version where
  part : Fin 32
  ver : Nat
  bytes : Memory
  /-- Every byte the version holds, a byte of value 0 included. -/
  written : List Nat
  /-- The values recorded with each sector that ST or STM wrote (R143). -/
  stamps : SMap RaceTag
  /-- Sectors that its writes fill, in an L1 or at the homes (R327). -/
  claimed : List Nat
  atomics : List (Requester × AtomicReq)
  links : List LinkReq
  deriving DecidableEq, Repr

/-- An entry of a map image: one instance of a segment (R357). -/
structure MapEntry where
  call : Nat
  base : Nat
  n : Nat
  idx : Nat
  iid : Nat
  data : Nat
  patch : Nat
  /-- 0 exact, 1 repair pending, 2 repaired. -/
  rstate : Nat
  arec : Nat
  rgen : Nat
  deriving DecidableEq, Repr

/-- An argument record of a map (R358). -/
structure ArgRec where
  va : Nat
  iid : Nat
  rgen : Nat
  state : Nat
  probe : Nat
  errata : Nat
  sel : Nat
  deriving DecidableEq, Repr

/-- An edition that a link operation has built and not committed (R361, R362). -/
structure LinkBuild where
  entries : List MapEntry
  recs : List ArgRec
  /-- Records to which probes are to be posted. -/
  probes : List Nat
  nextid : Nat
  /-- A select: no edition, an ERRATA task for this record (R362). -/
  errata : Option Nat
  deriving DecidableEq, Repr

/-- A link operation on its way to its map's home, or there (R361). -/
structure LinkOp where
  id : Nat
  /-- The wave whose path waits; none for an operation that a version held (R362). -/
  wave : Option Nat
  req : LinkReq
  /-- The release that precedes the request (R360). -/
  release : Option Nat
  /-- What the method has built, where its commit waits for a slot, for room in the task table or for the catalogue (R353, R361). -/
  work : Option LinkBuild
  dst : Option (Fin 64)
  word : Word
  deriving DecidableEq, Repr

/-- A TKPARK that a full resume ring holds (R374). -/
structure HeldPark where
  id : Nat
  wave : Nat
  part : Fin 32
  asid : BitVec 8
  index : Nat
  va : Nat
  dst : Option (Fin 64)
  deriving DecidableEq, Repr

/-- A SYSC whose record or reply is outstanding (R336). -/
structure SyscCall where
  wave : Nat
  infl : Nat
  /-- The wave's id (R302), and the release that precedes the record. -/
  wid : Nat
  release : Nat
  asid : BitVec 8
  slot : Nat
  number : Word
  exec : Mask
  requests : List (Fin 32 × List Word)
  pc : Nat
  posted : Bool
  deriving DecidableEq, Repr

/-! ## Fabric, device, schedule -/

/-- An outstanding network operation (R405). -/
structure NetOp where
  id : Nat
  core : Fin 256
  wave : Nat
  /-- NGET's deferred result, or the command of a remote copy. -/
  infl : Option Nat
  cmd : Option Nat
  dst : Nat
  va : Nat
  /-- NSEND, whose failure names no address (R410). -/
  send : Bool
  ordered : Bool
  pc : Nat
  reply : Option PacketKind
  deriving DecidableEq, Repr

/-- A push that waits for room in its stage queue (R407): the record, and who is told (source device, operation). -/
structure HeldPush where
  part : Fin 32
  queue : Nat
  record : List Word
  ordered : Bool
  ack : Option (Nat × Nat)
  deriving DecidableEq, Repr

/-- The Kregal fabric of the device (R391 to R408). Inputs and outputs 0 to 15 are the ports; input 16 is local
injection, output 16 local delivery (R392). -/
structure Fabric where
  /-- Ordered packets by input, in arrival order (R398). -/
  ordered : Vector (List Packet) 17
  /-- Unordered packets and replies in the router, with their inputs. -/
  unordered : List (Fin 17 × Packet)
  /-- Unordered packets delivered to this device and not yet performed, with their inputs. -/
  arrived : List (Fin 17 × Packet)
  /-- Last watermark received on each port (R404), and the watermark of each input 0 to 15, which a resume raises (R397, R402). -/
  lastWm : Vector Nat 16
  wmIn : Vector Nat 16
  /-- Packets sent on each port and channel whose credits have not come back (R391): index 3 · port + channel. -/
  owed : Vector Nat 48
  /-- W(o) (R397). -/
  wmOut : Vector Nat 17
  /-- The floor F (R396). -/
  floor : Nat
  /-- Source sequence numbers: unordered and ordered (R391). -/
  seqU : Nat
  seqO : Nat
  ops : List NetOp
  /-- Pushes held by a full queue (R407). -/
  heldPushes : List HeldPush
  /-- Flits that have failed their CRC in a row at each port (R390). -/
  crcFails : Vector Nat 16
  /-- Packets and beacons that left on a port. -/
  links : List (Nat × Packet)
  /-- Pod time in units of 2^-16 ns, and its fraction (R394, R395). -/
  podTime : Nat
  podFrac : Nat
  /-- Pod time at which a port last sent a flit (R400), and at which an input's watermark last rose (R401). -/
  lastSent : Vector Nat 16
  lastRise : Vector Nat 17
  /-- Packets discarded since the previous resume (R403), and the cut in force (R402). -/
  discarded : Nat
  cut : Nat
  /-- A resume that still has packets up to its cut to deliver: the cut and the stalled input (R402). -/
  resume : Option (Nat × Nat)
  /-- Period watermarks by partition and source device, at 1,024 · partition + device and one more than the period advertised,
  and period-stamped packets not delivered (R319). -/
  periodWm : SMap Nat
  periodQ : List Packet
  /-- Pod time of the last event message at each port, and the correction that the profile drew from it (R394). -/
  eventStamp : Vector Nat 16
  correction : Int
  deriving DecidableEq, Repr

/-- A function of pcie0 (R418). [DESIGN CHOICE, log 93, safe] -/
structure PcieFunction where
  part : Option (Fin 32)
  /-- Base of the BAR0 window in line space. -/
  base : Nat
  len : Nat
  enabled : Bool
  message : Memory
  deriving DecidableEq, Repr

/-- A frame of an Ethernet port in a buffer (R412): sent or received, with what the checksum offload found. [PRESUMED, log 129, unsafe] -/
structure Frame where
  port : Fin 2
  transmit : Bool
  bytes : List Byte
  /-- The TCP or UDP checksum of a received frame is right, or there is none. -/
  sound : Bool
  deriving DecidableEq, Repr

/-- The state of bring-up and of the module (R413). -/
structure Device where
  /-- Power is on and the compute dies are out of reset. -/
  running : Bool
  flash : Memory
  /-- Record version in the protected sector (R414). -/
  protectedVersion : Nat
  functions : List PcieFunction
  /-- Ethernet frames in control-core buffers (R412). -/
  frames : List Frame
  /-- The tick at which the ramp of a compute die's array voltage ends (R421). -/
  rampEnd : Vector Nat 4
  /-- The hub holds every die in reset after a thermal trip (R420). -/
  tripped : Bool
  /-- Tick of the last reset or margin plan, and of the release of the control cores (R413, R421). -/
  planTick : Nat
  releaseTick : Nat
  deriving DecidableEq, Repr

/-- Privilege modes of a control core (RISC-V). -/
inductive Priv where
  | user | supervisor | machine
  deriving DecidableEq, Repr

/-- A control core (R285, R413): what the launch extension and the register accesses need of it. [DESIGN CHOICE, log 5, safe] -/
structure ControlCore where
  pc : DWord
  x : Vector DWord 32
  priv : Priv
  held : Bool
  /-- The RISC-V exception raised last: its cause number. -/
  exception : Option Nat
  /-- The word at its program counter. -/
  fetch : Word
  deriving DecidableEq, Repr

/-- Interrupts raised to the control cores. -/
inductive Interrupt where
  | chunkLow (mc : Fin 8)
  | chunkExhausted (mc : Fin 8) (master : DWord)
  | dependenceLog (asid : BitVec 8)
  | freeze
  | watermarkStall (input : Fin 17)
  | marginReplan
  deriving DecidableEq, Repr

/-- A freeze record: master, cause, trap code (R341). -/
structure FreezeRecord where
  master : DWord
  cause : Nat
  code : Nat
  deriving DecidableEq, Repr

/-- An invalidation in progress (R150). -/
structure TlbInv where
  kind : Fin 3
  asid : BitVec 8
  page : Nat
  /-- Commands accepted before it (R189). -/
  commands : List (Fin 256 × Nat)
  deriving DecidableEq, Repr

/-- The units that are reloaded (R297). -/
inductive ReloadUnit where
  | producer (core : Fin 256)
  | combiners
  | shelves (core : Fin 256)
  deriving DecidableEq, Repr

/-- A reload (R297): its unit, and the tick of step 1. [DESIGN CHOICE, log 92, unsafe] -/
structure Reload where
  unit : ReloadUnit
  since : Nat
  deriving DecidableEq, Repr

/-- Who takes the next step: a pipe, a combiner wave, a unit, or a control core. The MODEL's own data. [DESIGN CHOICE, log 1, safe] -/
inductive Turn where
  | pipe (core : Fin 256) (pipe : Fin 32)
  | combiner (home : Fin 128)
  | unit (i : Instr)
  | control (core : Fin 16)
  deriving DecidableEq, Repr

/-- The machine. -/
structure State where
  -- the model's own: whose turn it is, the path that executes, the counter of free values, fresh names
  /-- Whose steps come next, the first first. [DESIGN CHOICE, log 1, safe] -/
  turns : List Turn
  /-- The pipe that steps while no turn is listed. [DESIGN CHOICE, log 1, safe] -/
  focus : Fin 256 × Fin 32
  /-- The wave and path that execute; for a control-core instruction the number of the core. [DESIGN CHOICE, log 1, safe] -/
  cur : Option (Nat × Tag)
  /-- The counter of free values. [DESIGN CHOICE, log 6, unsafe] -/
  freeCtr : Nat
  /-- The next name of a message, release or deferred result. [DESIGN CHOICE, log 6, unsafe] -/
  nextId : Nat
  -- time
  tick : Nat
  -- waves and work
  waves : List Wave
  gangs : List Gang
  launches : List Launch
  seq : Nat
  deficits : SMap Nat
  lastServed : SMap Nat
  reservations : SMap (Fin 64 × Bool × Fin 256)
  /-- Holder of each pipe: key 32·core + pipe, wave id and tag (R31). -/
  holders : SMap (Nat × Tag)
  /-- ASIDs whose waves are system contexts (R148). [PRESUMED, log 34, safe] -/
  systemAsids : List (BitVec 8)
  -- cores, clusters, homes, controllers
  cores : Vector Core 256
  /-- Uncorrectable words of the cores' memories (R212). [DESIGN CHOICE, log 125, safe] -/
  struck : List Strike
  clusterTlbs : SMap (List TlbEntry)
  homes : Vector Home 128
  messages : List Message
  releases : List Release
  lineWrites : List LineWrite
  controllers : Vector Controller 8
  /-- Line space: the bytes of every line as its controller expands them (R88, R94). -/
  mem : Memory
  -- registers of the memory-mapped blocks that only hold what is written (R415)
  regs : SMap DWord
  tlbInvs : List TlbInv
  reloads : List Reload
  -- publication, tasks, links, calls
  publishes : List Publish
  /-- Hidden copies that a failed command targeted: ASID or gang, remap, workgroup, entry (R204). -/
  hiddenFailed : List (Nat × Bool × Nat × Nat)
  tasks : SMap TaskEntry
  readyOrder : List Nat
  versions : List Version
  linkOps : List LinkOp
  /-- Release records (partition, va) that wait for room (R353). -/
  releaseRecords : List (Fin 32 × Nat)
  /-- Catalogue references that retirements drop once the unit runs again: partition, index (R353, R359). -/
  catDrops : List (Fin 32 × Nat)
  heldParks : List HeldPark
  syscalls : List SyscCall
  -- freezing
  freezeRecords : List FreezeRecord
  /-- Frozen masters that are not waves. -/
  frozenMasters : List FreezeRecord
  interrupts : List Interrupt
  -- fabric, device, control cores
  fabric : Fabric
  device : Device
  control : Vector ControlCore 16
  deriving DecidableEq, Repr

/-- The faults of the model. Both are SAFE: they stop where the state offers no step of the spec. [DESIGN CHOICE, log 2, safe] -/
inductive Fault where
  /-- `exec` of a wave instruction with no path chosen to execute it. `step` never raises it. -/
  | noCurrentPath
  /-- `exec` of a unit step whose preconditions do not hold in the state (a message, an entry or a wave it
  names is absent): the unit does not take that step. Raised by the meanings of the unit steps. -/
  | eventNotEnabled
  deriving DecidableEq, Repr

/-- The refusals of the model. [DESIGN CHOICE, log 5, safe] -/
inductive Refusal where
  /-- No meaning yet. -/
  | notModelled (mnemonic : String)
  /-- A control core fetched a word that is not of the Camdimor launch extension: the RISC-V instruction set is
  not in the spec. SAFE: the model stops. Raised by `step` only. -/
  | riscvInstruction
  deriving DecidableEq, Repr

/-! ## Reset -/

/-- Reset values of the registers that only hold what is written (R104, R150, R224, R296, R416); 0 elsewhere. [DESIGN CHOICE, log 10, unsafe] -/
def regReset (pa : Nat) : DWord :=
  if 0x20000000000 ≤ pa ∧ pa < 0x20000800000 ∧ pa % 0x100000 = 8 then 0x1000000#64
  else if pa = 0x20101000808 then 1#64
  else if pa = 0x20103001000 then 0x100000#64
  else if pa = 0x20108000400 then 36#64
  else if 0x20300000000 ≤ pa ∧ pa < 0x20301000000 ∧ pa % 0x10000 = 0x10 then 4#64
  else 0#64

/-- A core after reset. [DESIGN CHOICE, log 9, unsafe] -/
def Core.reset : Core :=
  { l1 := [], lent := [], fifo := [], tlb := [], scratch := [], queues := Vector.replicate 16 [], engine := [],
    arrayQ := [], acc := [], stackMem := [], codebook := [], rotation := [] }

/-- A home after reset. [DESIGN CHOICE, log 9, unsafe] -/
def Home.reset : Home := { lines := [], combQ := [], batch := none }

/-- A controller after reset (R91, R95, R104). -/
def Controller.reset : Controller :=
  { entries := [], pages := [], free := poolSize, used := [], bad := [], overflow := [], errlog := [] }

/-- The fabric after reset (R404). -/
def Fabric.reset : Fabric :=
  { ordered := Vector.replicate 17 [], unordered := [], arrived := [], lastWm := Vector.replicate 16 0, wmIn := Vector.replicate 16 0,
    owed := Vector.replicate 48 0,
    wmOut := Vector.replicate 17 0, floor := 0, seqU := 0, seqO := 0, ops := [], heldPushes := [],
    crcFails := Vector.replicate 16 0, links := [],
    podTime := 0, podFrac := 0, lastSent := Vector.replicate 16 0, lastRise := Vector.replicate 17 0,
    discarded := 0, cut := 0, resume := none, periodWm := [], periodQ := [],
    eventStamp := Vector.replicate 16 0, correction := 0 }

/-- The device before the boot ROM has run (R413). [DESIGN CHOICE, log 13, unsafe] -/
def Device.reset : Device :=
  { running := false, flash := [], protectedVersion := 0, functions := [], frames := [], rampEnd := Vector.replicate 4 0,
    tripped := false, planTick := 0, releaseTick := 0 }

/-- A control core after reset. [DESIGN CHOICE, log 11, unsafe] -/
def ControlCore.reset : ControlCore :=
  { pc := 0, x := Vector.replicate 32 0, priv := .machine, held := true, exception := none, fetch := 0 }

/-- The machine right after power-on, before the boot ROM has applied a record (R413). [DESIGN CHOICE, log 7, unsafe; DESIGN CHOICE, log 9, unsafe; DESIGN CHOICE, log 12, unsafe] -/
def State.reset : State :=
  { turns := [], focus := (0, 0), cur := none, freeCtr := 0, nextId := 1, tick := 0, waves := [], gangs := [],
    launches := [], seq := 0, deficits := [], lastServed := [], reservations := [], holders := [],
    systemAsids := [], cores := Vector.replicate 256 Core.reset, struck := [], clusterTlbs := [],
    homes := Vector.replicate 128 Home.reset, messages := [], releases := [], lineWrites := [],
    controllers := Vector.replicate 8 Controller.reset, mem := [], regs := [], tlbInvs := [], reloads := [],
    publishes := [], hiddenFailed := [], tasks := [], readyOrder := [], versions := [], linkOps := [],
    releaseRecords := [], catDrops := [], heldParks := [], syscalls := [], freezeRecords := [], frozenMasters := [],
    interrupts := [], fabric := Fabric.reset, device := Device.reset,
    control := Vector.replicate 16 ControlCore.reset }

end Sys2Proof.Machine
end

