-- ==== Sys2Proof/Machine/Access.lean ====
section
/-! DEFINITION. Reading and writing the parts of the state: cores, homes, controllers, waves, paths,
workgroups, registers of the memory-mapped blocks, free values, interrupts and event counters. -/

namespace Sys2Proof.Machine

/-- The outcome type of every meaning. -/
abbrev Result := Host.Outcome State Fault Refusal

/-- A unit step whose preconditions do not hold. [DESIGN CHOICE, log 2, safe] -/
def notEnabled : Result := .fault .eventNotEnabled

/-! ## Cores, homes, controllers -/

def State.core (s : State) (c : Fin 256) : Core := s.cores[c]
def State.setCore (s : State) (c : Fin 256) (x : Core) : State := { s with cores := s.cores.set c x }
def State.modCore (s : State) (c : Fin 256) (f : Core → Core) : State := s.setCore c (f (s.core c))
def State.home (s : State) (h : Fin 128) : Home := s.homes[h]
def State.setHome (s : State) (h : Fin 128) (x : Home) : State := { s with homes := s.homes.set h x }
def State.modHome (s : State) (h : Fin 128) (f : Home → Home) : State := s.setHome h (f (s.home h))
def State.ctl (s : State) (c : Fin 8) : Controller := s.controllers[c]
def State.setCtl (s : State) (c : Fin 8) (x : Controller) : State :=
  { s with controllers := s.controllers.set c x }
def State.modCtl (s : State) (c : Fin 8) (f : Controller → Controller) : State := s.setCtl c (f (s.ctl c))
def State.modFabric (s : State) (f : Fabric → Fabric) : State := { s with fabric := f s.fabric }
def State.modDevice (s : State) (f : Device → Device) : State := { s with device := f s.device }

/-! ## Uncorrectable words (R212) -/

/-- One of these bytes of a core's memory is uncorrectable. -/
def State.lostIn (s : State) (c : Fin 256) (m : Sram) (a n : Nat) : Bool :=
  s.struck.any fun x => x.core == c && x.store == m && decide (8 * x.word < a + n ∧ a < 8 * x.word + 8)

/-- Bytes written anew: the error code of their words is right again. [DESIGN CHOICE, log 125, safe] -/
def State.heal (s : State) (c : Fin 256) (m : Sram) (a n : Nat) : State :=
  { s with struck := s.struck.filter fun x => !(x.core == c && x.store == m && decide (8 * x.word < a + n ∧ a < 8 * x.word + 8)) }

/-- The memory that a free value names. -/
def sramOf (n : Nat) : Sram :=
  match n % 4 with
  | 0 => .stacks
  | 1 => .codebook
  | 2 => .rotation
  | _ => .scratch

/-- A word becomes uncorrectable. [DESIGN CHOICE, log 125, safe] -/
def State.strikes (s : State) : Option (Nat × Nat × Nat) → State
  | some (c, m, w) => { s with struck := { core := Fin.ofNat 256 c, store := sramOf m, word := w } :: s.struck }
  | none => s

/-! ## Waves and paths -/

def State.wave? (s : State) (id : Nat) : Option Wave := s.waves.find? fun w => w.id == id
def State.modWave (s : State) (id : Nat) (f : Wave → Wave) : State :=
  { s with waves := s.waves.map fun w => if w.id = id then f w else w }
def Wave.path? (w : Wave) (t : Tag) : Option Path := w.paths.find? fun p => p.tag == t
def Wave.modPath (w : Wave) (t : Tag) (f : Path → Path) : Wave :=
  { w with paths := w.paths.map fun p => if p.tag = t then f p else p }
def State.modPath (s : State) (id : Nat) (t : Tag) (f : Path → Path) : State :=
  s.modWave id fun w => w.modPath t f

/-- The wave and path that execute. -/
structure Cursor where
  w : Wave
  p : Path
  deriving DecidableEq, Repr

/-- The wave and path that execute, as the state names them. -/
def State.cursor? (s : State) : Option Cursor := do
  let (id, t) ← s.cur
  let w ← s.wave? id
  let p ← w.path? t
  return { w := w, p := p }

/-- Change the executing wave. -/
def State.modCurWave (s : State) (f : Wave → Wave) : State :=
  match s.cur with
  | some (id, _) => s.modWave id f
  | none => s

/-- Change the executing path. -/
def State.modCurPath (s : State) (f : Path → Path) : State :=
  match s.cur with
  | some (id, t) => s.modPath id t f
  | none => s

/-! ## Gangs, workgroups, launches -/

def State.gang? (s : State) (id : Nat) : Option Gang := s.gangs.find? fun g => g.id == id
def State.modGang (s : State) (id : Nat) (f : Gang → Gang) : State :=
  { s with gangs := s.gangs.map fun g => if g.id = id then f g else g }
def State.modWg (s : State) (gang wg : Nat) (f : Workgroup → Workgroup) : State :=
  s.modGang gang fun g => { g with wgs := g.wgs.mapIdx fun i x => if i = wg then f x else x }
def State.wg? (s : State) (gang wg : Nat) : Option Workgroup := do (← s.gang? gang).wgs[wg]?
def State.launch? (s : State) (k : Fin 256) : Option Launch := s.launches.find? fun l => l.slot == k
def State.modLaunch (s : State) (k : Fin 256) (f : Launch → Launch) : State :=
  { s with launches := s.launches.map fun l => if l.slot = k then f l else l }

/-- The launch of a wave; combiner waves and producer micro-programs have none. -/
def State.launchOf? (s : State) (w : Wave) : Option Launch := do
  let g ← s.gang? w.gang
  if w.kind = .launched then s.launches.find? fun l => l.slot == g.launch && l.seq == g.seq else none

/-- The workgroup of a wave. -/
def State.wgOf? (s : State) (w : Wave) : Option Workgroup :=
  if w.kind = .launched then s.wg? w.gang w.wg else none

/-- The wave belongs to a deterministic launch (R301). -/
def Wave.isDet (w : Wave) : Bool := w.det.isSome

/-- The waves of a gang. -/
def State.gangWaves (s : State) (gang : Nat) : List Wave :=
  s.waves.filter fun w => w.kind = .launched ∧ w.gang = gang

/-- The waves of a workgroup. -/
def State.wgWaves (s : State) (gang wg : Nat) : List Wave :=
  s.waves.filter fun w => w.kind = .launched ∧ w.gang = gang ∧ w.wg = wg

/-- The gangs of a launch that have not ended. -/
def State.launchGangs (s : State) (l : Launch) : List Gang :=
  s.gangs.filter fun g => g.launch = l.slot ∧ g.seq = l.seq

/-- The waves of a launch. -/
def State.launchWaves (s : State) (l : Launch) : List Wave :=
  s.waves.filter fun w => w.kind = .launched ∧ ((s.launchGangs l).any fun g => g.id == w.gang)

/-- Launch-linear index of the wave's workgroup (R289). -/
def State.linOf (s : State) (w : Wave) : Nat := ((s.wgOf? w).map (·.lin)).getD 0

/-- Wave id: 32·w + j (R302). -/
def State.waveId (s : State) (w : Wave) : Nat := 32 * s.linOf w + w.index

/-- The phase number of a workgroup (R175). -/
def Workgroup.phase (g : Workgroup) : BitVec 16 :=
  BitVec.ofNat 16 ((g.launchBars % 256) * 256 + min g.gangBars 255)

/-- An address lies in a handoff window (R179). -/
def Window.covers (x : Window) (ea : Nat) : Bool := decide (x.base ≤ ea ∧ ea < x.base + x.len)

/-- The values that plain accesses of the wave carry (R119, R143, R175, R176, R179, R311). With 255 gang-scope barriers
behind it a workgroup's stores tag nothing, but its loads and stores are still checked (R175, R176). -/
def State.stampOf (s : State) (w : Wave) (ea : Nat) : RaceTag :=
  match s.launchOf? w, s.wgOf? w with
  | some l, some g =>
    let big := decide (l.record.dimx * l.record.dimy * l.record.dimz * l.record.stages * l.record.nwg > 2 ^ 23)
    let quiet := w.system || w.isDet || big || l.record.windows.any (·.covers ea)
    { v := !quiet && decide (g.gangBars < 255), slot := BitVec.ofNat 8 l.slot.val, wg := BitVec.ofNat 23 g.lin, phase := g.phase,
      quiet := quiet }
  | _, _ => RaceTag.none

/-- The version that the wave's task writes into (R325, R326). -/
def Wave.ver? (w : Wave) : Option Nat :=
  match w.task with
  | some { mode := .versioned v, .. } => some v
  | _ => none

/-- The requester a wave's accesses name. -/
def State.requester (s : State) (w : Wave) (ea : Nat) : Requester :=
  { wave := w.id, core := w.core, asid := w.asid, part := w.part, stamp := s.stampOf w ea, ver := w.ver? }

/-- A requester whose access neither sets nor checks a tag (R119). -/
def Requester.untagged (q : Requester) : Requester := { q with stamp := RaceTag.none }

/-- Nothing to wait for. -/
def Waits.none : Waits := { deps := [], loads := [], commands := [], netOps := [], irrevocable := false, resolve := false }

/-- Two waits joined. -/
def Waits.join (a b : Waits) : Waits :=
  { deps := a.deps ++ b.deps, loads := a.loads ++ b.loads, commands := a.commands ++ b.commands, netOps := a.netOps ++ b.netOps,
    irrevocable := a.irrevocable || b.irrevocable, resolve := a.resolve || b.resolve }

/-! ## Registers of the memory-mapped blocks -/

/-- A register that only holds what is written (R415). -/
def State.reg (s : State) (pa : Nat) : DWord := SMap.get (regReset pa) s.regs pa
/-- It is written; reserved bits have been dropped before (R6). [DEDUCED, log 15, safe] -/
def State.setReg (s : State) (pa : Nat) (x : DWord) : State := { s with regs := SMap.set (regReset pa) s.regs pa x }

/-- Bit i of a register. -/
def State.regBit (s : State) (pa i : Nat) : Bool := (s.reg pa).getLsbD i
/-- Bits [hi:lo] of a register. -/
def State.regBits (s : State) (pa hi lo : Nat) : Nat := bitsOf (s.reg pa).toNat hi lo

namespace Reg
/-- Memory controller mc (R104). -/
def mc (c : Fin 8) (off : Nat) : Nat := 0x20000000000 + 0x100000 * c.val + off
def mcLowWm (c : Fin 8) : Nat := mc c 0x008
def mcPgStat (c : Fin 8) : Nat := mc c 0x028
def mcCrd (c : Fin 8) : Nat := mc c 0x030
def mcResv (c : Fin 8) (p : Nat) : Nat := mc c (0x100 + 8 * p)
/-- Format window w (R105), at controller 0's copy. -/
def fw (w : Fin 16) (r : Nat) : Nat := 0x20000000400 + 64 * w.val + 8 * r
/-- Home slices and combiner (R123). -/
def home (off : Nat) : Nat := 0x20100000000 + off
def l2OccLim (a : Nat) : Nat := home (8 * a)
def dlBase (a : Nat) : Nat := home (0x0800 + 8 * a)
def dlSize (a : Nat) : Nat := home (0x1000 + 8 * a)
def dlWr (a : Nat) : Nat := home (0x1800 + 8 * a)
def dlRd (a : Nat) : Nat := home (0x2000 + 8 * a)
def dlDrop (a : Nat) : Nat := home (0x2800 + 8 * a)
def cmbCtl : Nat := home 0x48000
def cmbDir (e : Nat) : Nat := home (0x50000 + 8 * e)
/-- CMBSTORE words stand two to a 64-bit register (R123). -/
def cmbStore (w : Nat) : Nat := home (0x58000 + 4 * w)
/-- Translation (R150). -/
def trRoot (a : Nat) : Nat := 0x20101000000 + 8 * a
def tlbInvStat : Nat := 0x20101000808
/-- Copy-engine buffer maps (R196). -/
def engBmap (a : Nat) : Nat := 0x20102000000 + 8 * a
/-- Gang scheduler (R296). -/
def schCtx (a : Nat) : Nat := 0x20103000000 + 8 * a
def schTime (a : Nat) : Nat := 0x20103000800 + 8 * a
def schBound : Nat := 0x20103001000
def sqBase (p : Nat) : Nat := 0x20103001200 + 8 * p
/-- Traps and switching (R341). -/
def trapBase (a : Nat) : Nat := 0x20104000000 + 8 * a
def saveBase (a : Nat) : Nat := 0x20104000800 + 8 * a
def syscBase (a : Nat) : Nat := 0x20104001000 + 8 * a
def frzBase : Nat := 0x20104001800
def frzWr : Nat := 0x20104001808
def frzRd : Nat := 0x20104001810
/-- Catalogue unit (R353). -/
def catBase (p : Nat) : Nat := 0x20105000000 + 8 * p
def segPoolB (p : Nat) : Nat := 0x20105000100 + 8 * p
def segPoolL (p : Nat) : Nat := 0x20105000200 + 8 * p
def prelBase (p : Nat) : Nat := 0x20105000300 + 8 * p
def prelWr (p : Nat) : Nat := 0x20105000400 + 8 * p
def prelRd (p : Nat) : Nat := 0x20105000500 + 8 * p
def catCtl : Nat := 0x20105000600
/-- Task unit (R380). -/
def tkQuota (p : Nat) : Nat := 0x20106000000 + 8 * p
def tkRqBase (p : Nat) : Nat := 0x20106000200 + 8 * p
def tkRqWr (p : Nat) : Nat := 0x20106000300 + 8 * p
def tkRqRd (p : Nat) : Nat := 0x20106000400 + 8 * p
def tkRdIdx : Nat := 0x20106000500
/-- Kregal fabric (R404). -/
def klRoute (x : Nat) : Nat := 0x20107000000 + 8 * x
def klrMask (o : Nat) : Nat := 0x20107002000 + 8 * o
def klPort (n : Nat) : Nat := 0x20107002100 + 8 * n
def klAsid (p : Nat) : Nat := 0x20107002300 + 8 * p
def klCtl : Nat := 0x20107002400
def klDLast : Nat := 0x20107002410
def klGapCnt : Nat := 0x20107002418
def podAdj : Nat := 0x20107002428
/-- Device control (R416). -/
def devInfo : Nat := 0x20108000000
def bootStat : Nat := 0x20108000008
def serial : Nat := 0x20108000010
def partCl (p : Nat) : Nat := 0x20108000100 + 8 * p
def pcieCfg : Nat := 0x20108000200
def pwrLim : Nat := 0x20108000300
def pwrAvg : Nat := 0x20108000308
def thermMax : Nat := 0x20108000310
def margCad : Nat := 0x20108000400
def ageMon (d : Nat) : Nat := 0x20108000408 + 8 * d
def vddArr (d : Nat) : Nat := 0x20108000480 + 8 * d
/-- Producer slot of core c (R166). -/
def ps (c : Fin 256) (off : Nat) : Nat := 0x20200000000 + 0x10000 * c.val + off
/-- Matrix array of core c (R224). -/
def mg (c : Fin 256) (off : Nat) : Nat := 0x20300000000 + 0x10000 * c.val + off
def accOwn (c : Fin 256) (g : Nat) : Nat := mg c (0x100 + 8 * g)
/-- Event counters (R422). -/
def counters (u : CounterUnit) : Nat :=
  0x20400000000 + match u with
    | .core c => 0x1000 * c.val
    | .home h => 0x100000 + 0x1000 * h.val
    | .controller m => 0x200000 + 0x1000 * m.val
    | .port n => 0x300000 + 0x1000 * n.val
end Reg

/-- SCHTIME of an ASID rises by n ticks (R296). -/
def State.chargeTime (s : State) (a : BitVec 8) (n : Nat) : State :=
  let pa := Reg.schTime a.toNat
  s.setReg pa (s.reg pa + BitVec.ofNat 64 n)

/-- The reload of a unit begins (R297). [DESIGN CHOICE, log 92, unsafe] -/
def State.startReload (s : State) (u : ReloadUnit) : State :=
  if s.reloads.any fun r => r.unit == u then s else { s with reloads := s.reloads ++ [{ unit := u, since := s.tick }] }

/-- The reload of a unit ends; its ticks are charged to the context it is loaded for (R297). [DESIGN CHOICE, log 92, unsafe] -/
def State.endReload (s : State) (u : ReloadUnit) (asid : BitVec 8) : State :=
  match s.reloads.find? fun r => r.unit == u with
  | some r => State.chargeTime { s with reloads := s.reloads.filter fun x => x.unit != u } asid (s.tick - r.since)
  | none => s

/-- The number of counters of a unit (R422). -/
def counterCount : CounterUnit → Nat
  | .core _ => 16
  | .home _ => 8
  | .controller _ => 8
  | .port _ => 4

/-- One event counter counts `n` events of source `src` (R422): 48 bits, the wrap sets the overflow bit. -/
def State.countOne (s : State) (u : CounterUnit) (src n k : Nat) : State :=
  let b := Reg.counters u + 8 * k
  if s.regBit b 8 && s.regBits b 7 0 == src then
    let c := (s.reg (b + 0x100)).toNat
    let t := c % 2 ^ 48 + n
    let ovf := if c / 2 ^ 48 % 2 = 1 ∨ t ≥ 2 ^ 48 then 2 ^ 48 else 0
    s.setReg (b + 0x100) (BitVec.ofNat 64 (ovf + t % 2 ^ 48))
  else s

/-- The counters of a unit count `n` events of a source (R422, R423). No register listed: nothing counts. -/
def State.count (s : State) (u : CounterUnit) (src n : Nat) : State :=
  (List.range (counterCount u)).foldl (fun s k => s.countOne u src n k) s

/-! ## The router -/

/-- This device's id (R416). -/
def State.devId (s : State) : Nat := s.regBits Reg.devInfo 9 0

/-- A packet enters the router from this device: the ordered class with a stamp of pod time (R396), the packets of
deterministic operation in their own stream (R411). [DESIGN CHOICE, log 12, unsafe] -/
def State.inject (s : State) (k : Packet) : State :=
  if k.ordered && !k.period then
    let t := max s.fabric.podTime (s.fabric.floor + 1)
    let k := { k with stamp := t, seq := s.fabric.seqO, src := s.devId }
    s.modFabric fun f => { f with floor := t, seqO := f.seqO + 1, ordered := f.ordered.set 16 (f.ordered[16] ++ [k]),
                                  lastRise := f.lastRise.set 16 f.podTime }
  else if k.ordered then
    let k := { k with seq := s.fabric.seqO, src := s.devId }
    s.modFabric fun f => { f with seqO := f.seqO + 1, unordered := f.unordered ++ [(16, k)] }
  else
    let k := { k with seq := s.fabric.seqU, src := s.devId }
    s.modFabric fun f => { f with seqU := f.seqU + 1, unordered := f.unordered ++ [(16, k)] }

/-! ## Fresh names and free values, interrupts, freezing -/

/-- A fresh name. [DESIGN CHOICE, log 6, unsafe] -/
def State.fresh (s : State) : Nat × State := (s.nextId, { s with nextId := s.nextId + 1 })
/-- The index of a free value, used once. [DESIGN CHOICE, log 6, unsafe] -/
def State.takeFree (s : State) : Nat × State := (s.freeCtr, { s with freeCtr := s.freeCtr + 1 })
/-- What of a launch record fixes the free values of its domain (R303). -/
def LaunchRec.key (l : LaunchRec) : List Nat := [l.entry, l.dimx, l.dimy, l.dimz, l.stages, l.nwg, l.nwv, l.quantum]
/-- A step of a deterministic domain: the free values it takes are fixed by data of the domain alone (R303). [DESIGN CHOICE, log 130, unsafe] -/
def State.inDomain (s : State) (key : List Nat) (go : State → Result) : Result :=
  match go { s with freeCtr := Config.domainFree key } with
  | .next t => .next { t with freeCtr := s.freeCtr }
  | r => r
/-- A step of a wave's, in its domain where it belongs to one: wave id and clock say which step it is. [DESIGN CHOICE, log 130, unsafe] -/
def State.ofWave (s : State) (w : Wave) (go : State → Result) : Result :=
  match w.det, s.launchOf? w with
  | some d, some l => s.inDomain (l.record.key ++ [0, s.waveId w, w.clock, if d.atEnd then 1 else 0]) go
  | _, _ => go s
/-- An interrupt raised to the control cores. -/
def State.interrupt (s : State) (i : Interrupt) : State := { s with interrupts := s.interrupts ++ [i] }

/-- Master id of a wave (R340). -/
def Wave.master (w : Wave) : DWord :=
  match w.kind with
  | .producer => BitVec.ofNat 64 (7 * 2 ^ 60 + w.core.val)
  | _ => BitVec.ofNat 64 (2 ^ 60 + w.asid.toNat * 2 ^ 40 + w.core.val * 256 + w.pipe.val * 8 + w.slot.val)
/-- Master id of a copy engine (R340). -/
def engineMaster (c : Fin 256) : DWord := BitVec.ofNat 64 (4 * 2 ^ 60 + c.val)

/-- A freeze record waits for the ring (R341). -/
def State.freezeRecord (s : State) (m : DWord) (cause code : Nat) : State :=
  { s with freezeRecords := s.freezeRecords ++ [{ master := m, cause := cause, code := code }] }

/-- A wave is frozen in place and reported (R339). -/
def State.freezeWave (s : State) (w : Wave) (cause code : Nat) : State :=
  ((s.modWave w.id fun x => { x with frozen := some (cause, code) }).freezeRecord w.master cause code)

/-- A master that is not a wave is frozen and reported (R339). -/
def State.freezeMaster (s : State) (m : DWord) (cause code : Nat) : State :=
  let r : FreezeRecord := { master := m, cause := cause, code := code }
  State.freezeRecord { s with frozenMasters := s.frozenMasters ++ [r] } m cause code

/-! ## Codes -/

/-- The code of a trap (R320); 0 where there is none. -/
def TrapCode.code : TrapCode → BitVec 8
  | .illegalOp => 0x01#8 | .illegalOperand => 0x02#8 | .latchStale => 0x03#8 | .privileged => 0x04#8
  | .memFault => 0x08#8 | .memProt => 0x09#8 | .memAlign => 0x0A#8 | .memRace => 0x0B#8 | .eccUncorr => 0x0C#8
  | .windowWrite => 0x0D#8 | .jtabRange => 0x10#8 | .retEmpty => 0x11#8 | .retDiverge => 0x12#8
  | .callDepth => 0x13#8 | .barMask => 0x14#8 | .promiseMissed => 0x18#8 | .accOwned => 0x19#8
  | .engFault => 0x1A#8 | .combFault => 0x1C#8 | .taskCancelled => 0x20#8 | .versionFull => 0x21#8
  | .linkState => 0x28#8 | .soft => 0x30#8 | .syscErr => 0x31#8 | .debugHalt => 0x38#8 | .boundary => 0x00#8

/-- A trap with nothing but its code to record. -/
def TrapInfo.plain (c : TrapCode) : TrapInfo := { code := c, kind := 0, mask := 0, info := 0, addr := 0, aux := 0 }

/-- A memory trap of some lanes at an address (R324). [DEDUCED, log 16, unsafe] -/
def TrapInfo.mem (c : TrapCode) (mask : Mask) (ea : Nat) : TrapInfo :=
  { TrapInfo.plain c with mask := mask, addr := BitVec.ofNat 64 ea }

end Sys2Proof.Machine
end

