-- ==== Sys2Proof/Machine/Num.lean ====
section
/-! DEFINITION. Numbers at rest (R63 to R87): exact values, the formats, rounding, saturation, block scales,
codebook weights and the error-free helpers. -/

namespace Sys2Proof.Machine

/-! ## Exact values -/

/-- An exact value: NaN, an infinity, or (−1)^neg · num · 2^exp. A zero keeps its sign. -/
inductive Exact where
  | nan
  | inf (neg : Bool)
  | fin (neg : Bool) (num : Nat) (exp : Int)
  deriving DecidableEq, Repr

/-- A zero with its sign. -/
def Exact.zero (neg : Bool) : Exact := .fin neg 0 0
/-- The value of an integer. -/
def Exact.ofInt (x : Int) : Exact := .fin (decide (x < 0)) x.natAbs 0
/-- The sign of a value; NaN has none. -/
def Exact.neg : Exact → Bool
  | .nan => false
  | .inf n => n
  | .fin n _ _ => n
/-- Finite and zero. -/
def Exact.isZero : Exact → Bool
  | .fin _ 0 _ => true
  | _ => false
/-- The value with its sign changed. -/
def Exact.negate : Exact → Exact
  | .nan => .nan
  | .inf n => .inf (!n)
  | .fin n m e => .fin (!n) m e
/-- The magnitude. -/
def Exact.abs : Exact → Exact
  | .nan => .nan
  | .inf _ => .inf false
  | .fin _ m e => .fin false m e

/-- num · 2^e as an integer, for an exponent `e ≥ q`, in units of 2^q. -/
def unitsOf (neg : Bool) (m : Nat) (e q : Int) : Int :=
  let u : Int := (m <<< (e - q).toNat : Nat)
  if neg then -u else u

/-- An exact sum. A zero sum is −0 when both addends are −0, +0 when both are +0, and otherwise +0, or −0
under RD (R249). -/
def Exact.add (rm : Rounding) : Exact → Exact → Exact
  | .nan, _ => .nan
  | _, .nan => .nan
  | .inf a, .inf b => if a = b then .inf a else .nan
  | .inf a, _ => .inf a
  | _, .inf b => .inf b
  | .fin na ma ea, .fin nb mb eb =>
    let q := min ea eb
    let t := unitsOf na ma ea q + unitsOf nb mb eb q
    if t = 0 then
      let minus := ma = 0 ∧ mb = 0 ∧ na = true ∧ nb = true
      let plus := ma = 0 ∧ mb = 0 ∧ na = false ∧ nb = false
      .fin (decide (minus ∨ (¬ plus ∧ rm = .rd))) 0 0
    else .fin (decide (t < 0)) t.natAbs q

/-- An exact product (R249, R251). -/
def Exact.mul : Exact → Exact → Exact
  | .nan, _ => .nan
  | _, .nan => .nan
  | .inf a, .inf b => .inf (a != b)
  | .inf a, .fin n m _ => if m = 0 then .nan else .inf (a != n)
  | .fin n m _, .inf a => if m = 0 then .nan else .inf (a != n)
  | .fin na ma ea, .fin nb mb eb => .fin (na != nb) (ma * mb) (ea + eb)

/-- Order of two values that are not NaN: −∞ below every finite value, −0 equal to +0. -/
def Exact.lt : Exact → Exact → Bool
  | .inf a, .inf b => a && !b
  | .inf a, .fin .. => a
  | .fin .., .inf b => !b
  | .fin na ma ea, .fin nb mb eb =>
    let q := min ea eb
    decide (unitsOf na ma ea q < unitsOf nb mb eb q)
  | _, _ => false
/-- Equality of two values that are not NaN. -/
def Exact.eqv (x y : Exact) : Bool := !(x.lt y) && !(y.lt x)
/-- NaN. -/
def Exact.isNaN : Exact → Bool
  | .nan => true
  | _ => false

/-! ## Rounding -/

/-- Whether a magnitude whose part below the unit is `rem` of `2^k` units is rounded up (R80): `odd` is the
last bit kept. -/
def roundsUp (rm : Rounding) (neg odd : Bool) (rem whole : Nat) : Bool :=
  match rm with
  | .rz => false
  | .ru => !neg && decide (rem > 0)
  | .rd => neg && decide (rem > 0)
  | .rna => decide (2 * rem ≥ whole)
  | .rne => decide (2 * rem > whole) || (decide (2 * rem = whole) && odd)

/-- A magnitude `m · 2^e` in units of `2^q`, rounded to an integer number of units. -/
def roundUnits (rm : Rounding) (neg : Bool) (m : Nat) (e q : Int) : Nat :=
  if q ≤ e then m <<< (e - q).toNat
  else
    let k := (q - e).toNat
    let w := 2 ^ k
    let u := m / w
    if roundsUp rm neg (u % 2 == 1) (m % w) w then u + 1 else u

/-- A floating-point format (R66, R71). `maxCode` is the greatest finite magnitude code; `infCode` what an
infinite magnitude is written as; `nanCode` the canonical NaN. -/
structure FloatFmt where
  width : Nat
  frac : Nat
  bias : Nat
  maxCode : Nat
  infCode : Nat
  nanCode : Nat
  signed : Bool
  hasInf : Bool
  hasNaN : Bool
  deriving DecidableEq, Repr

namespace FloatFmt
def fp32 : FloatFmt := ⟨32, 23, 127, 0x7F7FFFFF, 0x7F800000, 0x7FC00000, true, true, true⟩
def fp16 : FloatFmt := ⟨16, 10, 15, 0x7BFF, 0x7C00, 0x7E00, true, true, true⟩
def bf16 : FloatFmt := ⟨16, 7, 127, 0x7F7F, 0x7F80, 0x7FC0, true, true, true⟩
def fp8e4 : FloatFmt := ⟨8, 3, 7, 0x7E, 0x7F, 0x7F, true, false, true⟩
def fp8e5 : FloatFmt := ⟨8, 2, 15, 0x7B, 0x7C, 0x7E, true, true, true⟩
/-- fp4 has no NaN and no infinity: an infinite result is ±6, NaN is +0 (R80). -/
def fp4 : FloatFmt := ⟨4, 1, 1, 0x7, 0x7, 0, true, false, false⟩
def ue5m3 : FloatFmt := ⟨8, 3, 15, 0xFE, 0xFF, 0xFF, false, false, true⟩
end FloatFmt

/-- The floating-point format of an element type. -/
def elemFmt? : ElemType → Option FloatFmt
  | .fp32 => some .fp32
  | .fp16 => some .fp16
  | .bf16 => some .bf16
  | .fp8e4 => some .fp8e4
  | .fp8e5 => some .fp8e5
  | .fp4 => some .fp4
  | _ => none

/-- The value of a magnitude code of a format (R66). -/
def FloatFmt.magnitude (f : FloatFmt) (neg : Bool) (code : Nat) : Exact :=
  if f.hasNaN && decide (code > f.maxCode) && !(f.hasInf && code == f.infCode) then .nan
  else if f.hasInf && code == f.infCode then .inf neg
  else
    let e := code / 2 ^ f.frac
    let m := code % 2 ^ f.frac
    if e = 0 then .fin neg m (1 - f.bias - f.frac)
    else .fin neg (m + 2 ^ f.frac) (e - f.bias - f.frac)

/-- The value of an encoding (R66, R71). -/
def FloatFmt.decode (f : FloatFmt) (code : Nat) : Exact :=
  if f.signed then
    let top := 2 ^ (f.width - 1)
    f.magnitude (decide (code / top % 2 = 1)) (code % top)
  else f.magnitude false (code % 2 ^ f.width)

/-- A magnitude code with a sign. -/
def FloatFmt.sign (f : FloatFmt) (neg : Bool) (code : Nat) : Nat :=
  if f.signed && neg then code + 2 ^ (f.width - 1) else code

/-- What an infinite result is written as (R80): NaN is always the canonical one, with sign 0. -/
def FloatFmt.infinite (f : FloatFmt) (neg : Bool) : Nat :=
  if f.infCode = f.nanCode then f.nanCode else f.sign neg f.infCode

/-- The greatest finite value. -/
def FloatFmt.maxFinite (f : FloatFmt) (neg : Bool) : Exact := f.magnitude neg f.maxCode

/-- round(x, fmt, rm) (R80). -/
def FloatFmt.round (f : FloatFmt) (rm : Rounding) : Exact → Nat
  | .nan => f.nanCode
  | .inf neg => f.infinite neg
  | .fin neg 0 _ => f.sign neg 0
  | .fin neg m e =>
    let top : Int := Nat.log2 m + e
    let q := max top (1 - f.bias) - f.frac
    let u := roundUnits rm neg m e q
    let code :=
      if u < 2 ^ f.frac then u else ((q + f.frac + f.bias).toNat - 1) * 2 ^ f.frac + u
    if code ≤ f.maxCode then f.sign neg code
    else
      match rm, neg with
      | .rz, _ => f.sign neg f.maxCode
      | .ru, true => f.sign neg f.maxCode
      | .rd, false => f.sign neg f.maxCode
      | _, _ => f.infinite neg

/-- sat(x, fmt) (R81). -/
def FloatFmt.sat (f : FloatFmt) (x : Exact) : Exact :=
  match x with
  | .nan => .nan
  | _ =>
    if (f.maxFinite false).lt x then f.maxFinite false
    else if x.lt (f.maxFinite true) then f.maxFinite true
    else x

/-- round(sat?(x), fmt, rm), the saturation only when `sat` is set. -/
def FloatFmt.deliver (f : FloatFmt) (rm : Rounding) (sat : Bool) (x : Exact) : Nat :=
  f.round rm (if sat then f.sat x else x)

/-- A finite value rounded to an integer (R80). -/
def Exact.toInt (rm : Rounding) (neg : Bool) (m : Nat) (e : Int) : Int :=
  let u : Int := roundUnits rm neg m e 0
  if neg then -u else u

/-- A quotient of magnitudes `a · 2^ea` by `b · 2^eb` to `bits` bits and a sticky bit below them: it rounds as
the exact quotient does to any format of fewer bits. -/
def quotient (neg : Bool) (a : Nat) (ea : Int) (b : Nat) (eb : Int) : Exact :=
  let k := 40 + Nat.log2 b
  let q := (a <<< k) / b
  let r := (a <<< k) % b
  .fin neg (2 * q + (if r = 0 then 0 else 1)) (ea - eb - k - 1)

/-- An exact quotient, as far as rounding can tell (R249, R251). -/
def Exact.div : Exact → Exact → Exact
  | .nan, _ => .nan
  | _, .nan => .nan
  | .inf _, .inf _ => .nan
  | .inf a, .fin n _ _ => .inf (a != n)
  | .fin n _ _, .inf a => .zero (n != a)
  | .fin na ma ea, .fin nb mb eb =>
    if mb = 0 then (if ma = 0 then .nan else .inf (na != nb))
    else if ma = 0 then .zero (na != nb)
    else quotient (na != nb) ma ea mb eb

/-! ## fp32 -/

/-- The value of an fp32 encoding. -/
def ofFp32 (x : Word) : Exact := FloatFmt.fp32.decode x.toNat
/-- round(x, fp32, rm). -/
def toFp32 (rm : Rounding) (x : Exact) : Word := BitVec.ofNat 32 (FloatFmt.fp32.round rm x)
/-- round(sat?(x), fp32, rm): every fp32 result unless a card states otherwise (R248). -/
def toFp32Sat (rm : Rounding) (sat : Bool) (x : Exact) : Word :=
  BitVec.ofNat 32 (FloatFmt.fp32.deliver rm sat x)
/-- The canonical NaN. -/
def nan32 : Word := 0x7FC00000#32
/-- A floating-point result: a NaN is written as the canonical one (R82). -/
def canon32 (x : Word) : Word := if (ofFp32 x).isNaN then nan32 else x
/-- An fp32 encoding of NaN. -/
def isNaN32 (x : Word) : Bool := (ofFp32 x).isNaN
/-- ±∞ or NaN. -/
def isInfNaN32 (x : Word) : Bool := x.toNat / 2 ^ 23 % 256 == 255
/-- The sign bit flipped. -/
def flip32 (x : Word) : Word := x ^^^ 0x80000000#32

/-- MIN and MAX of fp32 (R82, R250): an operand's bits, −0 below +0, canonical NaN when both are NaN. -/
def fpMin (x y : Word) : Word :=
  if isNaN32 x then (if isNaN32 y then nan32 else y)
  else if isNaN32 y then x
  else if (ofFp32 y).lt (ofFp32 x) || ((ofFp32 x).eqv (ofFp32 y) && y.getLsbD 31) then y else x
def fpMax (x y : Word) : Word :=
  if isNaN32 x then (if isNaN32 y then nan32 else y)
  else if isNaN32 y then x
  else if (ofFp32 x).lt (ofFp32 y) || ((ofFp32 x).eqv (ofFp32 y) && !(y.getLsbD 31)) then y else x

/-! ## Scales, elements, codebook weights -/

/-- The value of an e8m0 code (R70). -/
def decodeE8m0 (c : Nat) : Exact := if c = 255 then .nan else .fin false 1 ((c : Int) - 127)
/-- The value of a scale code of type e8m0 or ue5m3 (R70, R71). -/
def decodeScale (t : ElemType) (c : Nat) : Exact :=
  match t with
  | .e8m0 => decodeE8m0 c
  | _ => FloatFmt.ue5m3.decode c

/-- The decoded value of an element and its block's scale (R74). -/
def scaled (x σ : Exact) : Exact := x.mul σ

/-- The code of fp32 `x` as a scale (R258). -/
def encodeScale (t : ElemType) (rm : Rounding) (sat : Bool) (x : Exact) : Nat :=
  match x with
  | .nan => 255
  | .inf true => 255
  | .inf false => if sat then 254 else 255
  | .fin neg m e =>
    if m = 0 then 0
    else if neg then 255
    else
      match t with
      | .e8m0 =>
        let k : Int := Nat.log2 m + e
        let exact := m = 2 ^ Nat.log2 m
        -- 2·m ≥ 3·2^log2(m): at or above the tie point 1.5·2^k
        let up := match rm with
          | .rz => false
          | .rd => false
          | .ru => !decide exact
          | _ => decide (2 * m ≥ 3 * 2 ^ Nat.log2 m)
        let p := if up then k + 1 else k
        if p ≤ -127 then 0
        else if p ≤ 127 then (p + 127).toNat
        else if rm = .rz ∨ rm = .rd ∨ sat then 254 else 255
      | _ =>
        let c := FloatFmt.ue5m3.round rm x
        if c = 255 ∧ sat then 254 else c

/-- Weight j of a cb2 index, from the row that it selects (R76, R77, R78). -/
def codebookWeight (row : Nat) (index j : Nat) : Exact :=
  let sgn := bitsOf index 14 8
  let parity := (List.range 7).foldl (fun p i => p + bitsOf sgn i i) (bitsOf row 32 32)
  let s := if j = 7 then parity % 2 = 1 else bitsOf sgn j j = 1
  .fin (decide s) (bitsOf row (4 * j + 3) (4 * j)) (-1)

/-- The row that a cb2 index selects: 0 to 511 (R76, R77). -/
def codebookRow (index : Nat) : Nat := bitsOf index 15 15 * 256 + bitsOf index 7 0

/-! ## The error-free helpers and pairs -/

/-- two_sum (R85). -/
def twoSum (a b : Word) : Word × Word :=
  let x := (ofFp32 a).add .rne (ofFp32 b)
  let s := toFp32 .rne x
  if isInfNaN32 s then (s, 0)
  else
    let e := x.add .rne (ofFp32 s).negate
    (s, if e.isZero then 0 else toFp32 .rne e)

/-- fast_two_sum (R86): the three roundings. An exact error is written with the sign that the last rounding gives a zero
(R249), −0 where b is −0. [DEDUCED, log 120, unsafe] -/
def fastTwoSum (a b : Word) : Word × Word :=
  let s := toFp32 .rne ((ofFp32 a).add .rne (ofFp32 b))
  if isInfNaN32 s then (s, 0)
  else
    let z := toFp32 .rne ((ofFp32 s).add .rne (ofFp32 a).negate)
    (s, toFp32 .rne ((ofFp32 b).add .rne (ofFp32 z).negate))

/-- twoprod (R252). -/
def twoProd (a b : Word) : Word × Word :=
  let x := (ofFp32 a).mul (ofFp32 b)
  let p := toFp32 .rne x
  if isInfNaN32 p then (p, 0)
  else
    let e := toFp32 .rne (x.add .rne (ofFp32 p).negate)
    (p, if (ofFp32 e).isZero then 0 else e)

/-- pair_add (R87): pairs (h, l). -/
def pairAdd (a b : Word × Word) : Word × Word :=
  let (s, e) := twoSum a.1 b.1
  if isInfNaN32 s then (s, 0)
  else
    let t := toFp32 .rne ((ofFp32 a.2).add .rne (ofFp32 b.2))
    let e' := toFp32 .rne ((ofFp32 e).add .rne (ofFp32 t))
    fastTwoSum s e'

/-- The value h + l of a pair as it is converted to one value (R79, R249). -/
def pairValue (rm : Rounding) (h l : Word) : Exact := (ofFp32 h).add rm (ofFp32 l)

/-! ## Integers -/

/-- Width in bits of an integer type; b32 has 32 (R63, R234). -/
def intWidth? : ElemType → Option Nat
  | .i8 | .ui8 => some 8
  | .i16 | .ui16 => some 16
  | .i32 | .ui32 => some 32
  | .i64 | .ui64 => some 64
  | _ => none
/-- A signed integer type. -/
def isSigned : ElemType → Bool
  | .i8 | .i16 | .i32 | .i64 => true
  | _ => false
/-- The 64-bit integer types and pair: operands in even:odd pairs (R46). -/
def isWide : ElemType → Bool
  | .i64 | .ui64 | .pair => true
  | _ => false

/-- The least and the greatest value of an integer type (R63). -/
def intRange (w : Nat) (signed : Bool) : Int × Int :=
  if signed then (-(2 ^ (w - 1)), 2 ^ (w - 1) - 1) else (0, 2 ^ w - 1)
/-- Clamp to a range. -/
def clampInt (lo hi x : Int) : Int := if x < lo then lo else if hi < x then hi else x

/-- The low w bits of a register value as an integer of the type (R64). -/
def readInt (w : Nat) (signed : Bool) (x : DWord) : Int :=
  let n := x.toNat % 2 ^ w
  if signed ∧ 2 ^ (w - 1) ≤ n then (n : Int) - 2 ^ w else n

/-- fix: an exact integer as the type's result (R65), as 64 bits, extended by the type's signedness. -/
def fixInt (w : Nat) (signed sat : Bool) (x : Int) : DWord :=
  let (lo, hi) := intRange w signed
  if sat then BitVec.ofInt 64 (clampInt lo hi x)
  else
    let n := (x % 2 ^ w).toNat
    BitVec.ofInt 64 (readInt w signed (BitVec.ofNat 64 n))

/-! ## Conversion between formats -/

/-- The exact value that a register holds as a type (R84): `x` is 64 bits wide, its low word h of a pair. -/
def decodeElem (rm : Rounding) (t : ElemType) (x : DWord) : Exact :=
  match intWidth? t with
  | some w => .ofInt (readInt w (isSigned t) x)
  | none =>
    match elemFmt? t with
    | some f => f.decode (x.toNat % 2 ^ f.width)
    | none =>
      match t with
      | .pair => pairValue rm (lo32 x) (hi32 x)
      | .e8m0 => decodeE8m0 (x.toNat % 256)
      | .ue5m3 => FloatFmt.ue5m3.decode (x.toNat % 256)
      | _ => .nan

/-- convert(x, t) (R84, R256, R258): `isInt` says that x comes from an integer type. -/
def convertElem (rm : Rounding) (sat isInt : Bool) (t : ElemType) (x : Exact) : DWord :=
  match intWidth? t with
  | some w =>
    match x with
    | .nan => 0
    | .inf neg =>
      let (lo, hi) := intRange w (isSigned t)
      BitVec.ofInt 64 (if neg then lo else hi)
    | .fin neg m e =>
      let n := Exact.toInt rm neg m e
      fixInt w (isSigned t) (!isInt || sat) n
  | none =>
    match elemFmt? t with
    | some f => BitVec.ofNat 64 (f.deliver rm sat x)
    | none =>
      match t with
      | .pair => if x.isNaN then BitVec.ofNat 64 0x7FC00000 else BitVec.ofNat 64 (FloatFmt.fp32.round .rne x)
      | t => BitVec.ofNat 64 (encodeScale t rm sat x)

end Sys2Proof.Machine
end

