-- ==== Sys2Proof/Machine/Arith.lean ====
section
/-! DEFINITION. What one lane computes: integer, bit-field, fp32 and pair arithmetic (R230 to R240, R247 to
R252, R255). Operands and results are 64 bits wide; a type of 32 bits or fewer uses the low word. -/

namespace Sys2Proof.Machine

/-- How integer cards read and fix values under M (R230, R231): b32 has 32 bits and ignores M.sat. -/
structure IntTy where
  w : Nat
  signed : Bool
  sat : Bool
  deriving DecidableEq, Repr

/-- The integer reading of M.type. -/
def Mode.intTy (m : Mode) : IntTy :=
  match intWidth? m.type with
  | some w => { w := w, signed := isSigned m.type, sat := m.sat }
  | none => { w := 32, signed := false, sat := false }

/-- val: a register value read by the type (R230). -/
def IntTy.read (t : IntTy) (x : DWord) : Int := readInt t.w t.signed x
/-- The w-bit pattern of a value. -/
def IntTy.pat (t : IntTy) (x : DWord) : Nat := x.toNat % 2 ^ t.w
/-- fix (R231). -/
def IntTy.fix (t : IntTy) (x : Int) : DWord := fixInt t.w t.signed t.sat x
/-- A w-bit pattern, extended by the signedness (R64). -/
def IntTy.ofPat (t : IntTy) (n : Nat) : DWord := fixInt t.w t.signed false n

/-- The low word of a value as fp32. -/
def fpOf (x : DWord) : Exact := ofFp32 (lo32 x)
/-- An fp32 result in the low word. -/
def fpRes (m : Mode) (x : Exact) : DWord := (toFp32Sat m.round m.sat x).setWidth 64
/-- A 32-bit value in the low word. -/
def wordRes (x : Word) : DWord := x.setWidth 64
/-- The pair (h, l) in a value (R79). -/
def pairOf (x : DWord) : Word × Word := (lo32 x, hi32 x)
/-- A pair as a value. -/
def pairRes (p : Word × Word) : DWord := join64 p.1 p.2

/-! ## Two-source arithmetic (R234, R250) -/

def laneAdd (m : Mode) (x y _c : DWord) : DWord :=
  match m.type with
  | .fp32 => fpRes m ((fpOf x).add m.round (fpOf y))
  | .pair => pairRes (pairAdd (pairOf x) (pairOf y))
  | _ => m.intTy.fix (m.intTy.read x + m.intTy.read y)
def laneSub (m : Mode) (x y _c : DWord) : DWord :=
  match m.type with
  | .fp32 => fpRes m ((fpOf x).add m.round (fpOf y).negate)
  | .pair => pairRes (pairAdd (pairOf x) (flip32 (pairOf y).1, flip32 (pairOf y).2))
  | _ => m.intTy.fix (m.intTy.read x - m.intTy.read y)
def laneMul (m : Mode) (x y _c : DWord) : DWord :=
  match m.type with
  | .fp32 => fpRes m ((fpOf x).mul (fpOf y))
  | _ => m.intTy.fix (m.intTy.read x * m.intTy.read y)
def laneMulh (m : Mode) (x y _c : DWord) : DWord :=
  m.intTy.fix ((m.intTy.read x * m.intTy.read y) / 2 ^ m.intTy.w)
/-- MAD rounds once; a NaN operand or an invalid product makes NaN whatever c holds (R251). -/
def laneMad (m : Mode) (x y c : DWord) : DWord :=
  match m.type with
  | .fp32 => fpRes m (((fpOf x).mul (fpOf y)).add m.round (fpOf c))
  | _ => m.intTy.fix (m.intTy.read x * m.intTy.read y + m.intTy.read c)
def laneMin (m : Mode) (x y _c : DWord) : DWord :=
  match m.type with
  | .fp32 => wordRes (fpMin (lo32 x) (lo32 y))
  | _ => m.intTy.fix (min (m.intTy.read x) (m.intTy.read y))
def laneMax (m : Mode) (x y _c : DWord) : DWord :=
  match m.type with
  | .fp32 => wordRes (fpMax (lo32 x) (lo32 y))
  | _ => m.intTy.fix (max (m.intTy.read x) (m.intTy.read y))
def laneAddmin (m : Mode) (x y c : DWord) : DWord := laneMin m (laneAdd m x y c) c 0
def laneAddmax (m : Mode) (x y c : DWord) : DWord := laneMax m (laneAdd m x y c) c 0
def laneAnd (m : Mode) (x y _c : DWord) : DWord := m.intTy.ofPat (m.intTy.pat x &&& m.intTy.pat y)
def laneOr (m : Mode) (x y _c : DWord) : DWord := m.intTy.ofPat (m.intTy.pat x ||| m.intTy.pat y)
def laneXor (m : Mode) (x y _c : DWord) : DWord := m.intTy.ofPat (m.intTy.pat x ^^^ m.intTy.pat y)

/-- DIV (R235, R250): the integer quotient truncates; a zero divisor gives all ones. -/
def laneDiv (m : Mode) (x y _c : DWord) : DWord :=
  match m.type with
  | .fp32 => fpRes m ((fpOf x).div (fpOf y))
  | _ =>
    let t := m.intTy
    if t.read y = 0 then t.ofPat (2 ^ t.w - 1) else t.fix ((t.read x).tdiv (t.read y))
/-- REM (R235): the sign of the dividend; a zero divisor gives x. -/
def laneRem (m : Mode) (x y _c : DWord) : DWord :=
  let t := m.intTy
  if t.read y = 0 then t.fix (t.read x) else t.fix ((t.read x).tmod (t.read y))

/-! ## Shifts, rotations and fields (R236 to R238) -/

/-- The shift count y[7:0]. -/
def shiftCount (y : DWord) : Nat := y.toNat % 256
def laneShl (m : Mode) (x y _c : DWord) : DWord := m.intTy.fix (m.intTy.read x * 2 ^ shiftCount y)
def laneShr (m : Mode) (x y _c : DWord) : DWord := m.intTy.ofPat (m.intTy.pat x >>> shiftCount y)
/-- SHA fills with bit w − 1 of the pattern, whatever the signedness (R236). -/
def laneSha (m : Mode) (x y _c : DWord) : DWord :=
  let t := m.intTy
  t.ofPat ((readInt t.w true x / 2 ^ shiftCount y) % 2 ^ t.w).toNat
def laneRol (m : Mode) (x y _c : DWord) : DWord :=
  let t := m.intTy
  let n := shiftCount y % t.w
  let p := t.pat x
  t.ofPat ((p <<< n ||| p >>> (t.w - n)) % 2 ^ t.w)
/-- The funnel pattern c:x and its count (R237). -/
def laneFshl (_m : Mode) (x y c : DWord) : DWord :=
  let n := min (shiftCount y) 32
  BitVec.ofNat 64 (bitsOf ((c.toNat % 2 ^ 32 * 2 ^ 32 + x.toNat % 2 ^ 32) <<< n) 63 32)
def laneFshr (_m : Mode) (x y c : DWord) : DWord :=
  let n := min (shiftCount y) 32
  BitVec.ofNat 64 (((c.toNat % 2 ^ 32 * 2 ^ 32 + x.toNat % 2 ^ 32) >>> n) % 2 ^ 32)
/-- SEL: x where the mask c is one, y elsewhere (R238). -/
def laneSel (m : Mode) (x y c : DWord) : DWord :=
  m.intTy.ofPat (m.intTy.pat ((x &&& c) ||| (y &&& ~~~c)))
/-- BFX (R238): bits past 31 read x[31] for i32; the result is extended from its last bit for i32. -/
def laneBfx (m : Mode) (x y _c : DWord) : DWord :=
  let pos := y.toNat % 256
  let len := min (y.toNat / 256 % 256) 32
  let wide : Int := readInt 32 (m.type = .i32) x
  let f := (wide / 2 ^ pos) % 2 ^ len
  let sign := m.type = .i32 ∧ 0 < len ∧ 2 ^ (len - 1) ≤ f.toNat
  BitVec.ofInt 64 (if sign then f - 2 ^ len else f)
/-- BFI (R238). -/
def laneBfi (_m : Mode) (x y c : DWord) : DWord :=
  let pos := y.toNat % 256
  let len := min (y.toNat / 256 % 256) 32
  let field := (2 ^ len - 1) * 2 ^ pos % 2 ^ 32
  let bits := (x.toNat % 2 ^ len) * 2 ^ pos % 2 ^ 32
  BitVec.ofNat 64 ((c.toNat % 2 ^ 32 &&& (2 ^ 32 - 1 - field)) ||| bits)

/-! ## Integer functions of UNARY, and NEG and ABS of fp32 (R240, R253) -/

def laneNot (m : Mode) (x : DWord) : DWord := m.intTy.ofPat (2 ^ m.intTy.w - 1 - m.intTy.pat x)
def laneNeg (m : Mode) (x : DWord) : DWord :=
  match m.type with
  | .fp32 => wordRes (if isNaN32 (lo32 x) then nan32 else flip32 (lo32 x))
  | _ => m.intTy.fix (-(m.intTy.read x))
def laneAbs (m : Mode) (x : DWord) : DWord :=
  match m.type with
  | .fp32 => wordRes (if isNaN32 (lo32 x) then nan32 else lo32 x &&& 0x7FFFFFFF#32)
  | _ => m.intTy.fix (m.intTy.read x).natAbs
/-- Ones among the low `n` bits. -/
def onesBelow (x : Nat) : Nat → Nat
  | 0 => 0
  | n + 1 => x / 2 ^ n % 2 + onesBelow x n
/-- Zeros above the highest one among the low `n` bits. -/
def leadingZeros (x : Nat) : Nat → Nat
  | 0 => 0
  | n + 1 => if x / 2 ^ n % 2 = 1 then 0 else 1 + leadingZeros x n
/-- The low `n` bits reversed. -/
def reverseBits (x : Nat) : Nat → Nat
  | 0 => 0
  | n + 1 => x % 2 * 2 ^ n + reverseBits (x / 2) n
def lanePopc (m : Mode) (x : DWord) : DWord := BitVec.ofNat 64 (onesBelow (m.intTy.pat x) m.intTy.w)
def laneClz (m : Mode) (x : DWord) : DWord := BitVec.ofNat 64 (leadingZeros (m.intTy.pat x) m.intTy.w)
def laneCtz (m : Mode) (x : DWord) : DWord :=
  BitVec.ofNat 64 (leadingZeros (reverseBits (m.intTy.pat x) m.intTy.w) m.intTy.w)
def laneBrev (m : Mode) (x : DWord) : DWord := m.intTy.ofPat (reverseBits (m.intTy.pat x) m.intTy.w)

/-! ## Rounding functions and CLASS of fp32 (R253, R255) -/

/-- An integral value by a rounding rule; a zero result keeps the sign of x. -/
def fpIntegral (rm : Rounding) (x : Word) : Word :=
  match ofFp32 x with
  | .nan => nan32
  | .inf _ => x
  | .fin neg m e =>
    let u := roundUnits rm neg m e 0
    toFp32 .rne (.fin neg u 0)
def laneFloor (_m : Mode) (x : DWord) : DWord := wordRes (fpIntegral .rd (lo32 x))
def laneCeil (_m : Mode) (x : DWord) : DWord := wordRes (fpIntegral .ru (lo32 x))
def laneTrunc (_m : Mode) (x : DWord) : DWord := wordRes (fpIntegral .rz (lo32 x))
def laneRint (m : Mode) (x : DWord) : DWord := wordRes (fpIntegral m.round (lo32 x))
/-- FRAC: +0 for every integral x, otherwise the rounded difference (R255). -/
def laneFrac (m : Mode) (x : DWord) : DWord :=
  match fpOf x with
  | .nan => wordRes nan32
  | .inf _ => wordRes nan32
  | y =>
    let d := y.add .rne (ofFp32 (fpIntegral .rd (lo32 x))).negate
    if d.isZero then 0 else wordRes (toFp32 m.round d)
/-- The class mask (R255). -/
def laneClass (_m : Mode) (x : DWord) : DWord :=
  let w := lo32 x
  let e := w.toNat / 2 ^ 23 % 256
  let neg := w.getLsbD 31
  let k :=
    if isNaN32 w then 8
    else if e = 255 then (if neg then 0 else 7)
    else if e ≠ 0 then (if neg then 1 else 6)
    else if w.toNat % 2 ^ 23 ≠ 0 then (if neg then 2 else 5)
    else (if neg then 3 else 4)
  BitVec.ofNat 64 (2 ^ k)

/-! ## The error-free instructions (R252): results and errors as pairs -/

def laneTwosum (x y : DWord) : DWord := pairRes (twoSum (lo32 x) (lo32 y))
def laneFasttwosum (x y : DWord) : DWord := pairRes (fastTwoSum (lo32 x) (lo32 y))
def laneTwoprod (x y : DWord) : DWord := pairRes (twoProd (lo32 x) (lo32 y))

/-! ## CVT and PACK (R256, R259) -/

/-- CVT from `src` to M.type. -/
def laneCvt (src : ElemType) (m : Mode) (x : DWord) : DWord :=
  convertElem m.round m.sat (intWidth? src).isSome m.type (decodeElem m.round src x)
/-- Zero-extended field of `w` bits at position k. -/
def laneExtract (w k : Nat) (x : DWord) : DWord := BitVec.ofNat 64 (((x.toNat % 2 ^ 32) >>> (w * k)) % 2 ^ w)
/-- The field of `w` bits at position k of c replaced by the low bits of x. -/
def laneInsert (w k : Nat) (x c : DWord) : DWord :=
  let field := (2 ^ w - 1) * 2 ^ (w * k)
  BitVec.ofNat 64 ((c.toNat % 2 ^ 32 &&& (2 ^ 32 - 1 - field)) ||| (x.toNat % 2 ^ w) * 2 ^ (w * k))

end Sys2Proof.Machine
end

