-- ==== Sys2Proof/Machine/Flags.lean ====
section
/-! DEFINITION. The guard and EXEC (R19), the conditions of CMP (R58, R239), predicate writes (R45), and the mode
word as bits (R48). -/

namespace Sys2Proof.Machine

/-- The guard G (R19). -/
def guardMask (w : Wave) (m : Mode) : Mask :=
  if m.gen then (if m.ginv then w.p[m.gidx] ^^^ 0xFFFFFFFF#32 else w.p[m.gidx]) else 0xFFFFFFFF#32

/-- EXEC (R19). -/
def execMask (w : Wave) (p : Path) : Mask := p.mask &&& guardMask w p.mode

/-- The mode word of a mode (R48). -/
def Mode.toWord (m : Mode) : BitVec 16 :=
  BitVec.ofNat 16 (m.gidx.val + (if m.gen then 8 else 0) + (if m.ginv then 16 else 0) + m.type.code * 32
    + m.round.code * 1024 + (if m.sat then 8192 else 0) + m.scope.code * 16384)

/-- The mode that a word names; none for a reserved type or rounding code (R17, R49). -/
def Mode.ofWord? (w : BitVec 16) : Option Mode := do
  let n := w.toNat
  let t ← ElemType.ofCode (bitsOf n 9 5)
  let r ← Rounding.ofCode (bitsOf n 12 10)
  return { scope := Scope.ofCode (bitsOf n 15 14), sat := w.getLsbD 13, round := r, type := t,
           ginv := w.getLsbD 4, gen := w.getLsbD 3, gidx := Fin.ofNat 8 (bitsOf n 2 0) }

/-- The element types a condition accepts (R239). -/
def condAccepts (c : Cond) (t : ElemType) : Bool :=
  let int := (intWidth? t).isSome
  match c with
  | .eq | .ne => int || t == .fp32 || t == .b32
  | .lt | .le | .gt | .ge => int || t == .fp32
  | .ord | .uno | .equ | .ltu | .leu | .gtu | .geu => t == .fp32
  | .tst | .ntst => int || t == .b32

/-- fp32 order: none where either is NaN; −0 equals +0 (R58). -/
def fpOrder (x y : Word) : Option Ordering :=
  if isNaN32 x || isNaN32 y then none
  else if (ofFp32 x).lt (ofFp32 y) then some .lt
  else if (ofFp32 x).eqv (ofFp32 y) then some .eq
  else some .gt

/-- A condition on two values read by the type (R58, R239). -/
def condHolds (c : Cond) (m : Mode) (x y : DWord) : Bool :=
  let o : Option Ordering :=
    if m.type = .fp32 then fpOrder (lo32 x) (lo32 y)
    else some (compare (m.intTy.read x) (m.intTy.read y))
  match c with
  | .eq => o == some .eq
  | .ne => o != some .eq
  | .lt => o == some .lt
  | .le => o == some .lt || o == some .eq
  | .gt => o == some .gt
  | .ge => o == some .gt || o == some .eq
  | .ord => o.isSome
  | .uno => o.isNone
  | .equ => o == some .eq || o.isNone
  | .ltu => o == some .lt || o.isNone
  | .leu => o == some .lt || o == some .eq || o.isNone
  | .gtu => o == some .gt || o.isNone
  | .geu => o == some .gt || o == some .eq || o.isNone
  | .tst => m.intTy.pat x &&& m.intTy.pat y != 0
  | .ntst => m.intTy.pat x &&& m.intTy.pat y == 0

/-- P[k] with bit i of the lanes of `exec` replaced by bit i of the mask `bits` (R45). -/
def predWrite (old exec bits : Mask) : Mask := (old &&& ~~~exec) ||| (bits &&& exec)

/-- The mask whose bit i is bit i of lane i's 32-bit result (R45). -/
def diagonal (r : Lanes) : Mask := maskOf fun i => r[i].getLsbD i.val

end Sys2Proof.Machine
end

