-- ==== Sys2Proof/Machine/Operands.lean ====
section
/-! DEFINITION. Operand fields: what a code may name (R43, R46), the class of a source (R30, R52), reading a source
(R44, R230), writing a result and entering it in the latches (R51, R231). -/

namespace Sys2Proof.Machine

/-! ## What a card demands of a field -/

/-- An operand field as its card describes it: the codes allowed, the alignment and the number of registers it
names, and how many latches it reads. -/
structure Field where
  op : Operand
  allow : Operand → Bool
  align : Nat
  span : Nat
  latches : Nat

/-- A vector register. -/
def isVec : Operand → Bool | .v _ => true | _ => false
/-- A scalar register. -/
def isSca : Operand → Bool | .s _ => true | _ => false
/-- A predicate. -/
def isPred : Operand → Bool | .p _ => true | _ => false
/-- A bypass latch. -/
def isLatch : Operand → Bool | .l _ => true | _ => false
/-- Any source code of R43. -/
def isSrc : Operand → Bool | .reserved _ => false | _ => true
/-- A destination of R43. -/
def isDst (o : Operand) : Bool := isVec o || isSca o || isPred o
/-- A source of a 64-bit operand (R230): l3 and predicates are not. -/
def isSrc64 (o : Operand) : Bool := isSrc o && !isPred o && o != .l 3
/-- A vector or scalar register. -/
def isReg (o : Operand) : Bool := isVec o || isSca o

/-- A 32-bit source. -/
def Field.src (o : Operand) : Field := { op := o, allow := isSrc, align := 1, span := 1, latches := 1 }
/-- A source of the width of the type (R230). -/
def Field.srcOf (wide : Bool) (o : Operand) : Field :=
  if wide then { op := o, allow := isSrc64, align := 2, span := 2, latches := 2 } else Field.src o
/-- A destination of the width of the type (R231). -/
def Field.dstOf (wide : Bool) (o : Operand) : Field :=
  if wide then { op := o, allow := isReg, align := 2, span := 2, latches := 0 }
  else { op := o, allow := isDst, align := 1, span := 1, latches := 0 }
/-- A register of a class, or a group of registers (R46). -/
def Field.group (allow : Operand → Bool) (align span : Nat) (o : Operand) : Field :=
  { op := o, allow := allow, align := align, span := span, latches := 1 }

/-- The registers a field names. -/
def Field.regs (f : Field) : List RegName :=
  match f.op with
  | .v r => (List.range f.span).map fun i => .v (Fin.ofNat 128 (r.val + i))
  | .s r => (List.range f.span).map fun i => .s (Fin.ofNat 64 (r.val + i))
  | _ => []

/-- The field passes R43, R46 and its card (step 3 of R60). -/
def Field.ok (f : Field) (w : Wave) : Bool :=
  isSrc f.op && f.allow f.op &&
  match f.op with
  | .v r => r.val % f.align == 0 && decide (r.val + f.span ≤ min 128 w.nv)
  | .s r => r.val % f.align == 0 && decide (r.val + f.span ≤ min 64 w.ns)
  | _ => true

/-- The latches a field reads. -/
def Field.latchSet (f : Field) : List (Fin 4) :=
  match f.op with
  | .l k => (List.range f.latches).map fun i => Fin.ofNat 4 (k.val + i)
  | _ => []

/-- The field reads an invalid latch (R53, R230). -/
def Field.stale (f : Field) (p : Path) : Bool := f.latchSet.any fun k => !(p.latches[k].valid)

/-- The field is a streamed source (R30, R52). -/
def Field.streamed (f : Field) (p : Path) : Bool :=
  match f.op with
  | .v _ | .p _ | .lane => true
  | .l _ => f.latchSet.any fun k => p.latches[k].valid && !p.latches[k].uniform
  | _ => false

/-! ## Reading -/

/-- The value of a uniform special (R44). -/
def Wave.specialVal (w : Wave) (x : Special) : Word := w.special[x.index]?.getD 0

/-- A vector register's lanes; a scalar register's word. -/
def Wave.vreg (w : Wave) (r : Nat) : Lanes := w.v[r]?.getD (splat 0)
def Wave.sreg (w : Wave) (r : Nat) : Word := w.s[r]?.getD 0

/-- src(f, i): 32 bits (R18, R43). -/
def srcLane (w : Wave) (p : Path) (o : Operand) (i : Fin 32) : Word :=
  match o with
  | .v r => w.v[r][i]
  | .s r => w.s[r]
  | .l k => p.latches[k].val[i]
  | .zero => 0
  | .lane => BitVec.ofNat 32 i.val
  | .wave => BitVec.ofNat 32 w.index
  | .ones => 0xFFFFFFFF#32
  | .p k => w.p[k]
  | .special x => w.specialVal x
  | .reserved _ => 0

/-- The 64-bit value of a source (R230): the high word stands in the next register of a pair, and in the named
latch itself, whose low word is the next latch. -/
def src64 (w : Wave) (p : Path) (o : Operand) (i : Fin 32) : DWord :=
  match o with
  | .v r => join64 (w.v[r][i]) ((w.vreg (r.val + 1))[i])
  | .s r => join64 w.s[r] (w.sreg (r.val + 1))
  | .l k => join64 (p.latches[k + 1].val[i]) (p.latches[k].val[i])
  | .ones => 0xFFFFFFFFFFFFFFFF#64
  | o => (srcLane w p o i).setWidth 64

/-- A source of the width of the type, as 64 bits. -/
def srcOf (wide : Bool) (w : Wave) (p : Path) (o : Operand) (i : Fin 32) : DWord :=
  if wide then src64 w p o i else (srcLane w p o i).setWidth 64

/-- A uniform source. -/
def srcUni (w : Wave) (p : Path) (o : Operand) : Word := srcLane w p o 0

/-- The value of a scalar pair. -/
def scalar64 (w : Wave) (o : Operand) : DWord :=
  match o with
  | .s r => join64 w.s[r] (w.sreg (r.val + 1))
  | _ => 0

/-! ## Writing -/

/-- The latches after a new entry (R51). -/
def pushLatch (ls : Vector Latch 4) (x : Latch) : Vector Latch 4 := #v[x, ls[0], ls[1], ls[2]]

/-- The entry of a streamed result: 0 outside EXEC. -/
def streamEntry (exec : Mask) (r : Lanes) : Latch :=
  { val := lanesOf fun i => if inMask exec i then r[i] else 0, valid := true, uniform := false }
/-- The entry of a uniform result. -/
def uniformEntry (x : Word) : Latch := { val := splat x, valid := true, uniform := true }

/-- A lane vector with the lanes of `exec` replaced. -/
def mergeLanes (old : Lanes) (exec : Mask) (new : Lanes) : Lanes :=
  lanesOf fun i => if inMask exec i then new[i] else old[i]

/-- A vector register written in the lanes of `exec`. -/
def Wave.setV (w : Wave) (r : Nat) (exec : Mask) (x : Lanes) : Wave :=
  { w with v := w.v.setIfInBounds r (mergeLanes (w.vreg r) exec x) }
/-- A scalar register written. -/
def Wave.setS (w : Wave) (r : Nat) (x : Word) : Wave := { w with s := w.s.setIfInBounds r x }
/-- A predicate written in the lanes of `exec`. -/
def Wave.setP (w : Wave) (k : Fin 8) (exec bits : Mask) : Wave := { w with p := w.p.set k (predWrite w.p[k] exec bits) }

/-- A deferred value written to its destination: a scalar takes lane 0. -/
def Wave.writeReg (w : Wave) (d : RegName) (exec : Mask) (x : Lanes) : Wave :=
  match d with
  | .v r => w.setV r exec x
  | .s r => w.setS r x[0]

/-- Results written to d and the registers after it (R231); a scalar takes lane 0, a predicate bit i of lane i. -/
def Wave.writeDst (w : Wave) (d : Operand) (exec : Mask) (rs : List Lanes) : Wave :=
  match d with
  | .v r => (rs.zipIdx r.val).foldl (fun w (x, k) => w.setV k exec x) w
  | .s r => (rs.zipIdx r.val).foldl (fun w (x, k) => w.setS k x[0]) w
  | .p k => match rs with
    | x :: _ => w.setP k exec (diagonal x)
    | [] => w
  | _ => w

end Sys2Proof.Machine
end

