-- ==== Sys2Proof/Machine/Paths.lean ====
section
/-! DEFINITION. Paths, splits and joins of a wave (R260 to R268), lanes that end (R267, R278). -/

namespace Sys2Proof.Machine

/-- Resident split entries (R263). -/
def Wave.resident (w : Wave) : Nat := (w.splits.filter fun e => !e.spilled).length

/-- The save area of a context is valid (R333). -/
def State.hasSaveArea (s : State) (asid : BitVec 8) : Bool := s.regBit (Reg.saveBase asid.toNat) 63

/-- Rejoin masks of a pipe and shared instruction-buffer entries of a core are free (R265). [DEDUCED, log 19, safe] -/
def State.dualFree (s : State) (core : Fin 256) (pipe : Fin 32) : Bool :=
  let held := fun (f : Wave → Bool) =>
    (s.waves.filter f).foldl (fun n w => n + (w.splits.filter fun e => e.holds).length) 0
  decide (held (fun w => w.core == core && w.pipe == pipe) < 4) && decide (held (fun w => w.core == core) < 32)

/-- A path that starts an arm (R264). -/
def armPath (entry : Nat) (mode : Mode) (pending : List RegName) (a : Arm) : Path :=
  { tag := ⟨entry, a.num⟩, pc := a.target, mask := a.mask, mode := mode, latches := Vector.replicate 4 Latch.empty,
    pending := pending, jp := none, wj := none, status := .ready, stage := .none, swDone := false, swNext := false,
    late := false, halted := false }

/-- The oldest resident entry marked spilled: the last of the list that is not (R263). [DESIGN CHOICE, log 20, unsafe] -/
def spillOldest (l : List Split) : List Split :=
  match l.reverse.span (·.spilled) with
  | (_, []) => l
  | (a, e :: b) => (a ++ { e with spilled := true } :: b).reverse

/-- The youngest spilled entry back in a resident slot (R263). -/
def refillYoungest (l : List Split) : List Split :=
  match l.span (fun e => !e.spilled) with
  | (a, e :: b) => a ++ { e with spilled := false } :: b
  | _ => l

/-- A split of the path with tag `t` whose arms stand in their order (R263 to R265). [DESIGN CHOICE, log 20, unsafe] -/
def Wave.splitInto (w : Wave) (p : Path) (join : Nat) (arms : List (Nat × Mask)) (dual : Bool) : Wave :=
  let num := w.splits.length + 1
  let as := (arms.zipIdx).map fun ((t, m), k) => ({ num := k, mask := m, target := t } : Arm)
  let run := if dual then 2 else 1
  let e : Split := { num := num, join := join, mask := p.mask, arrived := 0, mode := p.mode, pending := p.pending,
                     armPending := [], tag := p.tag, waiting := as.drop run, dual := dual, holds := dual,
                     spilled := false }
  let stack := if w.resident ≥ 8 then spillOldest w.splits else w.splits
  { w with splits := e :: stack,
           paths := (w.paths.filter fun q => q.tag != p.tag) ++ (as.take run).map (armPath num p.mode p.pending) }

/-- Arms of an entry that run: a path carries their tag, or an entry of a split they have made and whose lanes have not
all ended (R264, R267). -/
def Wave.running (w : Wave) (num : Nat) : Nat :=
  let tags := w.paths.map (·.tag) ++ (w.splits.filter fun e => e.mask != 0).map (·.tag)
  ((tags.filter fun t => t.entry == num).eraseDups).length

/-- Arms that an entry runs at once (R264, R265). -/
def Split.arms (e : Split) : Nat := if e.dual then 2 else 1

/-- The waiting arms of an entry start in the place of running ones that have arrived or ended; the shared resources are
released once fewer than two run (R264, R265, R277). -/
def Wave.startArms (w : Wave) (num : Nat) : Wave :=
  match w.splits.find? fun e => e.num == num with
  | none => w
  | some e =>
    let n := e.arms - w.running num
    let w := { w with paths := w.paths ++ (e.waiting.take n).map (armPath num e.mode e.pending) }
    { w with splits := w.splits.map fun (x : Split) =>
        if x.num = num then { x with waiting := e.waiting.drop n, holds := e.holds && decide (2 ≤ w.running num) } else x }

/-- The path that continues at the join (R266). -/
def Split.joined (e : Split) : Path :=
  { tag := e.tag, pc := e.join, mask := e.mask, mode := e.mode, latches := Vector.replicate 4 Latch.empty,
    pending := e.armPending, jp := none, wj := none, status := .ready, stage := .none, swDone := false,
    swNext := true, late := false, halted := false }

/-- The top entry popped (R263, R266). -/
def Wave.popEntry (w : Wave) : Wave :=
  match w.splits with
  | [] => w
  | e :: rest =>
    { w with splits := if (rest.filter fun x => !x.spilled).length < 8 then refillYoungest rest else rest,
             returns := w.returns.filter fun r => r.2.entry != e.num }

/-- The top entry rejoins once its arrived mask equals R, and is skipped once R is empty; so does each entry that comes
to the top by that (R266, R267). [DEDUCED, log 117, unsafe] -/
def Wave.rejoin (w : Wave) : Nat → Wave
  | 0 => w
  | fuel + 1 =>
    match w.splits with
    | [] => w
    | e :: _ =>
      if e.mask = 0 then Wave.rejoin w.popEntry fuel
      else if e.arrived = e.mask then
        let w := w.popEntry
        Wave.rejoin { w with paths := w.paths ++ [e.joined] } fuel
      else w

/-- Lanes have arrived or ended: waiting arms start, and entries rejoin (R264 to R267, R277). -/
def Wave.settle (w : Wave) : Wave :=
  let w := (w.splits.map (·.num)).foldl Wave.startArms w
  w.rejoin (w.splits.length + 1)

/-- The path leaves the running arms of its entry. -/
def Wave.leaveArm (w : Wave) (p : Path) : Wave :=
  Wave.settle { w with paths := w.paths.filter fun q => q.tag != p.tag }

/-- The arm with this tag arrives at the join of the top entry (R266). -/
def Wave.arriveArm (w : Wave) (p : Path) : Wave :=
  match w.splits with
  | [] => w
  | e :: rest =>
    let pend := e.armPending ++ p.pending.filter fun r => !e.armPending.contains r
    let e' : Split := { e with arrived := e.arrived ||| p.mask, armPending := pend }
    Wave.leaveArm { w with splits := e' :: rest } p

/-- The entry that the path's tag names. -/
def Wave.entryOf? (w : Wave) (p : Path) : Option Split := w.splits.find? fun e => e.num == p.tag.entry

/-- The path stands at the join of its own entry (R266). -/
def Wave.atJoin (w : Wave) (p : Path) : Bool :=
  match w.entryOf? p with
  | some e => e.join == p.pc
  | none => false

/-- It may arrive: its entry is the top of the stack (R266). -/
def Wave.mayArrive (w : Wave) (p : Path) : Bool :=
  match w.splits with
  | e :: _ => e.num == p.tag.entry
  | [] => false

/-- Lanes of a path end: they leave its PATH and the rejoin mask of every open entry (R267, R278). -/
def Wave.endLanes (w : Wave) (p : Path) (m : Mask) : Wave :=
  let gone := p.mask &&& m
  let w := { w with splits := w.splits.map fun (e : Split) => { e with mask := e.mask &&& ~~~gone } }
  if p.mask &&& ~~~m = 0 then w.leaveArm p
  else w.modPath p.tag fun q => { q with mask := q.mask &&& ~~~m }

/-- Every lane of the wave that has not ended. -/
def Wave.liveMask (w : Wave) : Mask :=
  w.splits.foldl (fun m e => m ||| e.mask) (w.paths.foldl (fun m p => m ||| p.mask) 0)

end Sys2Proof.Machine
end

