-- ==== Sys2Proof/Machine/Ctl.lean ====
section
/-! DEFINITION. The memory controllers (R88 to R108, R111 to R113): regions of the physical space, page states,
the concordance, write-back, chunk accounting, expanded views, and what a read of a line finds. -/

namespace Sys2Proof.Machine

/-! ## Addresses -/

/-- Line space (R88). -/
def inLineSpace (pa : Nat) : Bool := decide (pa < 2 ^ 40)
/-- The expanded views of the format windows (R88). -/
def inExpanded (pa : Nat) : Bool := decide (2 ^ 40 ≤ pa ∧ pa < 2 ^ 41)
/-- The controller of a line-space address (R89). -/
def mcOf (pa : Nat) : Fin 8 := Fin.ofNat 8 (bitsOf pa 14 12 ^^^ bitsOf pa 20 18 ^^^ bitsOf pa 26 24)
/-- The line index at that controller (R89). -/
def lineIndex (pa : Nat) : Nat := bitsOf pa 39 15 * 32 + bitsOf pa 11 7
/-- The line number (pa / 128) of a line index at a controller (R89 inverted). -/
def lineOfIndex (mc : Fin 8) (L : Nat) : Nat :=
  let pa := (L / 32) * 2 ^ 15 + (L % 32) * 128
  (pa + (mc.val ^^^ bitsOf pa 20 18 ^^^ bitsOf pa 26 24) * 2 ^ 12) / 128
/-- The home slice of an address (R114). -/
def homeOf (pa : Nat) : Fin 128 :=
  Fin.ofNat 128 (bitsOf pa 16 10 ^^^ bitsOf pa 23 17 ^^^ bitsOf pa 30 24 ^^^ bitsOf pa 37 31
    ^^^ bitsOf pa 44 38 ^^^ bitsOf pa 51 45)

/-- Why a line cannot be read: an UNBACKED page or an unassigned range, or an uncorrectable error. -/
inductive LineErr where
  | absent
  | lost
  deriving DecidableEq, Repr

/-- The trap of a failed read at its requester (R88, R91, R112). -/
def LineErr.trap : LineErr → TrapCode
  | .absent => .memFault
  | .lost => .eccUncorr

/-- The UNBACKED state (R91). -/
def PageState.reset : PageState := { state := 0, part := 0 }

/-- The controller's copy of the page state that governs an address (R91). -/
def State.pageState (s : State) (pa : Nat) : PageState :=
  SMap.get PageState.reset (s.ctl (mcOf pa)).pages (pa / 2 ^ 16)

/-- The concordance entry of a line-space address (R95). -/
def State.entryOf (s : State) (pa : Nat) : ConcEntry :=
  SMap.get ConcEntry.zero (s.ctl (mcOf pa)).entries (lineIndex pa)

/-! ## Reading -/

/-- The bytes of a list from an index on. -/
def byteAt {n : Nat} (v : Vector Byte n) (i : Nat) : Byte := v[i]?.getD 0

/-- One byte of line space as its controller returns it: after every earlier write-back (R96), from the overflow
buffer (R101), or as stored; LOST lines fail (R113). -/
def State.ctlByte (s : State) (pa : Nat) : Except LineErr Byte :=
  if (s.pageState pa).state = 0 then .error .absent
  else
    match s.lineWrites.reverse.find? fun w => w.line == pa / 128 with
    | some w => .ok (byteAt w.data (pa % 128))
    | none =>
      match (s.ctl (mcOf pa)).overflow.find? fun o => o.index == lineIndex pa with
      | some o => .ok (byteAt o.data (pa % 128))
      | none => if (s.entryOf pa).mode = 15 then .error .lost else .ok (s.mem.read pa)

/-- A line held by the L2. -/
def State.l2Line? (s : State) (line : Nat) : Option L2Line :=
  (s.home (homeOf (line * 128))).lines.find? fun l => l.line == line

/-- One byte of line space as its home returns it. -/
def State.lineSpaceByte (s : State) (pa : Nat) : Except LineErr Byte :=
  match s.l2Line? (pa / 128) with
  | some l => .ok (byteAt l.data (pa % 128))
  | none => s.ctlByte pa

/-- The bytes of line space from an address on. -/
def State.lineSpaceBytes (s : State) (pa : Nat) : Nat → Except LineErr (List Byte)
  | 0 => .ok []
  | n + 1 =>
    if inLineSpace pa then do
      let b ← s.lineSpaceByte pa
      let bs ← State.lineSpaceBytes s (pa + 1) n
      return b :: bs
    else .error .absent

/-- The configuration of an enabled format window (R105). -/
structure WindowCfg where
  base : Nat
  len : Nat
  dat : Nat
  scl : Nat
  dpitch : Nat
  spitch : Nat
  rowlen : Nat
  out : FloatFmt
  scaleT : ElemType
  elem : FloatFmt
  deriving DecidableEq, Repr

/-- Element formats of a window by code (R105). -/
def windowElem (c : Nat) : Option FloatFmt :=
  if c = 11 then some .fp8e4 else if c = 12 then some .fp8e5 else if c = 13 then some .fp4 else none
/-- Delivered formats of a window by code (R105). -/
def windowOut (c : Nat) : Option FloatFmt :=
  if c = 8 then some .fp32 else if c = 10 then some .bf16 else none
/-- Scale types by code (R105). -/
def scaleOf (c : Nat) : Option ElemType :=
  if c = 15 then some .e8m0 else if c = 16 then some .ue5m3 else none

/-- A window as its registers hold it, whatever its enable bit; none where a field is invalid (R105). -/
def State.windowCfg? (s : State) (w : Fin 16) : Option WindowCfg := do
  let r := fun i => (s.reg (Reg.fw w i)).toNat
  let cfg := r 6
  let out ← windowOut (bitsOf cfg 15 11)
  let sc ← scaleOf (bitsOf cfg 10 6)
  let el ← windowElem (bitsOf cfg 5 1)
  let k := bitsOf cfg 31 16
  let ow := out.width / 8
  if bitsOf cfg 63 32 = 0 ∧ 24 ≤ k ∧ k ≤ 65520 ∧ k % 24 = 0 ∧ 0 < r 1 ∧ r 1 % 65536 = 0 ∧ r 1 % (k * ow) = 0
      ∧ r 0 % 65536 = 0 ∧ 2 ^ 40 ≤ r 0 ∧ r 0 + r 1 ≤ 2 ^ 41 ∧ r 2 % 128 = 0 ∧ r 2 < 2 ^ 40 ∧ r 3 < 2 ^ 40 then
    return { base := r 0, len := r 1, dat := r 2, scl := r 3, dpitch := r 4, spitch := r 5, rowlen := k,
             out := out, scaleT := sc, elem := el }
  else none

/-- The lowest-numbered enabled window that covers an address (R106). -/
def State.windowAt? (s : State) (pa : Nat) : Option WindowCfg :=
  (List.finRange 16).findSome? fun w =>
    if s.regBit (Reg.fw w 6) 0 then
      match s.windowCfg? w with
      | some c => if c.base ≤ pa ∧ pa < c.base + c.len then some c else none
      | none => none
    else none

/-- The element of an expanded view at an address (R106). -/
def State.expandedElem (s : State) (c : WindowCfg) (o : Nat) : Except LineErr Nat := do
  let g := o / (c.out.width / 8)
  let r := g / c.rowlen
  let k := g % c.rowlen
  let row := c.dat + r * c.dpitch
  let data ←
    if c.elem.width = 8 then do
      let bs ← s.lineSpaceBytes (row + k) 1
      pure (leNat bs)
    else do
      let bs ← s.lineSpaceBytes (row + k / 2) 1
      pure (if k % 2 = 0 then leNat bs % 16 else leNat bs / 16)
  let σ ← s.lineSpaceBytes (c.scl + r * c.spitch + k / 24) 1
  return c.out.round .rne (scaled (c.elem.decode data) (decodeScale c.scaleT (leNat σ)))

/-- One byte of an expanded view; no window covers it: MEM_FAULT (R106). [DESIGN CHOICE, log 46, unsafe] -/
def State.expandedByte (s : State) (pa : Nat) : Except LineErr Byte :=
  match s.windowAt? pa with
  | none => .error .absent
  | some c => do
    let ow := c.out.width / 8
    let x ← s.expandedElem c (pa - c.base)
    return BitVec.ofNat 8 (x / 256 ^ ((pa - c.base) % ow))

/-- One byte of a line that is not in L2, from its controller. -/
def State.controllerByte (s : State) (pa : Nat) : Except LineErr Byte :=
  if inLineSpace pa then s.ctlByte pa
  else if inExpanded pa then s.expandedByte pa
  else .error .absent

/-- One byte as its home returns it. [DESIGN CHOICE, log 46, unsafe] -/
def State.homeByte (s : State) (pa : Nat) : Except LineErr Byte :=
  match s.l2Line? (pa / 128) with
  | some l => .ok (byteAt l.data (pa % 128))
  | none => s.controllerByte pa

/-- Bytes as their homes return them, from an address on. -/
def State.homeBytes (s : State) (pa : Nat) : Nat → Except LineErr (List Byte)
  | 0 => .ok []
  | n + 1 => do
    let b ← s.homeByte pa
    let bs ← State.homeBytes s (pa + 1) n
    return b :: bs

/-- The bytes of a list as a vector. -/
def vecOf (n : Nat) (l : List Byte) : Vector Byte n := Vector.ofFn fun i => l.getD i.val 0

/-- A whole line from its controller (R96, R106). -/
def State.controllerLine (s : State) (line : Nat) : Except LineErr (Vector Byte 128) := do
  let l ← (List.range 128).mapM fun i => s.controllerByte (line * 128 + i)
  return vecOf 128 l

/-- The line can be reached at all: its page is backed, or a window covers it (R88, R91, R106). The state of the
data is left to the read. -/
def State.backed (s : State) (pa : Nat) : Bool :=
  if inLineSpace pa then (s.pageState pa).state != 0
  else if inExpanded pa then (s.windowAt? pa).isSome
  else false

/-- The access of a partition reaches a page of another (R91, R417). -/
def State.crosses (s : State) (p : Fin 32) (pa : Nat) : Bool :=
  inLineSpace pa && (s.pageState pa).state != 0 && (s.pageState pa).part != p

/-! ## Compression (R92 to R94) -/

/-- Chunks of a mode (R92). -/
def chunksOf (mode : Nat) : Nat :=
  match mode with
  | 2 => 1 | 3 => 1 | 4 => 2 | 5 => 2 | 6 => 2 | 7 => 3 | 8 => 3 | 9 => 4
  | _ => 0

/-- Little-endian elements of `n` bytes each. -/
def elementsOf (n : Nat) (d : Vector Byte 128) : List Nat :=
  (List.range (128 / n)).map fun k => leNat ((List.range n).map fun j => byteAt d (n * k + j))

/-- Every element is the first plus a signed delta of `w` bits, modulo 2^(8n) (R93). -/
def fitsDelta (n w : Nat) (d : Vector Byte 128) : Bool :=
  let l := elementsOf n d
  let b := l.headD 0
  l.all fun x => decide ((x + 2 ^ (8 * n) - b + 2 ^ (w - 1)) % 2 ^ (8 * n) < 2 ^ w)

/-- The condition of a mode on a line (R92). -/
def fitsMode (mode : Nat) (d : Vector Byte 128) : Bool :=
  match mode with
  | 0 => (elementsOf 8 d).all (· == 0)
  | 2 => let l := elementsOf 4 d; l.all (· == l.headD 0)
  | 3 => fitsDelta 4 4 d
  | 4 => fitsDelta 4 8 d
  | 5 => fitsDelta 8 16 d
  | 6 => fitsDelta 2 4 d
  | 7 => fitsDelta 4 16 d
  | 8 => fitsDelta 8 32 d
  | _ => true

/-- The mode with the fewest chunks, the lowest code among equals (R94): the codes rise with the chunks. -/
def chooseMode (d : Vector Byte 128) : Nat :=
  ([0, 2, 3, 4, 5, 6, 7, 8].find? fun m => fitsMode m d).getD 9

/-- `n` bits at bit position `pos` of a little-endian byte string. -/
def deltaPayload (n w : Nat) (d : Vector Byte 128) : Nat :=
  let l := elementsOf n d
  let b := l.headD 0
  let ds := (l.tail.map fun x => (x + 2 ^ (8 * n) - b) % 2 ^ w)
  b + 2 ^ (8 * n) * ds.foldr (fun x acc => x + 2 ^ w * acc) 0

/-- The payload of a line stored in a mode (R92, R93), as the bytes of its chunks. -/
def encodeLine (mode : Nat) (d : Vector Byte 128) : List Byte :=
  match mode with
  | 2 => leBytes 32 ((elementsOf 4 d).headD 0)
  | 3 => leBytes 32 (deltaPayload 4 4 d)
  | 4 => leBytes 64 (deltaPayload 4 8 d)
  | 5 => leBytes 64 (deltaPayload 8 16 d)
  | 6 => leBytes 64 (deltaPayload 2 4 d)
  | 7 => leBytes 96 (deltaPayload 4 16 d)
  | 8 => leBytes 96 (deltaPayload 8 32 d)
  | 9 => d.toList
  | _ => []

/-! ## Chunk accounting (R99, R100) -/

/-- The run of an entry: first chunk and count (R95). -/
def ConcEntry.run (e : ConcEntry) : Nat × Nat := (e.ptr.toNat, chunksOf e.mode.toNat)

/-- A chunk lies in some run or has been withdrawn. -/
def Controller.chunkTaken (c : Controller) (k : Nat) : Bool :=
  c.bad.contains k || c.entries.any fun (_, e) => decide (e.run.1 ≤ k ∧ k < e.run.1 + e.run.2)

/-- A run of n chunks can be taken at k: inside one frame, inside the pool, every chunk free (R90). [DESIGN CHOICE, log 132, safe] -/
def Controller.runFree (c : Controller) (k n : Nat) : Bool :=
  decide (k + n ≤ poolSize) && decide (k % 4 + n ≤ 4) && (List.range n).all fun i => !(c.chunkTaken (k + i))

/-- U(p). -/
def Controller.usedBy (c : Controller) (p : Nat) : Nat := SMap.get 0 c.used p

/-- alloc(p, n) succeeds (R99). -/
def State.allocOk (s : State) (mc : Fin 8) (p : Fin 32) (n : Nat) : Bool :=
  let c := s.ctl mc
  let v := fun q => (s.reg (Reg.mcResv mc q)).toNat
  let others := (List.range 32).foldl (fun t q => if q = p.val then t else t + (v q - c.usedBy q)) 0
  decide (n ≤ c.free) && (decide (c.usedBy p.val + n ≤ v p.val) || decide (others ≤ c.free - n))

/-- F and U(p) after n chunks are charged to a partition. -/
def Controller.charge (c : Controller) (p n : Nat) : Controller :=
  { c with free := c.free - n, used := SMap.set 0 c.used p (c.usedBy p + n) }
/-- F and U(p) after n chunks of a partition are freed. -/
def Controller.refund (c : Controller) (p n : Nat) : Controller :=
  { c with free := c.free + n, used := SMap.set 0 c.used p (c.usedBy p - n) }

def Controller.entry (c : Controller) (i : Nat) : ConcEntry := SMap.get ConcEntry.zero c.entries i
def Controller.setEntry (c : Controller) (i : Nat) (e : ConcEntry) : Controller :=
  { c with entries := SMap.set ConcEntry.zero c.entries i e }

/-- CHUNK_LOW at a downward crossing of MCLOWWM (R100). -/
def State.chunkLowCheck (after before : State) (mc : Fin 8) : State :=
  let wm := (after.reg (Reg.mcLowWm mc)).toNat
  if wm < (before.ctl mc).free ∧ (after.ctl mc).free ≤ wm then after.interrupt (.chunkLow mc) else after

/-- release(L) of R97. -/
def Controller.release (c : Controller) (L : Nat) : Controller :=
  let e := c.entry L
  if e.mode = 1 then
    let sx := e.ptr.toNat
    let se := c.entry sx
    if se.refc.toNat ≤ 1 then (c.refund se.part.toNat se.run.2).setEntry sx ConcEntry.zero
    else c.setEntry sx { se with refc := se.refc - 1 }
  else c.refund e.part.toNat e.run.2

/-- The bytes of an entry: those of its line, or of a line that names the shared entry (R98). -/
def State.entryBytes (s : State) (mc : Fin 8) (i : Nat) : Option (Vector Byte 128) :=
  let ofLine := fun (L : Nat) => vecOf 128 (s.mem.readN (lineOfIndex mc L * 128) 128)
  if i < 2 ^ 30 then some (ofLine i)
  else ((s.ctl mc).entries.find? fun (k, e) => decide (k < 2 ^ 30) && e.mode == 1 && e.ptr.toNat == i).map
    fun (k, _) => ofLine k

/-- The least count that a shared entry may not pass (R95). -/
def maxRefc : Nat := 8388607

/-- dedup_match(L, p, D) with the candidate that the index names and the shared entry taken for a private match
(R98). The index and the choice of a free entry are not part of the architecture. -/
def State.dedupMatch (s : State) (mc : Fin 8) (L : Nat) (p : Fin 32) (d : Vector Byte 128)
    (cand : Option Nat) (shared : Nat) : Option (Nat × Controller) := do
  let q ← cand
  let c := s.ctl mc
  let e := c.entry q
  if q = L ∨ (q < 2 ^ 30 ∧ (s.pageState (lineOfIndex mc q * 128)).state ≠ 2) ∨ e.part.toNat ≠ p.val
      ∨ chunksOf e.mode.toNat = 0 ∨ s.entryBytes mc q ≠ some d then none
  else if 2 ^ 30 ≤ q then
    if e.refc.toNat < maxRefc then return (q, c.setEntry q { e with refc := e.refc + 1 }) else none
  else if 2 ^ 30 ≤ shared ∧ shared < 2 ^ 30 + 2 ^ 26 ∧ c.entry shared = ConcEntry.zero then
    let dup : ConcEntry := { mode := 1, part := e.part, refc := 0, ptr := BitVec.ofNat 32 shared }
    return (shared, (c.setEntry shared { e with refc := 2 }).setEntry q dup)
  else none

/-- An error record (R104). -/
def State.logError (s : State) (mc : Fin 8) (cause : BitVec 8) (L : Nat) : State :=
  s.modCtl mc fun c => { c with errlog := c.errlog ++ [(cause, BitVec.ofNat 30 L)] }

/-- The bytes of a line in line space. -/
def State.storeLine (s : State) (line : Nat) (d : Vector Byte 128) : State :=
  { s with mem := s.mem.writeN (line * 128) d.toList }

/-- What becomes of a write-back. -/
inductive WbResult where
  /-- Done. -/
  | done (s : State)
  /-- alloc failed (R101). -/
  | noChunks
  /-- The chunk that the unit chose is not free: no such step. -/
  | badChoice

/-- writeback(L, D) of R97 with the unit's choices: the deduplication candidate, the first chunk of a new run,
and the shared entry taken for a private match. CHUNK_LOW follows the alloc, before the release (R100). A LOST line of a
FIXED page stores the data and stays LOST. A run that F and the reservations allow, but no frame can hold, has no such
step until chunks are freed. [DESIGN CHOICE, log 132, safe; DESIGN CHOICE, log 134, unsafe] -/
def State.writebackLine (s : State) (line : Nat) (d : Vector Byte 128) (cand : Option Nat)
    (chunk shared : Nat) : WbResult :=
  let pa := line * 128
  let mc := mcOf pa
  let L := lineIndex pa
  let pg := s.pageState pa
  let s := s.count (.controller mc) 0x31 1
  if pg.state = 0 then .done (s.logError mc 2 L)
  else if pg.state = 1 then .done (s.storeLine line d)
  else
    let m := chooseMode d
    let n := chunksOf m
    match (if m = 0 then none else s.dedupMatch mc L pg.part d cand shared) with
    | some (x, c) =>
      let c := (c.release L).setEntry L
        { mode := 1, part := BitVec.ofNat 5 pg.part.val, refc := 0, ptr := BitVec.ofNat 32 x }
      .done (((s.setCtl mc c).storeLine line d).count (.controller mc) 0x32 1)
    | none =>
      let c := s.ctl mc
      let e := c.entry L
      let fresh := fun (p : Nat) (mode : Nat) =>
        ({ mode := BitVec.ofNat 4 mode, part := BitVec.ofNat 5 pg.part.val, refc := 0,
           ptr := BitVec.ofNat 32 p } : ConcEntry)
      if 0 < n ∧ n ≤ chunksOf e.mode.toNat then
        let c := (c.refund e.part.toNat (chunksOf e.mode.toNat)).charge pg.part.val n
        .done ((s.setCtl mc (c.setEntry L (fresh e.ptr.toNat m))).storeLine line d)
      else if n = 0 then
        let c := c.release L
        .done ((s.setCtl mc (c.setEntry L (fresh 0 0))).storeLine line d)
      else if !(s.allocOk mc pg.part n) then .noChunks
      else if !(c.runFree chunk n) then .badChoice
      else
        let taken := (s.setCtl mc (c.charge pg.part.val n)).chunkLowCheck s mc
        let c' := ((c.charge pg.part.val n).release L).setEntry L (fresh chunk m)
        .done ((taken.setCtl mc c').storeLine line d)

/-- The line's entry becomes LOST, with every DUP line of its shared entry; its chunks are withdrawn and a record
is posted (R113). [DESIGN CHOICE, log 135, safe] -/
def State.loseLine (s : State) (line : Nat) : State :=
  let pa := line * 128
  let mc := mcOf pa
  let L := lineIndex pa
  let c := s.ctl mc
  let e := c.entry L
  let lost := fun (x : ConcEntry) => ({ x with mode := 15, refc := 0, ptr := 0 } : ConcEntry)
  let withdraw := fun (c : Controller) (x : ConcEntry) =>
    ({ c with bad := c.bad ++ (List.range x.run.2).map (x.run.1 + ·),
              used := SMap.set 0 c.used x.part.toNat (c.usedBy x.part.toNat - x.run.2) } : Controller)
  let c :=
    if e.mode = 1 then
      let sx := e.ptr.toNat
      let c := withdraw c (c.entry sx)
      { c with entries := c.entries.map fun (k, x) =>
          if k = sx then (k, lost x)
          else if k < 2 ^ 30 ∧ x.mode = 1 ∧ x.ptr.toNat = sx then (k, lost x) else (k, x) }
    else (withdraw c e).setEntry L (lost e)
  (s.setCtl mc c).logError mc 1 L

end Sys2Proof.Machine
end

