-- ==== Sys2Proof/Machine/HomeOps.lean ====
section
/-! DEFINITION. What a home slice does to a line (R115 to R128, R157, R176): fills and evictions, writes, watches,
the race check, atomics, dependence counters and the dependence log. -/

namespace Sys2Proof.Machine

/-! ## Fills and evictions -/

/-- The set of a line in its slice (R115). -/
def l2Set (line : Nat) : Nat := bitsOf (line * 128) 23 17 * 8 + bitsOf (line * 128) 9 7

/-- L2OCC(h, a): lines charged to an ASID in a slice (R117). -/
def Home.occupancy (h : Home) (a : BitVec 8) : Nat := (h.lines.filter fun l => l.asid == a).length

/-- A line of the object whose batch is running in its slice (R118, R133). [DESIGN CHOICE, log 56, safe] -/
def State.inBatch (s : State) (line : Nat) : Bool :=
  match (s.home (homeOf (line * 128))).batch with
  | some b => decide (b.obj / 128 ≤ line ∧ line < b.obj / 128 + b.nlines)
  | none => false

/-- Some version holds bytes of the line (R118). -/
def State.hasVersionData (s : State) (line : Nat) : Bool :=
  s.versions.any fun v => v.written.any fun a => a / 128 == line

/-- The victim of a set (R118): a line over its ASID's limit first, then the least recently used. -/
def State.victim? (s : State) (h : Fin 128) (set : Nat) : Option L2Line :=
  let ls := ((s.home h).lines.filter fun l => l2Set l.line == set).reverse
  let ok := ls.filter fun l => !(s.inBatch l.line) && !(s.hasVersionData l.line)
  let past := ok.find? fun l =>
    let lim := s.regBits (Reg.l2OccLim l.asid.toNat) 14 0
    lim != 0 && decide (lim < (s.home h).occupancy l.asid)
  match past with
  | some l => some l
  | none => ok.head?

/-- The home can serve a request for the line now: no batch holds it (R133), and it is present or a way can be had for it
(R118). -/
def State.serves (s : State) (line : Nat) : Bool :=
  let h := homeOf (line * 128)
  !s.inBatch line && ((s.l2Line? line).isSome
    || decide (((s.home h).lines.filter fun l => l2Set l.line == l2Set line).length < 16) || (s.victim? h (l2Set line)).isSome)

/-- A dirty line leaves for its controller; `master` caused it (R102, R115). -/
def State.sendLine (s : State) (l : L2Line) (master : DWord) : State :=
  if l.dirty = 0 then s
  else { s with lineWrites := s.lineWrites ++ [{ line := l.line, data := l.data, master := master, held := false }] }

/-- The line dropped from its slice. -/
def State.dropL2 (s : State) (line : Nat) : State :=
  s.modHome (homeOf (line * 128)) fun h => { h with lines := h.lines.filter fun l => l.line != line }

/-- Why a home cannot serve a request now. -/
inductive HomeErr where
  /-- The line cannot be read (R88, R91, R112). -/
  | line (e : LineErr)
  /-- Every way of the set is held (R118), or the line belongs to a running batch (R133): the request waits. -/
  | wait
  deriving DecidableEq, Repr

/-- A line installed, its set emptied of a victim where all 16 ways are in use (R115, R118, R119, R120). -/
def State.install (s : State) (line : Nat) (data : Vector Byte 128) (dirty : BitVec 4) (asid : BitVec 8)
    (master : DWord) : Except HomeErr State :=
  let h := homeOf (line * 128)
  let new : L2Line := { line := line, data := data, dirty := dirty, tags := Vector.replicate 4 RaceTag.none,
                        dep := DepCounter.zero, asid := asid }
  let put := fun (s : State) => s.modHome h fun x => { x with lines := new :: x.lines }
  let full := decide (((s.home h).lines.filter fun l => l2Set l.line == l2Set line).length ≥ 16)
  if full then
    match s.victim? h (l2Set line) with
    | none => .error .wait
    | some v => .ok (put ((s.dropL2 v.line).sendLine v master))
  else .ok (put s)

/-- The line moved to the recently used end. -/
def State.touchL2 (s : State) (l : L2Line) : State :=
  s.modHome (homeOf (l.line * 128)) fun h => { h with lines := l :: h.lines.filter fun x => x.line != l.line }

/-- The line present in its slice, filled from its controller if it is not (R115). -/
def State.ensureL2 (s : State) (line : Nat) (asid : BitVec 8) (master : DWord) :
    Except HomeErr (L2Line × State) :=
  if s.inBatch line then .error .wait
  else
    match s.l2Line? line with
    | some l => .ok (l, (s.touchL2 l).count (.home (homeOf (line * 128))) 0x20 1)
    | none =>
      match s.controllerLine line with
      | .error e => .error (.line e)
      | .ok d =>
        let s := s.count (.home (homeOf (line * 128))) 0x21 1
        let s := if inLineSpace (line * 128) then s.count (.controller (mcOf (line * 128))) 0x30 1 else s
        match s.install line d 0 asid master with
        | .error e => .error e
        | .ok s' =>
          match s'.l2Line? line with
          | some l => .ok (l, s')
          | none => .error .wait

/-! ## Writes and watches -/

/-- Watches of the line fire; the entry of a switched-out wave sets its wake-pending bit and is freed (R157, R332). -/
def State.fireWatches (s : State) (line : Nat) : State :=
  { s with waves := s.waves.map fun w =>
      match w.watch with
      | some x =>
        if x.line = line then
          if x.entry then { w with wakePending := true, watch := some { x with fired := true, entry := false } }
          else { w with watch := some { x with fired := true } }
        else w
      | none => w }

/-- Bytes merged into a line at an offset. -/
def mergeBytes (d : Vector Byte 128) (off : Nat) (bs : List Byte) : Vector Byte 128 :=
  (bs.zipIdx off).foldl (fun d (b, i) => d.setIfInBounds i b) d

/-- Dirty bits of the sectors that a range of a line touches. -/
def sectorBits (off n : Nat) : BitVec 4 :=
  BitVec.ofNat 4 ((List.range 4).foldl (fun x i => if off < 32 * (i + 1) ∧ 32 * i < off + n then x + 2 ^ i else x) 0)

/-- Bytes within one line written at the home; watchers of the line wake (R115, R116, R157). -/
def State.homeWrite (s : State) (pa : Nat) (bs : List Byte) (asid : BitVec 8) (master : DWord) :
    Except HomeErr State := do
  let line := pa / 128
  if bs.length = 128 ∧ (s.l2Line? line).isNone ∧ s.inBatch line = false then
    if s.backed pa then
      let s' ← s.install line (vecOf 128 bs) 15 asid master
      return s'.fireWatches line
    else .error (.line .absent)
  else
    let (l, s') ← s.ensureL2 line asid master
    let l' := { l with data := mergeBytes l.data (pa % 128) bs, dirty := l.dirty ||| sectorBits (pa % 128) bs.length }
    return (s'.touchL2 l').fireWatches line

/-- Bytes of a line merged and sent to its controller past a set whose ways are all held (R118). -/
def State.writePast (s : State) (pa : Nat) (bs : List Byte) (master : DWord) : State :=
  match s.controllerLine (pa / 128) with
  | .error _ => s
  | .ok d =>
    let w : LineWrite := { line := pa / 128, data := mergeBytes d (pa % 128) bs, master := master, held := false }
    { s with lineWrites := s.lineWrites ++ [w] }.fireWatches (pa / 128)

/-- Bytes written at their homes, line by line. A part whose page is UNBACKED is discarded and logged with cause 2
(R97), once a line; a part of a LOST line that does not cover it is discarded. No line may be in a running batch (R133).
`fuel` bounds the lines. [DESIGN CHOICE, log 33, unsafe] -/
def State.homeWriteMany (s : State) (asid : BitVec 8) (master : DWord) : Nat → Nat → List Byte → State
  | 0, _, _ => s
  | fuel + 1, pa, bs =>
    if bs.isEmpty then s
    else
      let n := 128 - pa % 128
      let s' :=
        match s.homeWrite pa (bs.take n) asid master with
        | .ok s' => s'
        | .error (.line .absent) => if inLineSpace pa then s.logError (mcOf pa) 2 (lineIndex pa) else s
        | .error (.line .lost) => s
        | .error .wait => if s.inBatch (pa / 128) then s else s.writePast pa (bs.take n) master
      State.homeWriteMany s' asid master fuel (pa + n) (bs.drop n)

/-- Bytes written at their homes by a unit. -/
def State.unitWrite (s : State) (pa : Nat) (bs : List Byte) (asid : BitVec 8) : State :=
  s.homeWriteMany asid 0 (bs.length / 128 + 2) pa bs

/-- A little-endian value written at its home by a unit. -/
def State.unitWriteNat (s : State) (pa n x : Nat) (asid : BitVec 8) : State := s.unitWrite pa (leBytes n x) asid

/-- Lines of a range of bytes. -/
def linesOf (pa n : Nat) : List Nat := (List.range ((pa + n + 127) / 128 - pa / 128)).map (pa / 128 + ·)

/-- Lines read at their homes (R115, R141): each is filled where it is absent, and becomes the most recently used. -/
def State.readLines (s : State) (lines : List Nat) (asid : BitVec 8) (master : DWord) : State :=
  lines.eraseDups.foldl (fun s l => match s.ensureL2 l asid master with
    | .ok (_, s') => s'
    | .error _ => s) s

/-- A range read at its homes by a unit. -/
def State.visit (s : State) (pa n : Nat) (asid : BitVec 8) : State := s.readLines (linesOf pa n) asid 0

/-- The homes can serve these lines now. -/
def State.servesAll (s : State) (lines : List Nat) : Bool := lines.all s.serves
/-- The homes can serve a range now. -/
def State.servesRange (s : State) (pa n : Nat) : Bool := s.servesAll (linesOf pa n)

/-- A value read at its home by a unit. -/
def State.unitRead (s : State) (pa n : Nat) : Except LineErr Nat := do return leNat (← s.homeBytes pa n)

/-! ## The race check (R176) -/

/-- nwg(S) of a launch slot. -/
def State.nwgOf (s : State) (slot : BitVec 8) : Nat :=
  ((s.launches.find? fun l => l.slot.val == slot.toNat).map (·.record.nwg)).getD 1

/-- race(T, S, W, P). Requests of system contexts, of launches with more than 2^23 workgroups, of deterministic ones and
in handoff windows are never checked (R176, R179, R311). -/
def State.races (s : State) (t r : RaceTag) : Bool :=
  if r.quiet || !t.v || t.slot != r.slot || t.wg == r.wg then false
  else
    let n := s.nwgOf r.slot
    if t.wg.toNat / n = r.wg.toNat / n then t.phase == r.phase
    else t.phase.toNat / 256 == r.phase.toNat / 256

/-- The report of a race on a sector (R178, R324): 1 read after write, 2 write after write. -/
def raceInfo (kind : BitVec 8) (t : RaceTag) (sector : Nat) : TrapInfo :=
  { code := .memRace, kind := kind, mask := 0, info := t.phase.setWidth 32, addr := BitVec.ofNat 64 sector,
    aux := t.wg.setWidth 64 }

/-! ## Atomics (R124, R126) -/

/-- Width in bytes of an atomic of the type. -/
def atomicWidth (t : ElemType) : Nat := if isWide t then 8 else 4

/-- The new value (R124); `swap` of ATCAS stands in `val`. -/
def AtomicReq.newValue (r : AtomicReq) (old : DWord) : DWord :=
  let m : Mode := { Mode.initial with type := r.type, round := r.round, sat := r.sat }
  match r.op with
  | .add => laneAdd m old r.val 0
  | .min => laneMin m old r.val 0
  | .max => laneMax m old r.val 0
  | .and => old &&& r.val
  | .or => old ||| r.val
  | .xor => old ^^^ r.val
  | .xchg => r.val
  | .cas =>
    let w := 8 * atomicWidth r.type
    if old.toNat % 2 ^ w = r.cmp.toNat % 2 ^ w then r.val else old

/-- Every atomic performs its store except an ATCAS whose comparison fails (R157). -/
def AtomicReq.stores (r : AtomicReq) (old : DWord) : Bool :=
  match r.op with
  | .cas =>
    let w := 8 * atomicWidth r.type
    old.toNat % 2 ^ w == r.cmp.toNat % 2 ^ w
  | _ => true

/-- The order-sensitive operations (R120). [DEDUCED, log 27, safe] -/
def AtomicReq.orderSensitive (r : AtomicReq) : Bool :=
  match r.op with
  | .add => r.type == .fp32 || r.type == .pair
  | .xchg => true
  | .cas => true
  | _ => false

/-! ## The dependence counter and log (R120, R121) -/

/-- The line of the record that an append to an ASID's log writes next; none where it writes none (R121). -/
def State.logLine? (s : State) (asid : BitVec 8) : Option Nat :=
  let a := asid.toNat
  let base := (s.reg (Reg.dlBase a)).toNat
  let size := (s.reg (Reg.dlSize a)).toNat
  let wr := (s.reg (Reg.dlWr a)).toNat
  if base = 0 ∨ size ≤ wr - (s.reg (Reg.dlRd a)).toNat then none else some ((base + 32 * (wr % size)) / 128)

/-- The home of an ASID's next log record holds it back (R118, R133). -/
def State.logBusy (s : State) (asid : BitVec 8) : Bool :=
  match s.logLine? asid with
  | some l => !s.serves l
  | none => false

/-- append_log of an ASID's ring (R121). -/
def State.appendLog (s : State) (asid : BitVec 8) (line : Nat) (d : DepCounter) : State :=
  let a := asid.toNat
  let base := (s.reg (Reg.dlBase a)).toNat
  let size := (s.reg (Reg.dlSize a)).toNat
  let wr := (s.reg (Reg.dlWr a)).toNat
  let held := wr - (s.reg (Reg.dlRd a)).toNat
  if base = 0 then s
  else if size ≤ held then s.setReg (Reg.dlDrop a) (s.reg (Reg.dlDrop a) + 1)
  else
    let rec32 := leBytes 8 (line * 128) ++ leBytes 4 d.first.toNat ++ leBytes 4 d.last.toNat
      ++ leBytes 2 d.phase.toNat ++ leBytes 1 d.slot.toNat ++ leBytes 13 0
    let s := (s.unitWrite (base + 32 * (wr % size)) rec32 asid).setReg (Reg.dlWr a) (BitVec.ofNat 64 (wr + 1))
    if held + 1 = size / 2 ∨ held + 1 = size then s.interrupt (.dependenceLog asid) else s

/-- The counter's step, and whether it logs (R120). -/
def DepCounter.step (d : DepCounter) (r : RaceTag) : DepCounter × Bool :=
  if d.cnt = 0 ∨ d.slot ≠ r.slot ∨ d.phase ≠ r.phase then
    ({ cnt := 1, slot := r.slot, phase := r.phase, first := r.wg, last := r.wg }, false)
  else if r.wg ≠ d.first ∧ r.wg ≠ d.last then
    let c := min 7 (d.cnt + 1)
    ({ d with last := r.wg, cnt := c }, decide (c = 2))
  else (d, false)

/-- An order-sensitive operation counts on a resident line, whose ASID's log takes the record (R117, R120, R121). -/
def State.countDependence (s : State) (line : Nat) (r : RaceTag) : State :=
  match s.l2Line? line with
  | none => s
  | some l =>
    let (d, log) := l.dep.step r
    let s := s.modHome (homeOf (line * 128)) fun h =>
      { h with lines := h.lines.map fun x => if x.line = line then { x with dep := d } else x }
    if log then s.appendLog l.asid line d else s

/-- An atomic performed at the home (R126): the old value and the state after. -/
def State.atomicAt (s : State) (q : Requester) (who : RaceTag) (r : AtomicReq) (master : DWord) :
    Except HomeErr (DWord × State) := do
  let w := atomicWidth r.type
  let line := r.pa / 128
  let (l, s1) ← s.ensureL2 line q.asid master
  let old := BitVec.ofNat 64 (leNat ((List.range w).map fun i => byteAt l.data (r.pa % 128 + i)))
  let s2 ← if r.stores old then s1.homeWrite r.pa (leBytes w (r.newValue old).toNat) q.asid master else .ok s1
  let s3 := s2.count (.home (homeOf r.pa)) 0x24 1
  return (old, if r.orderSensitive then s3.countDependence line who else s3)

end Sys2Proof.Machine
end

