-- ==== Sys2Proof/Machine/Translate.lean ====
section
/-! DEFINITION. Translation (R146 to R149) and the buffer map (R196 to R198). A translation comes from a TLB
where one holds it, and from a walk of the tables otherwise; a walk reads the tables through their homes, where dirty bytes
of its own core have arrived first (R141). -/

namespace Sys2Proof.Machine

/-! ## What a core's own L1 holds -/

/-- The sector is dirty. -/
def Sector.dirty (x : Sector) : Bool := x.st == .d || x.st == .df

/-- A line in the L1 or in its lent capacity. -/
def Core.l1At? (c : Core) (line : Nat) : Option L1Line := (c.l1 ++ c.lent).find? fun x => x.line == line

/-- Sector pa / 32, invalid where the line is absent. -/
def Core.sector (c : Core) (sec : Nat) : Sector :=
  match c.l1At? (sec / 4) with
  | some l => l.sectors[sec % 4]?.getD Sector.empty
  | none => Sector.empty

/-- The byte that a message writes back outside every version. -/
def Message.byte? (m : Message) (core : Fin 256) (pa : Nat) : Option Byte :=
  match m.op with
  | .sector base bytes mask _ =>
    if m.req.core = core ∧ m.req.ver = none ∧ base = pa / 32 * 32 ∧ mask.getLsbD (pa % 32) then some (byteAt bytes (pa % 32)) else none
  | _ => none

/-- One byte as a direct access of a core finds it: the core's dirty bytes are sent home first (R141). -/
def State.coreByte (s : State) (c : Fin 256) (pa : Nat) : Except LineErr Byte :=
  let x := (s.core c).sector (pa / 32)
  if x.dirty && x.ver.isNone && x.mask.getLsbD (pa % 32) then .ok (byteAt x.bytes (pa % 32))
  else match s.messages.reverse.findSome? fun m => m.byte? c pa with
    | some b => .ok b
    | none => s.homeByte pa

/-- Bytes as direct accesses of a core find them. -/
def State.coreBytes (s : State) (c : Fin 256) (pa : Nat) : Nat → Except LineErr (List Byte)
  | 0 => .ok []
  | n + 1 => do
    let b ← s.coreByte c pa
    let bs ← State.coreBytes s c (pa + 1) n
    return b :: bs

/-- How tables are read: bytes from an address on. -/
abbrev Reader := Nat → Nat → Except LineErr (List Byte)

/-! ## Rights and the buffer map -/

/-- A set of rights (R148). -/
structure Rights where
  rd : Bool
  wr : Bool
  ex : Bool
  deriving DecidableEq, Repr

def Rights.r : Rights := { rd := true, wr := false, ex := false }
def Rights.w : Rights := { rd := false, wr := true, ex := false }
def Rights.rw : Rights := { rd := true, wr := true, ex := false }
def Rights.x : Rights := { rd := false, wr := false, ex := true }
def Rights.none : Rights := { rd := false, wr := false, ex := false }

/-- acc ⊆ rights of a page. -/
def Rights.within (r : Rights) (rd wr ex : Bool) : Bool := (!r.rd || rd) && (!r.wr || wr) && (!r.ex || ex)

/-- An entry of a buffer map (R196). -/
structure BmapEntry where
  plen : Nat
  pb : Nat
  pa : Nat
  val : Bool
  cur : Bool
  vbase : Nat
  deriving DecidableEq, Repr

/-- Physical address of entry m of an ASID's buffer map; none at or beyond its count (R196). -/
def State.bmapAddr? (s : State) (asid : BitVec 8) (m : Nat) : Option Nat :=
  let r := (s.reg (Reg.engBmap asid.toNat)).toNat
  if m < bitsOf r 10 0 then some (bitsOf r 51 15 * 2 ^ 15 + 32 * m) else none

/-- Entry m of an ASID's buffer map, where it is valid (R196, R197). -/
def State.bmapEntry? (s : State) (rd : Reader) (asid : BitVec 8) (m : Nat) : Option BmapEntry := do
  let a ← s.bmapAddr? asid m
  match rd a 32 with
  | .error _ => none
  | .ok bs =>
    let x := leNat bs
    if bitsOf x 63 63 = 1 then
      return { plen := bitsOf x 255 224, pb := bitsOf x 179 144, pa := bitsOf x 115 80, val := true,
               cur := bitsOf x 62 62 == 1, vbase := bitsOf x 54 16 }
    else none

/-- buffer_map(ea, e) for the visible or the hidden copy (R197, R198). -/
def State.bufferMap (s : State) (rd : Reader) (asid : BitVec 8) (m ea : Nat) (hidden : Bool) : Except TrapCode Nat :=
  match s.bmapEntry? rd asid m with
  | none => .error .memFault
  | some e =>
    let v := e.vbase * 65536
    if ea < v ∨ v + e.plen * 65536 ≤ ea then .error .memFault
    else .ok ((if e.cur != hidden then e.pb else e.pa) * 65536 + (ea - v))

/-- A leaf that a walk has reached (R147, R148). -/
structure Leaf where
  /-- Level-1 leaf: a 512 MiB page. -/
  large : Bool
  addr : Nat
  rd : Bool
  wr : Bool
  ex : Bool
  sys : Bool
  bmi : Bool
  deriving DecidableEq, Repr

/-- A reserved bit of a table entry is set (R147). -/
def tableReserved (e : Nat) : Bool := bitsOf e 63 52 != 0 || bitsOf e 15 9 != 0 || bitsOf e 2 2 != 0

/-- The address of the entry that a walk reads at a level (R146, R148). -/
def walkEntry (ea lvl t : Nat) : Nat := t + 8 * bitsOf ea (54 - 13 * lvl) (42 - 13 * lvl)

/-- The walk from level `lvl` on (R148): `left` levels remain. An entry that cannot be read is invalid. -/
def walkFrom (rd : Reader) (ea : Nat) : Nat → Nat → Nat → Except TrapCode Leaf
  | 0, _, _ => .error .memFault
  | left + 1, lvl, t =>
    match rd (walkEntry ea lvl t) 8 with
    | .error _ => .error .memFault
    | .ok bs =>
      let e := leNat bs
      let bit := fun i => bitsOf e i i == 1
      if !bit 0 || tableReserved e then .error .memFault
      else if bit 1 then
        if lvl = 0 then .error .memFault
        else if lvl = 1 ∧ bitsOf e 28 16 ≠ 0 then .error .memFault
        else .ok { large := lvl == 1, addr := bitsOf e 51 16, rd := bit 3, wr := bit 4, ex := bit 5,
                   sys := bit 6, bmi := bit 8 }
      else walkFrom rd ea left (lvl + 1) (bitsOf e 51 16 * 65536)

/-- The lines of the entries that a walk reads. -/
def walkPath (rd : Reader) (ea : Nat) : Nat → Nat → Nat → List Nat
  | 0, _, _ => []
  | left + 1, lvl, t =>
    let a := walkEntry ea lvl t
    match rd a 8 with
    | .error _ => [a / 128]
    | .ok bs =>
      let e := leNat bs
      if bitsOf e 0 0 = 0 || tableReserved e || bitsOf e 1 1 == 1 then [a / 128]
      else a / 128 :: walkPath rd ea left (lvl + 1) (bitsOf e 51 16 * 65536)

/-- The walk of a virtual address in an ASID. -/
def State.walkWith (s : State) (rd : Reader) (asid : BitVec 8) (ea : Nat) : Except TrapCode Leaf :=
  let root := s.reg (Reg.trRoot asid.toNat)
  if root.getLsbD 0 then walkFrom rd ea 3 0 (bitsOf root.toNat 51 16 * 65536) else .error .memFault

/-- The walk of a unit. -/
def State.walk (s : State) (asid : BitVec 8) (ea : Nat) : Except TrapCode Leaf := s.walkWith s.homeBytes asid ea

/-- The walk of a core's walker. -/
def State.coreWalk (s : State) (c : Fin 256) (asid : BitVec 8) (ea : Nat) : Except TrapCode Leaf := s.walkWith (s.coreBytes c) asid ea

/-- The lines that a walk reads. -/
def State.walkLines (s : State) (rd : Reader) (asid : BitVec 8) (ea : Nat) : List Nat :=
  let root := s.reg (Reg.trRoot asid.toNat)
  if root.getLsbD 0 then walkPath rd ea 3 0 (bitsOf root.toNat 51 16 * 65536) else []

/-- The translation of one 64 KiB page that a leaf gives. -/
def Leaf.entry (l : Leaf) (asid : BitVec 8) (page : Nat) : TlbEntry :=
  { asid := asid, page := page, frame := if l.large then l.addr + page % 8192 else l.addr,
    rd := l.rd, wr := l.wr, ex := l.ex, sys := l.sys, bmi := l.bmi, large := l.large }

/-- The leaf names a buffer-map entry as R197 lays it out: at level 2, with addr[51:26] = 0. -/
def TlbEntry.names (e : TlbEntry) : Bool := !e.large && decide (e.frame < 1024)

/-- The physical address that a translation gives, through the buffer map where its bit bmi says so (R148, R197). -/
def State.resolve (s : State) (rd : Reader) (asid : BitVec 8) (e : TlbEntry) (ea : Nat) (hidden : Bool) : Except TrapCode Nat :=
  if e.bmi then if e.names then s.bufferMap rd asid e.frame ea hidden else .error .memFault
  else if hidden then .error .memFault
  else .ok (e.frame * 65536 + ea % 65536)

/-- The cluster of a core (R22). -/
def clusterOf (c : Fin 256) : Nat := c.val / 4

/-- The TLB of a cluster. -/
def State.clusterTlb (s : State) (g : Nat) : List TlbEntry := SMap.get [] s.clusterTlbs g

/-- The translation that a TLB of the core or of its cluster holds (R149). -/
def State.tlb? (s : State) (c : Fin 256) (asid : BitVec 8) (page : Nat) : Option TlbEntry :=
  let hit := fun (e : TlbEntry) => e.asid == asid && e.page == page
  match (s.core c).tlb.find? hit with
  | some e => some e
  | none => (s.clusterTlb (clusterOf c)).find? hit

/-- The translation of a page, from a TLB or a walk. [DESIGN CHOICE, log 30, unsafe] -/
def State.pageOf (s : State) (c : Fin 256) (asid : BitVec 8) (page : Nat) : Except TrapCode TlbEntry :=
  match s.tlb? c asid page with
  | some e => .ok e
  | none => do return (← s.coreWalk c asid (page * 65536)).entry asid page

/-- translate(ea, acc) (R148); `user` is a wave of a launched kernel outside system contexts, `hidden` chooses the
copy that is not visible, for which every page must be a bmi page (R198). -/
def State.translateAs (s : State) (c : Fin 256) (asid : BitVec 8) (user hidden : Bool) (ea : Nat) (acc : Rights) :
    Except TrapCode Nat :=
  if 2 ^ 55 ≤ ea then .error .memFault
  else
    match s.pageOf c asid (ea / 65536) with
    | .error e => .error e
    | .ok e =>
      if !acc.within e.rd e.wr e.ex || (e.sys && user) then .error .memProt
      else s.resolve (s.coreBytes c) asid e ea hidden

/-- translate for a wave. Waves of launched kernels are user waves unless their context is a system context; the
producer slot's are not waves of a launched kernel (R148). -/
def State.translate (s : State) (w : Wave) (ea : Nat) (acc : Rights) : Except TrapCode Nat :=
  s.translateAs w.core w.asid (w.kind = .launched ∧ !w.system) false ea acc

end Sys2Proof.Machine
end

