-- ==== Sys2Proof/Machine/L1.lean ====
section
/-! DEFINITION. The L1 data cache of a core (R140 to R145), lent scratchpad capacity (R159), messages to the homes
(R116), releases and acquires (R144, R145, R171). -/

namespace Sys2Proof.Machine

/-! ## Messages -/

/-- A message leaves a core for a home slice. -/
def State.post (s : State) (req : Requester) (home : Fin 128) (op : HomeOp) : Nat × State :=
  let (id, s) := s.fresh
  (id, { s with messages := s.messages ++ [{ id := id, home := home, req := req, op := op }] })

/-- A message, by name. -/
def State.message? (s : State) (id : Nat) : Option Message := s.messages.find? fun m => m.id == id

/-- The message removed. -/
def State.dropMessage (s : State) (id : Nat) : State :=
  { s with messages := s.messages.filter fun m => m.id != id }

/-- Messages of one core to one slice arrive in the order sent (R116): it is the first of them. -/
def State.isFirst (s : State) (m : Message) : Bool :=
  match s.messages.find? fun x => x.req.core == m.req.core && x.home == m.home with
  | some x => x.id == m.id
  | none => false

/-- What the names of a dependence list stand for has been performed. -/
def State.performed (s : State) (id : Nat) : Bool :=
  !(s.messages.any (·.id == id)) && !(s.releases.any (·.id == id)) && !(s.publishes.any (·.id == id))
    && (List.finRange 128).all (fun h =>
      let x := s.home h
      !(x.combQ.any (·.msg == id)) && !(match x.batch with | some b => b.reqs.any (·.msg == id) | none => false))
    && (List.finRange 256).all (fun c => !((s.core c).arrayQ.any (·.id == id)))

/-- The partition of an ASID (R417). -/
def State.partOf (s : State) (a : BitVec 8) : Fin 32 := Fin.ofNat 32 (s.regBits (Reg.schCtx a.toNat) 60 56)

/-! ## Sectors and lines -/

/-- All 32 bytes are held. -/
def Sector.full (x : Sector) : Bool := x.st == .c || x.st == .df
/-- After a write-back (R143). -/
def Sector.written (x : Sector) : Sector :=
  if x.st = .df then { x with st := .c, mask := 0, stamp := none } else Sector.empty
/-- After an acquire (R145). -/
def Sector.acquired (x : Sector) : Sector :=
  match x.st with
  | .c => Sector.empty
  | .df => { x with st := .d }
  | _ => x
/-- A byte written (R142, R143). Clean bytes that another version wrote are no part of what this writer sees. -/
def Sector.store (x : Sector) (i : Nat) (b : Byte) (stamp : Option RaceTag) (q : Requester) : Sector :=
  let x := if x.ver.isSome && x.ver != q.ver then Sector.empty else x
  { st := if x.full then .df else .d, bytes := x.bytes.setIfInBounds i b,
    mask := (if x.dirty then x.mask else 0) ||| BitVec.ofNat 32 (2 ^ i), stamp := stamp, asid := q.asid, ver := q.ver,
    writer := q.wave }
/-- A load under this version may be served from the sector: it holds no bytes of another version (R142). -/
def Sector.visible (x : Sector) (ver : Option Nat) : Bool := x.ver.isNone || x.ver == ver
/-- The sector after a commit: what the version wrote stands at the homes (R186). -/
def Sector.committed (x : Sector) (sectors : List Nat) (sec ver : Nat) : Sector :=
  if x.ver = some ver then Sector.empty else if sectors.contains sec then x.acquired else x
/-- A fill merged under the mask (R142). -/
def Sector.fill (x : Sector) (data : Vector Byte 32) : Sector :=
  let merged : Vector Byte 32 := Vector.ofFn fun i => if x.mask.getLsbD i.val then byteAt x.bytes i.val else byteAt data i.val
  { x with st := if x.dirty then .df else .c, bytes := merged }

def L1Line.valid (l : L1Line) : Bool := l.sectors.toList.any fun x => x.st != .i
def L1Line.hasDirty (l : L1Line) : Bool := l.sectors.toList.any Sector.dirty

/-- Lines with no valid sector dropped: a line is valid while any of its sectors is (R140). -/
def Core.purge (c : Core) : Core := { c with l1 := c.l1.filter L1Line.valid, lent := c.lent.filter L1Line.valid }

/-- Every sector of the L1 and of its lent capacity changed. -/
def Core.mapSectors (c : Core) (f : Nat → Sector → Sector) : Core :=
  let g := fun (l : L1Line) => { l with sectors := l.sectors.mapIdx fun i x => f (4 * l.line + i) x }
  Core.purge { c with l1 := c.l1.map g, lent := c.lent.map g }

/-- One sector of a present line replaced. -/
def Core.setSector (c : Core) (sec : Nat) (x : Sector) : Core :=
  let g := fun (l : L1Line) =>
    if l.line = sec / 4 then { l with sectors := l.sectors.setIfInBounds (sec % 4) x } else l
  { c with l1 := c.l1.map g, lent := c.lent.map g }

/-- A line dropped. -/
def Core.dropL1 (c : Core) (line : Nat) : Core :=
  { c with l1 := c.l1.filter (fun x => x.line != line), lent := c.lent.filter (fun x => x.line != line) }

/-- The line moved to the recently used end. -/
def Core.touchL1 (c : Core) (line : Nat) : Core :=
  let up := fun (ls : List L1Line) => ls.filter (fun x => x.line == line) ++ ls.filter (fun x => x.line != line)
  { c with l1 := up c.l1, lent := up c.lent }

/-! ## Write-back and eviction -/

/-- A dirty sector sent home with its recorded values (R143). -/
def State.writebackSector (s : State) (c : Fin 256) (sec : Nat) : State :=
  let x := (s.core c).sector sec
  if x.dirty then
    let req : Requester := { wave := x.writer, core := c, asid := x.asid, part := s.partOf x.asid,
                             stamp := x.stamp.getD RaceTag.none, ver := x.ver }
    let s := (s.post req (homeOf (32 * sec)) (.sector (32 * sec) x.bytes x.mask x.stamp)).2
    s.modCore c fun k => k.setSector sec x.written
  else s

/-- The dirty sectors of a line sent home, in ascending order. -/
def State.writebackL1 (s : State) (c : Fin 256) (line : Nat) : State :=
  ([0, 1, 2, 3].foldl (fun s i => s.writebackSector c (4 * line + i)) s).modCore c Core.purge

/-- The line written back and dropped (R141, R156). -/
def State.evictL1 (s : State) (c : Fin 256) (line : Nat) : State :=
  (s.writebackL1 c line).modCore c fun k => k.dropL1 line

/-- Lines of lent scratchpad units: 192 for each unit of 24 KiB that no resident workgroup overlaps (R159). [DESIGN CHOICE, log 32, safe] -/
def State.lentCap (s : State) (c : Fin 256) : Nat :=
  let used := fun (u : Nat) => s.gangs.any fun g => g.resident && g.wgs.any fun x =>
    x.core == c && decide (0 < x.size ∧ x.base < (u + 1) * 24576 ∧ u * 24576 < x.base + x.size)
  192 * ((List.range 32).filter fun u => !used u).length

/-- Lent lines beyond the capacity written back and dropped, the least recently used first (R159). [DESIGN CHOICE, log 32, safe] -/
def State.trimLent (s : State) (c : Fin 256) : State :=
  ((s.core c).lent.drop (s.lentCap c)).foldl (fun s l => s.evictL1 c l.line) s

/-- Room for a line in its set: the least recently used of 16 moves to the lent capacity (R140, R159). -/
def State.makeRoom (s : State) (c : Fin 256) (line : Nat) : State :=
  let peers := (s.core c).l1.filter fun x => x.line % 128 == line % 128
  if peers.length < 16 then s
  else
    match peers.getLast? with
    | none => s
    | some v =>
      (s.modCore c fun k =>
        { k with l1 := k.l1.filter (fun x => x.line != v.line), lent := v :: k.lent }).trimLent c

/-- The line present, most recently used. -/
def State.allocL1 (s : State) (c : Fin 256) (line : Nat) : State :=
  if ((s.core c).l1At? line).isSome then s.modCore c fun k => k.touchL1 line
  else (s.makeRoom c line).modCore c fun k =>
    { k with l1 := { line := line, sectors := Vector.replicate 4 Sector.empty } :: k.l1 }

/-! ## Stores and fills -/

/-- The line of an entry of the dirty FIFO. -/
def FifoEntry.line? : FifoEntry → Option Nat
  | .line n => some n
  | .marker _ => none

/-- A marker whose write-backs have been acknowledged leaves the FIFO (R144). -/
def State.liveFifo (s : State) (c : Fin 256) : List FifoEntry :=
  (s.core c).fifo.filter fun e => match e with
    | .line _ => true
    | .marker ids => !ids.all s.performed

/-- The dirty FIFO gains an entry; a full FIFO first writes back its oldest line (R144). -/
def State.appendEntry (s : State) (c : Fin 256) (e : FifoEntry) : State :=
  let live := s.liveFifo c
  let oldest := if live.length < 512 then none else live.findSome? FifoEntry.line?
  let s := match oldest with
    | some n => s.writebackL1 c n
    | none => s
  let kept := match oldest with
    | some n => live.erase (.line n)
    | none => live
  s.modCore c fun k => { k with fifo := kept ++ [e] }

/-- The dirty FIFO gains a line. -/
def State.appendFifo (s : State) (c : Fin 256) (line : Nat) : State := s.appendEntry c (.line line)

/-- Lines of the dirty FIFO. -/
def Core.fifoLines (c : Core) : List Nat := c.fifo.filterMap FifoEntry.line?

/-- One byte stored in the L1 (R142, R143, R144). -/
def State.storeByte (s : State) (q : Requester) (stamp : Option RaceTag) (pa : Nat) (b : Byte) : State :=
  let c := q.core
  let sec := pa / 32
  let x := (s.core c).sector sec
  let s := if x.dirty && (x.stamp != stamp || x.asid != q.asid || x.ver != q.ver) then s.writebackSector c sec else s
  let clean := match (s.core c).l1At? (pa / 128) with | some l => !l.hasDirty | none => true
  let s := if clean then s.appendFifo c (pa / 128) else s
  let s := s.allocL1 c (pa / 128)
  s.modCore c fun k => k.setSector sec ((k.sector sec).store (pa % 32) b stamp q)

/-- Bytes stored in the L1. -/
def State.storeBytes (s : State) (q : Requester) (stamp : Option RaceTag) (pa : Nat) (bs : List Byte) : State :=
  (bs.zipIdx pa).foldl (fun s (b, a) => s.storeByte q stamp a b) s

/-- Dirty bytes of the sector are on their way to the home: a fill that was asked for before them lacks them. -/
def State.sectorComing (s : State) (c : Fin 256) (sec : Nat) : Bool :=
  s.messages.any fun m => m.req.core == c && (match m.op with | .sector pa _ _ _ => pa / 32 == sec | _ => false)

/-- The sector that a fill leaves, none where the fill enters nothing (R142): a sector of bytes that another version has
written keeps them, and a full one has no use for it. -/
def Sector.filled (x : Sector) (data : Vector Byte 32) (q : Requester) : Option Sector :=
  match x.st with
  | .i | .c => some ({ Sector.empty with asid := q.asid }.fill data)
  | .d => if x.visible q.ver then some (x.fill data) else none
  | .df => none

/-- A sector filled (R142); a fill that later bytes of the same core have passed is not entered. -/
def State.fillSector (s : State) (q : Requester) (sec : Nat) (data : Vector Byte 32) : State :=
  let c := q.core
  if s.sectorComing c sec then s
  else
    match ((s.core c).sector sec).filled data q with
    | none => s
    | some x => (s.allocL1 c (sec / 4)).modCore c fun k => k.setSector sec x

/-- A direct access first writes back and invalidates the core's copy of its line (R141). -/
def State.beforeDirect (s : State) (c : Fin 256) (pa : Nat) : State := s.evictL1 c (pa / 128)

/-- The clean bytes of a line dropped, its dirty bytes kept. -/
def Core.unclean (c : Core) (line : Nat) : Core :=
  c.mapSectors fun sec x => if sec / 4 = line then x.acquired else x

/-- An acquire drops every clean copy (R145). -/
def State.acquireL1 (s : State) (c : Fin 256) : State := s.modCore c fun k => k.mapSectors fun _ x => x.acquired

/-- An acquire at a scope: nothing at wg scope (R145). -/
def State.acquire (s : State) (c : Fin 256) (scope : Scope) : State :=
  if scope = .wg then s else s.acquireL1 c

/-! ## Direct accesses of a core's units (R141) -/

/-- Dirty bytes of the line are on their way from the core to their home. -/
def State.lineComing (s : State) (c : Fin 256) (line : Nat) : Bool :=
  s.messages.any fun m => m.req.core == c && (match m.op with | .sector pa _ _ _ => pa / 128 == line | _ => false)

/-- The core holds dirty bytes of the line. -/
def Core.dirtyLine (c : Core) (line : Nat) : Bool := match c.l1At? line with | some l => l.hasDirty | none => false

/-- The core's copies of lines written back and dropped, before a direct access to them (R141). -/
def State.dropCopies (s : State) (c : Fin 256) (lines : List Nat) : State := lines.foldl (fun s l => s.evictL1 c l) s

/-- The step of a unit of the core that reads or writes these lines at their homes: the core's copies go first, the homes then
hold the core's bytes, and they serve the lines (R133, R141). [DESIGN CHOICE, log 37, safe; DESIGN CHOICE, log 56, safe] -/
def State.atHomes (s : State) (c : Fin 256) (lines : List Nat) (asid : BitVec 8) (go : State → Result) : Result :=
  if lines.any (s.core c).dirtyLine then .next (s.dropCopies c lines)
  else if lines.any (s.lineComing c) || !s.servesAll lines then notEnabled
  else go ((s.dropCopies c lines).readLines lines asid 0)

/-! ## Releases -/

/-- Write-backs of the core not yet acknowledged. -/
def State.writebacksOf (s : State) (c : Fin 256) : List Nat :=
  (s.messages.filter fun m => m.req.core == c && (match m.op with | .sector .. => true | _ => false)).map (·.id)

/-- The dirty FIFO drained behind a release, whose marker stands in it until the write-backs that are out are acknowledged
(R144). -/
def State.drainFifo (s : State) (c : Fin 256) : State :=
  let s := (s.core c).fifoLines.foldl (fun s line => s.writebackL1 c line) s
  let ids := s.writebacksOf c
  let marks := (s.liveFifo c).filter fun e => e.line?.isNone
  let s := s.modCore c fun k => { k with fifo := marks }
  if ids.isEmpty || marks.any fun e => (match e with | .marker l => ids.all l.contains | .line _ => false) then s
  else s.appendEntry c (.marker ids)

/-- A later release waits for it (R171): loads and prefetches order nothing, and operations on the network have their own
rule (R408). -/
def ReleaseAct.released : ReleaseAct → Bool
  | .load .. | .lds .. | .prefetch .. | .net .. => false
  | _ => true

/-- The wave's accesses that go to the home directly, and its releases, not yet performed (R171). -/
def State.directOf (s : State) (w : Nat) : List Nat :=
  (s.messages.filter fun m => m.req.wave == w && (match m.op with | .fill .. | .sector .. => false | _ => true)).map (·.id)
    ++ (s.releases.filter fun r => r.req.wave == w && r.act.released).map (·.id)
    ++ ((List.finRange 128).flatMap fun h =>
      let x := s.home h
      let mine := fun (q : CombReq) => if q.req.wave = w then [q.msg] else []
      x.combQ.flatMap mine ++ (match x.batch with | some b => b.reqs.flatMap mine | none => []))
    ++ ((List.finRange 256).flatMap fun c => ((s.core c).arrayQ.filter fun e => e.req.wave == w &&
      (match e.op with | .acccvt .. => true | _ => false)).map (·.id))

/-- What a release at a scope waits for, after the drain it starts (R144, R171). At pod scope it also waits for the
wave's network operations (R408). -/
def State.releaseDeps (s : State) (w : Wave) (scope : Scope) : List Nat × List Nat × State :=
  let s := if scope = .wg then s else s.drainFifo w.core
  let deps := s.directOf w.id ++ (if scope = .wg then [] else s.writebacksOf w.core)
  let net := if scope = .pod then (s.fabric.ops.filter fun o => o.wave == w.id && o.infl.isNone && o.cmd.isNone).map (·.id)
    else []
  (deps, net, s)

/-- Network operations that have been acknowledged leave `ops`. -/
def State.netDone (s : State) (ids : List Nat) : Bool := ids.all fun i => !(s.fabric.ops.any fun o => o.id == i)

/-- An access joins its core's memory queue, or a release waits to complete; the list stands in the order of issue. -/
def State.enqueue (s : State) (req : Requester) (waits : Waits) (act : ReleaseAct) : Nat × State :=
  let (id, s) := s.fresh
  (id, { s with releases := s.releases ++ [{ id := id, req := req, waits := waits, act := act }] })

/-- The release stands in `releases` and completes there (R144). -/
def State.startRelease (s : State) (w : Wave) (req : Requester) (scope : Scope) (act : ReleaseAct) : Nat × State :=
  let (deps, net, s) := s.releaseDeps w scope
  s.enqueue req { Waits.none with deps := deps, netOps := net } act

/-- A release at a scope has nothing to wait for. -/
def State.releaseReady (s : State) (w : Wave) (scope : Scope) : Bool :=
  let (deps, net, s') := s.releaseDeps w scope
  deps.all s'.performed && s'.netDone net

end Sys2Proof.Machine
end

