-- ==== Sys2Proof/Machine/Batch.lean ====
section
/-! DEFINITION. Deferred results as they arrive (R51, R54), reports (R137, R178), and how a combiner batch ends:
commit and abort (R135 to R137). -/

namespace Sys2Proof.Machine

/-! ## Deferred results -/

/-- One outstanding deferred result changed. -/
def Wave.modInflight (w : Wave) (id : Nat) (f : Inflight → Inflight) : Wave :=
  { w with inflight := w.inflight.map fun x => if x.id = id then f x else x }
def State.modInflight (s : State) (wave id : Nat) (f : Inflight → Inflight) : State :=
  s.modWave wave fun w => w.modInflight id f

/-- The value of one lane set: the low word in the first destination, the high word in the second. -/
def Inflight.put (x : Inflight) (i : Fin 32) (v : DWord) : Inflight :=
  { x with vals := x.vals.mapIdx fun k l => l.set i (if k = 0 then lo32 v else hi32 v) }

/-- A lane's reply has come. -/
def Inflight.arrive (x : Inflight) (i : Fin 32) (v : DWord) : Inflight :=
  { x.put i v with due := x.due &&& ~~~(1#32 <<< i.val) }

/-- A lane leaves the set that will be written; the one result of a uniform instruction fails whole. -/
def Inflight.dropLane (x : Inflight) (i : Fin 32) : Inflight :=
  { x with mask := if x.uniform then 0 else x.mask &&& ~~~(1#32 <<< i.val), due := x.due &&& ~~~(1#32 <<< i.val) }

/-- Lanes fail with a code: lanes of one code are one failure, whose address is that of its lowest lane (R324). -/
def Inflight.fail (x : Inflight) (i : Fin 32) (info : TrapInfo) : Inflight :=
  let bit : Mask := if x.uniform then x.mask ||| info.mask else 1#32 <<< i.val
  let low := fun (f : LoadFail) => decide (((lowLane f.info.mask).map (·.val)).getD 32 ≤ i.val)
  let x := x.dropLane i
  if x.failed.any fun f => f.info.code == info.code then
    { x with failed := x.failed.map fun f =>
        if f.info.code = info.code then
          if low f then { info := { f.info with mask := f.info.mask ||| bit } }
          else { info := { info with mask := f.info.mask ||| bit } }
        else f }
  else { x with failed := x.failed ++ [{ info := { info with mask := bit } }] }

/-- Every value has arrived or failed. -/
def Inflight.arrived (x : Inflight) : Bool := x.waiting.isEmpty && x.due == 0

/-! ## Reports -/

/-- A report waits for delivery at the wave (R329). [DESIGN CHOICE, log 54, safe] -/
def State.report (s : State) (wave : Nat) (info : TrapInfo) : State :=
  s.modWave wave fun w => { w with reports := w.reports ++ [info] }

/-- A race found at a write-back is reported to the writing workgroup (R178). -/
def State.reportRace (s : State) (stamp : RaceTag) (info : TrapInfo) : State :=
  { s with gangs := s.gangs.map fun g =>
      if g.launch.val = stamp.slot.toNat then
        { g with wgs := g.wgs.map fun x =>
            if x.lin % 2 ^ 23 = stamp.wg.toNat then { x with races := x.races ++ [info] } else x }
      else g }

/-! ## The end of a batch -/

/-- A trap has been taken and its deferred results are being drained (R321). -/
def Wave.draining (w : Wave) : Bool := w.paths.any fun p =>
  match p.status with | .blocked (.drain ..) => true | _ => false

/-- A COMB whose requests are all complete: aborted lanes make one COMB_FAULT (R137, R324), or an entry of the
faulted-load list where a trap is draining (R321). -/
def State.combFinish (s : State) (w : Wave) (o : CombOp) (infl : Option Nat) : State :=
  let s := s.modWave w.id fun x => { x with combOps := x.combOps.filter fun y => y.id != o.id }
  let mask := maskOf fun i => o.aborted.any fun a => a.1 == i
  let low := o.aborted.foldl (fun (b : Option (Fin 32 × Nat × Nat × Nat)) a => match b with
    | none => some a
    | some x => if a.1 < x.1 then some a else some x) none
  match low with
  | none => s
  | some (_, st, code, va) =>
    let info : TrapInfo :=
      { code := .combFault, kind := BitVec.ofNat 8 st, mask := mask, info := BitVec.ofNat 32 code,
        addr := BitVec.ofNat 64 va, aux := BitVec.ofNat 64 o.pc }
    match w.draining, infl with
    | true, some d => s.modInflight w.id d fun x => o.aborted.foldl (fun x a => x.fail a.1 info) x
    | _, _ => s.report w.id info

/-- One request of a COMB is complete. A COMB of a deterministic launch reports once its own turn of step 4 has come
(R314). -/
def State.combDone (s : State) (r : CombReq) (aborted : Option (Nat × Nat)) : State :=
  match s.wave? r.req.wave with
  | none => s
  | some w =>
    match w.combOps.find? fun o => o.id == r.op with
    | none => s
    | some o =>
      let o := { o with left := o.left - 1, aborted := match aborted with
        | some (st, code) => o.aborted ++ [(r.lane, st, code, r.objVa)]
        | none => o.aborted }
      if o.left = 0 ∧ o.granted then s.combFinish w o r.infl
      else s.modWave w.id fun x => { x with combOps := x.combOps.map fun y => if y.id = o.id then o else y }

/-- The turn of a deterministic COMB has come (R314). -/
def State.combGrant (s : State) (w op : Nat) : State :=
  match s.wave? w with
  | none => s
  | some x =>
    match x.combOps.find? fun o => o.id == op with
    | none => s
    | some o =>
      if o.left = 0 then s.combFinish x o none
      else s.modWave w fun x =>
        { x with combOps := x.combOps.map fun y => if y.id = op then { y with granted := true } else y }

/-- A request aborts: no reply is written (R136). -/
def State.combAbort (s : State) (status code : Nat) (r : CombReq) : State :=
  let s := match r.infl with
    | some d => s.modInflight r.req.wave d fun x => x.dropLane r.lane
    | none => s
  s.combDone r (some (status, code))

/-- The batch of a slice aborts: staging copy discarded, object unchanged (R136). [DESIGN CHOICE, log 54, safe] -/
def State.abortBatch (s : State) (h : Fin 128) (status code : Nat) : State :=
  match (s.home h).batch with
  | none => s
  | some b =>
    let s := (s.modHome h fun x => { x with batch := none })
    let s := { s with waves := s.waves.filter fun w => w.id != b.wave }
    b.reqs.foldl (fun s r => s.combAbort status code r) s

/-- The reply of a lane, 0 where it executed no CMBREPLY (R135). -/
def Batch.reply (b : Batch) (k : Nat) : DWord := ((b.replies.find? fun r => r.1 == k).map (·.2)).getD 0

/-- A batch commits: the staged lines replace the object's in one step, replies are scattered, and each request
counts as order-sensitive, on the base line (R120, R135). A line that has become unreadable discards its part. [DESIGN CHOICE, log 137, unsafe] -/
def State.commitBatch (s : State) (h : Fin 128) : State :=
  match (s.home h).batch with
  | none => s
  | some b =>
    let s := (s.modHome h fun x => { x with batch := none })
    let s := { s with waves := s.waves.filter fun w => w.id != b.wave }
    let asid := match b.reqs with | r :: _ => r.req.asid | [] => 0
    let s := s.unitWrite b.obj (b.staged.readN 0 (128 * b.nlines)) asid
    (b.reqs.zipIdx).foldl (fun s (r, k) =>
      let s := match r.infl with
        | some d => s.modInflight r.req.wave d fun x => x.arrive r.lane (b.reply k)
        | none => s
      (s.countDependence (b.obj / 128) r.req.stamp).combDone r none) s

end Sys2Proof.Machine
end

