-- ==== Sys2Proof/Machine/Tasks.lean ====
section
/-! DEFINITION. The task table (R368 to R371), versions (R326, R186), cancellation (R377). -/

namespace Sys2Proof.Machine

/-- Entries of the table (R368). -/
def taskCount : Nat := 262144

def State.task (s : State) (x : Nat) : TaskEntry := SMap.get TaskEntry.empty s.tasks x
def State.setTask (s : State) (x : Nat) (e : TaskEntry) : State :=
  { s with tasks := SMap.set TaskEntry.empty s.tasks x e }

/-- An entry becomes free (R370). -/
def State.freeTask (s : State) (x : Nat) : State :=
  { s.setTask x TaskEntry.empty with readyOrder := s.readyOrder.filter (· != x) }

/-- An entry becomes ready, at the end of the ready order (R371). -/
def State.readyTask (s : State) (x : Nat) : State :=
  { s.setTask x { s.task x with state := .ready, ver := 0, cp := false } with readyOrder := s.readyOrder ++ [x] }

/-! ## Versions -/

def State.version? (s : State) (p : Fin 32) (v : Nat) : Option Version :=
  s.versions.find? fun x => x.part == p && x.ver == v
def State.modVersion (s : State) (p : Fin 32) (v : Nat) (f : Version → Version) : State :=
  { s with versions := s.versions.map fun x => if x.part = p ∧ x.ver = v then f x else x }
/-- A request comes from a task under the version (R326). -/
def Requester.under (q : Requester) (p : Fin 32) (v : Nat) : Bool := q.part == p && q.ver == some v

/-- An access that is given up with its version: one that waits in the queue, and loads (R325). -/
def ReleaseAct.versioned : ReleaseAct → Bool
  | .store .. | .load .. | .plain .. | .reads .. | .prefetch .. | .clean .. => true
  | _ => false

/-- A version discarded, its id freed (R325, R326): what its core's L1 holds of it is dropped without a write-back, what is
on its way to the homes comes to nothing, and no access that waits in the queue is performed (R143). -/
def State.dropVersion (s : State) (p : Fin 32) (v : Nat) : State :=
  { s with
    versions := s.versions.filter fun x => !(x.part == p && x.ver == v)
    cores := s.cores.map fun k =>
      if (k.l1 ++ k.lent).any fun l => l.sectors.toList.any fun x => x.ver == some v && s.partOf x.asid == p then
        k.mapSectors fun _ x => if x.ver = some v ∧ s.partOf x.asid = p then Sector.empty else x
      else k
    messages := s.messages.filter fun m => !(m.req.under p v && (match m.op with | .sector .. | .write .. | .fill .. | .read .. => true | _ => false))
    releases := s.releases.filter fun r => !(r.req.under p v && r.act.versioned) }
/-- Requests that came from under a version that has been committed are the wave's own from now on. -/
def State.unversion (s : State) (p : Fin 32) (v : Nat) : State :=
  let own := fun (q : Requester) => if q.under p v then { q with ver := none } else q
  { s with messages := s.messages.map fun m => { m with req := own m.req }
           releases := s.releases.map fun r => { r with req := own r.req } }

/-- The lowest free version id of a partition's 4,096 (R326, R371). -/
def State.freeVersion? (s : State) (p : Fin 32) : Option Nat :=
  (List.range 4096).find? fun v => (s.version? p v).isNone

/-- A byte the version holds. -/
def Version.byte? (v : Version) (pa : Nat) : Option Byte := if v.written.contains pa then some (v.bytes.read pa) else none
/-- Bytes written into a version. -/
def Version.write (v : Version) (stamp : Option RaceTag) (pa : Nat) (bs : List Byte) : Version :=
  let as := (List.range bs.length).map (pa + ·)
  { v with bytes := v.bytes.writeN pa bs, written := v.written ++ as.filter fun a => !v.written.contains a,
           stamps := match stamp with
             | some t => as.foldl (fun m a => SMap.insert m (a / 32) t) v.stamps
             | none => v.stamps }
/-- The sectors that a version holds at the homes. -/
def Version.sectors (v : Version) : List Nat := (v.written.map (· / 32)).eraseDups
/-- The lines that a version holds at the homes. -/
def Version.lines (v : Version) : List Nat := (v.written.map (· / 128)).eraseDups

/-- Sectors that a version gains with a write of these (R327). -/
def Version.gains (v : Version) (secs : List Nat) : List Nat := secs.eraseDups.filter fun x => !v.claimed.contains x

/-- Lines of one set of a slice that hold, or will hold, version data (R118). -/
def State.versionWays (s : State) (line : Nat) : Nat :=
  ((s.versions.flatMap fun v => v.claimed.map (· / 4)).eraseDups.filter fun l =>
    homeOf (l * 128) == homeOf (line * 128) && l2Set l == l2Set line).length

/-- A write of these sectors would take the version past its quota, or need a 13th way of a set (R118, R327). Sectors count
from the store on, in an L1 or at the homes. [DEDUCED, log 122, unsafe; DEDUCED, log 136, unsafe] -/
def State.outgrows (s : State) (v : Version) (secs : List Nat) : Bool :=
  let new := v.gains secs
  let lines := (new.map (· / 4)).eraseDups.filter fun l => !(s.versions.any fun x => x.claimed.any fun k => k / 4 == l)
  decide (v.claimed.length + new.length > 32768)
    || lines.any fun l => decide (s.versionWays l + (lines.filter fun x => homeOf (x * 128) == homeOf (l * 128) && l2Set x == l2Set l).length > 12)

/-- The sectors become the version's. -/
def State.claim (s : State) (v : Version) (secs : List Nat) : State :=
  s.modVersion v.part v.ver fun x => { x with claimed := x.claimed ++ x.gains secs }

/-- The version the wave writes into (R186). -/
def State.versionOf? (s : State) (w : Wave) : Option Version := w.ver?.bind (s.version? w.part)

/-- The race check and the tag of one sector of a commit (R119, R143, R176, R178). -/
def State.tagSector (s : State) (sec : Nat) (stamp : RaceTag) : State :=
  match s.l2Line? (sec / 4) with
  | none => s
  | some l =>
    let t := l.tags[sec % 4]?.getD RaceTag.none
    let s := if s.races t stamp then
        ((s.reportRace stamp (raceInfo 2 t (32 * sec))).count (.home (homeOf (32 * sec))) 0x25 1)
      else s
    s.modHome (homeOf (32 * sec)) fun h => { h with lines := h.lines.map fun x =>
      if x.line = sec / 4 then { x with tags := x.tags.setIfInBounds (sec % 4) { stamp with quiet := false } } else x }

/-- The bytes that a version holds of a line, by offset. -/
def Version.lineBytes (v : Version) (line : Nat) : List (Nat × Byte) :=
  (v.written.filter fun a => a / 128 == line).map fun a => (a % 128, v.bytes.read a)

/-- One line of a version performed at its home; discarded and logged once where its page is UNBACKED (R97). -/
def State.commitLine (s : State) (v : Version) (asid : BitVec 8) (master : DWord) (line : Nat) : State :=
  let put := fun (d : Vector Byte 128) => (v.lineBytes line).foldl (fun d (i, b) => d.setIfInBounds i b) d
  match s.ensureL2 line asid master with
  | .ok (l, s) =>
    let dirty := (v.lineBytes line).foldl (fun x (i, _) => x ||| sectorBits i 1) l.dirty
    (s.touchL2 { l with data := put l.data, dirty := dirty }).fireWatches line
  | .error (.line .absent) => if inLineSpace (line * 128) then s.logError (mcOf (line * 128)) 2 (lineIndex (line * 128)) else s
  | .error (.line .lost) => s
  | .error .wait =>
    match s.controllerLine line with
    | .ok d =>
      let w : LineWrite := { line := line, data := put d, master := master, held := false }
      { s with lineWrites := s.lineWrites ++ [w] }.fireWatches line
    | .error _ => s

/-- A version performed at the homes: its bytes line by line with the tags of their sectors, then its held atomics (R119,
R129, R186, R376). The committing core's copies of these lines, and what it holds under the version, are dropped or turn into
what the homes return. -/
def State.commitBytes (s : State) (v : Version) (core : Fin 256) (asid : BitVec 8) (master : DWord) : State :=
  let s := s.modCore core fun k => k.mapSectors fun sec x => x.committed v.sectors sec v.ver
  let s := v.lines.foldl (fun s l => s.commitLine v asid master l) s
  let s := v.stamps.foldl (fun s (sec, t) => s.tagSector sec t) s
  v.atomics.foldl (fun s (q, r) =>
    match (s.evictL1 core (r.pa / 128)).atomicAt q q.stamp r master with
    | .ok (_, s') => s'
    | .error _ => s) s

/-- Every line of a version can be written now: none belongs to a running batch (R133), and each has a way (R118). A held
atomic's line has no dirty bytes of the core behind it (R141). -/
def State.commitReady (s : State) (v : Version) : Bool :=
  s.servesAll v.lines && v.atomics.all (fun a => s.serves (a.2.pa / 128) && !s.logBusy a.1.asid)

/-! ## Cancellation -/

/-- One entry cancelled, and whether this changed it (R377). -/
def State.cancelTask (s : State) (x : Nat) : Bool × State :=
  let e := s.task x
  match e.state with
  | .waiting | .ready | .faulted | .parked => (true, s.freeTask x)
  | .running => if e.cp then (false, s) else (true, s.setTask x { e with cp := true })
  | .free => (false, s)

/-- The entries of an ASID with this sequence and a lineage at or above k cancelled, and their number (R377). -/
def State.cancelSeq (s : State) (asid : BitVec 8) (seq : Word) (k : Nat) (but : Option Nat) : Nat × State :=
  s.tasks.foldl (fun (n, t) (x, e) =>
    if e.asid = asid ∧ e.seq = seq ∧ k ≤ e.lin.toNat ∧ some x ≠ but then
      let (hit, t') := t.cancelTask x
      (if hit then n + 1 else n, t')
    else (n, t)) (0, s)

/-- The wave holds no task any more; the task special reads all ones (R44). -/
def Wave.leaveTask (w : Wave) : Wave :=
  { w with task := none, outgrown := false, special := w.special.set 13 (BitVec.ofNat 32 0xFFFFFFFF) }

/-- The wave's task has cp = 1 (R377). -/
def State.cancelPending (s : State) (w : Wave) : Bool :=
  match w.task with
  | some t => (s.task t.index).cp
  | none => false

end Sys2Proof.Machine
end

