-- ==== Sys2Proof/Machine/Ops.lean ====
section
/-! DEFINITION. The shared operations of every wave instruction: retiring (R261), taking a trap (R321 to R328) and
returning from one (R343), blocking (R330), taken backward branches (R273), and the frame in which each card runs
(R54, R55, R60, R329). -/

namespace Sys2Proof.Machine

/-! ## Retiring -/

/-- A path after an instruction that continues at `pc`. -/
def Path.retire (p : Path) (pc : Nat) : Path :=
  { p with pc := pc % 2 ^ 55, swDone := false, swNext := false, late := false, stage := .none, status := .ready }

/-- The wave after one of its paths has retired an instruction of `cost` pipe cycles (R30, R38, R261, R300). A wait that
ended at step 7 of a period retires before the quantum that follows, and does not count in it (R306). -/
def Wave.retire (w : Wave) (t : Tag) (pc cost : Nat) : Wave :=
  let woken := (w.path? t).any fun p => p.stage == .woken
  { w.modPath t (fun p => p.retire pc) with
    clock := w.clock + 1, heldCycles := w.heldCycles + cost,
    det := w.det.map fun d => { d with retired := if woken then d.retired else d.retired + 1, atEnd := false, tried := false } }

/-- The executing path continues at `pc`. -/
def State.retireTo (s : State) (pc cost : Nat) : State :=
  match s.cur with
  | some (id, t) => s.modWave id fun w => w.retire t pc cost
  | none => s

/-- PC advances by 4 (R261). -/
def State.advance (s : State) (p : Path) (cost : Nat) : State := s.retireTo (p.pc + 4) cost

/-- Occupancy of a streamed instruction (R30). -/
def streamCost (exec : Mask) : Nat := max 1 (popcount exec)

/-! ## Deferred results settle -/

/-- A reply has been handled: what arrived is written, what failed stays recorded. -/
def Inflight.settled (x : Inflight) : Bool := x.vals.isEmpty

/-- The values of a deferred result written (R152, R126). -/
def Wave.writeInflight (w : Wave) (x : Inflight) : Wave :=
  let full := x.uniform && x.mask != 0
  (x.dst.zip x.vals).foldl (fun w (d, v) =>
    match d with
    | .v _ => w.writeReg d x.mask v
    | .s _ => if full then w.writeReg d x.mask v else w) w

/-- The reply of a deferred result: written, and kept only where lanes failed. -/
def Wave.settleInflight (w : Wave) (x : Inflight) : Wave :=
  let w := w.writeInflight x
  { w with inflight := w.inflight.filterMap fun y =>
      if y.id = x.id then (if x.failed.isEmpty then none else some { x with vals := [], mask := 0 }) else some y }

/-- The entries of the faulted-load list for a wave's failed results, in issue order, at most 192 (R321, R323). -/
def Wave.faultedList (w : Wave) : List FaultedLoad :=
  (w.inflight.flatMap fun x => x.failed.filterMap fun f =>
    x.dst.head?.map fun d => { pair := x.dst.length == 2, code := f.info.code, dst := d, lanes := f.info.mask }).take 192

/-! ## Taking a trap -/

/-- The trap record (R323 to R325). -/
def trapRecord (old : TrapCsrs) (p : Path) (word : Word) (info : TrapInfo) (tick tpc xpc : Nat) (task : Word)
    (faulted : List FaultedLoad) : TrapCsrs :=
  { old with
    cause := BitVec.ofNat 32 (info.kind.toNat * 256 + info.code.code.toNat), pc := BitVec.ofNat 55 tpc, word := word,
    mask := info.mask, path := p.mask, mode := p.mode, info := info.info, addr := info.addr, aux := info.aux,
    task := task, faulted := faulted, tick := BitVec.ofNat 64 tick, xpc := BitVec.ofNat 55 xpc }

/-- The trapping path at the first instruction of its handler (R321 step 5, R55). -/
def Path.atHandler (p : Path) (pc : Nat) : Path :=
  { p with pc := pc, mode := Mode.initial, latches := Vector.replicate 4 Latch.empty, pending := [], jp := none,
           wj := none, status := .ready, stage := .none, swDone := false, swNext := true, late := false }

/-- The wave's pending set becomes empty: on every path and in every open split (R54, R321 step 4). -/
def Wave.dropPending (w : Wave) : Wave :=
  { w with paths := w.paths.map fun (q : Path) => { q with pending := [] }
           splits := w.splits.map fun (e : Split) => { e with pending := [], armPending := [] } }

/-- Handler entry (R321 steps 3 to 5). -/
def State.enterHandler (s : State) (id : Nat) (t : Tag) (word : Word) (info : TrapInfo) (tpc xpc : Nat)
    (task : Word) : State :=
  let base := bitsOf (s.reg (Reg.trapBase ((s.wave? id).map (·.asid.toNat) |>.getD 0))).toNat 54 2 * 4
  s.modWave id fun w =>
    match w.path? t with
    | none => w
    | some p =>
      { w.dropPending.modPath t (fun q => q.atHandler base) with
        csr := trapRecord w.csr p word info s.tick tpc xpc task w.faultedList
        handler := some (t, w.splits.length), inflight := []
        det := w.det.map fun d => { d with atEnd := false, tried := false } }

/-- A trap outside task mode, or in an irrevocable task: deferred results are drained first (R321). -/
def State.trapPlain (s : State) (w : Wave) (p : Path) (word : Word) (info : TrapInfo) (task : Word) : State :=
  if w.inflight.all Inflight.settled then s.enterHandler w.id p.tag word info p.pc p.pc task
  else
    (s.modPath w.id p.tag fun q => { q with status := .blocked (.drain info p.pc word), stage := .none }).modWave w.id
      fun x => { x with det := x.det.map fun (d : WaveDet) => { d with atEnd := false } }

/-- A trap in task mode, and that of a cancelled task (R325, R378): deferred results cancelled, the version
discarded, the entry faulted or free. -/
def State.trapTask (s : State) (w : Wave) (p : Path) (word : Word) (info : TrapInfo) (h : TaskHold) (free : Bool) :
    State :=
  let s := s.modWave w.id fun x => { x with inflight := [], holds := x.holds.map fun y => { y with loads := [] } }
  let s := match h.mode with
    | .versioned v => (s.dropVersion w.part v).modWave w.id fun x =>
        { x with det := x.det.map fun (d : WaveDet) => { d with buffer := [] } }
    | .irrevocable => s.dropVersion w.part (s.task h.index).ver.toNat
    | .plain => s
  let s := if free then s.freeTask h.index
    else s.setTask h.index { s.task h.index with state := .faulted, ver := 0 }
  let s := s.modWave w.id Wave.leaveTask
  s.enterHandler w.id p.tag word info h.pull p.pc (BitVec.ofNat 32 h.index)

/-- VERSION_FULL with the code of the trap that caused it (R328). -/
def TrapInfo.versionFull (info : TrapInfo) : TrapInfo :=
  { TrapInfo.plain .versionFull with mask := info.mask, info := info.code.code.setWidth 32 }

/-- TASK_CANCELLED of a task (R324, R378). -/
def State.cancelInfo (s : State) (x : Nat) : TrapInfo :=
  { TrapInfo.plain .taskCancelled with info := (s.task x).lin.setWidth 32 }

/-- A trap that no handler can take freezes its wave, and is kept for a thaw (R339, R341). -/
def State.freezeTrap (s : State) (w : Wave) (p : Path) (word : Word) (info : TrapInfo) (cause : Nat) : State :=
  (s.freezeWave w cause info.code.code.toNat).modWave w.id fun x => { x with again := some (p.tag, info, word) }

/-- A trap at an instruction (R320 to R328): a combiner batch aborts, a producer slot freezes, a wave freezes with no
handler or in handler state, and otherwise enters its handler. An access across a partition boundary freezes its
master (R339, R417). [DEDUCED, log 21, safe; DESIGN CHOICE, log 116, unsafe] -/
def State.trap (s : State) (w : Wave) (p : Path) (word : Word) (info : TrapInfo) : State :=
  if info.code = .boundary then s.freezeWave w 1 0
  else
  match w.kind with
  | .combiner h => s.abortBatch h 1 info.code.code.toNat
  | .producer => s.freezeWave w 4 info.code.code.toNat
  | .launched =>
    if w.handler.isSome then s.freezeTrap w p word info 6
    else if !s.regBit (Reg.trapBase w.asid.toNat) 63 then s.freezeTrap w p word info 5
    else
      match w.task with
      | some h =>
        if info.code = .taskCancelled then s.trapTask w p word info h true
        else
          match h.mode with
          | .plain => s.trapPlain w p word info (BitVec.ofNat 32 0xFFFFFFFF)
          | .versioned _ => s.trapTask w p word info h false
          | .irrevocable =>
            let e := s.task h.index
            let s := (s.cancelSeq e.asid e.seq 0 (some h.index)).2
            s.trapPlain w p word info.versionFull (BitVec.ofNat 32 h.index)
      | none => s.trapPlain w p word info (BitVec.ofNat 32 0xFFFFFFFF)

/-- A memory trap that has no address: the spec states none for TADDR, which is a free value. [DESIGN CHOICE, log 22, safe] -/
def State.freeMem (s : State) (c : TrapCode) (mask : Mask) : TrapInfo × State :=
  let (k, s) := s.takeFree
  ({ TrapInfo.plain c with mask := mask, addr := Config.freeDWord k }, s)

/-- A path of the handler: the trapping path and the arms of splits it has made (R322). -/
def Wave.inHandler (w : Wave) (p : Path) : Bool :=
  match w.handler with
  | some (t, depth) => p.tag == t || decide (depth < p.tag.entry)
  | none => false

/-- A return from the handler (R343): handler state ends, the wave's other paths are released, a monitor's next
MWAIT returns (R157), and the next instruction is a switch point (R55). -/
def Wave.leaveHandler (w : Wave) : Wave :=
  { w with handler := none, watch := w.watch.map fun x => { x with fired := true } }

/-! ## Blocking and stopping -/

/-- The condition is one of the blocking points of R330. -/
def WakeCond.point : WakeCond → Bool
  | .reply _ b => b
  | .drain .. | .ending | .period => false
  | _ => true

/-- A wait for these registers is a blocking point: one of them is the destination of an NGET, an atomic, a COMB or a SYSC
whose result has not arrived (R330). [DEDUCED, log 118, unsafe] -/
def Wave.pointWait (w : Wave) (regs : List RegName) : Bool :=
  w.inflight.any fun x => x.dst.any (regs.contains ·) && !x.settled &&
    (match x.kind with | .atomic | .comb | .nget | .sysc => true | _ => false)

/-- A pre-emption request stops the wave at its next blocking point or taken backward branch (R331); in deterministic mode
it takes effect where R308 says. -/
def Wave.stopping (w : Wave) : Bool := w.stopReq && !w.isDet && w.kind == .launched

/-- The executing path waits; a wave asked to stop stops at a blocking point (R331). -/
def State.block (s : State) (c : WakeCond) : State :=
  let stop := ((s.cur.bind fun x => s.wave? x.1).map Wave.stopping).getD false
  (s.modCurPath fun p => { p with status := .blocked c, swDone := true, stage := .none, halted := p.halted || (stop && c.point) }).modCurWave fun w =>
    { w with det := w.det.map fun (d : WaveDet) => { d with atEnd := false, tried := d.tried || d.atEnd } }

/-- The wave ranks youngest (R294). -/
def State.youngest (s : State) (id : Nat) : State :=
  { s.modWave id (fun w => { w with rank := s.nextId }) with nextId := s.nextId + 1 }

/-! ## The choice of a pipe (R31, R294) -/

/-- Instructions that a wave of a deterministic launch retires in a period. -/
def State.quantumOf (s : State) (w : Wave) : Nat := ((s.launchOf? w).map (·.record.quantum)).getD 0

/-- The path can issue: it is ready, its wave runs, a handler of another path does not hold it (R321), it does not wait
at its join for a nested split of another arm (R266), its quantum has not ended (R306), or step 4 has come to its operation (R312). -/
def State.runnable (s : State) (w : Wave) (p : Path) : Bool :=
  w.frozen.isNone && !w.stopped && !w.exited && p.status == .ready && !p.halted
    && (match w.handler with | none => true | some _ => w.inHandler p)
    && !(w.paths.any fun q => q.tag != p.tag && (match q.status with | .blocked (.drain ..) => true | _ => false))
    && (!w.atJoin p || w.mayArrive p)
    && (match w.det with | some d => if d.ended then d.atEnd else decide (d.retired < s.quantumOf w) | none => true)

/-- A wave of this pipe: of a launched kernel, or the producer slot's (R28, R134). -/
def Wave.onPipe (w : Wave) (c : Fin 256) (p : Fin 32) : Bool :=
  w.core == c && w.pipe == p && (match w.kind with | .combiner _ => false | _ => true)

/-- The lowest lane of a path, 32 for none. -/
def Path.low (p : Path) : Nat := ((lowLane p.mask).map (·.val)).getD 32

/-- The first path goes before the second: priority, age, slot, lowest lane (R294). -/
def goesBefore (w : Wave) (p : Path) (w' : Wave) (p' : Path) : Bool :=
  if w.prio ≠ w'.prio then decide (w'.prio < w.prio)
  else if w.rank ≠ w'.rank then decide (w.rank < w'.rank)
  else if w.slot ≠ w'.slot then decide (w.slot.val < w'.slot.val)
  else decide (p.low < p'.low)

/-- The paths of a pipe that can issue. -/
def State.candidates (s : State) (c : Fin 256) (p : Fin 32) : List (Wave × Path) :=
  (s.waves.filter fun w => w.onPipe c p).flatMap fun w => (w.paths.filter (s.runnable w)).map fun q => (w, q)

/-- The path that a pipe chooses (R294). -/
def State.choose (s : State) (c : Fin 256) (p : Fin 32) : Option (Wave × Path) :=
  (s.candidates c p).foldl (fun best x => match best with
    | none => some x
    | some y => if goesBefore x.1 x.2 y.1 y.2 then some x else some y) none

/-- A ready path of the pipe that goes before this one (R31). -/
def State.rival? (s : State) (w : Wave) (p : Path) : Option (Nat × Tag) :=
  if w.onPipe w.core w.pipe then
    match s.choose w.core w.pipe with
    | some (x, q) => if goesBefore x q w p then some (x.id, q.tag) else none
    | none => none
  else none

/-- The pipe goes to another path at a switch point; the waiting path's latches are emptied (R31, R53). [DEDUCED, log 119, unsafe] -/
def State.handOver (s : State) (w : Wave) (p : Path) (dest : Nat × Tag) : State :=
  let s := s.modPath w.id p.tag fun q => { q with latches := Vector.replicate 4 Latch.empty, swDone := true }
  let s := s.modWave dest.1 fun x => { x with heldCycles := if dest.1 = w.id then x.heldCycles else 0 }
  ({ s with holders := SMap.insert s.holders (32 * w.core.val + w.pipe.val) dest }).count (.core w.core) 0x11 1

/-- Another wave of the pipe could run (R38). -/
def State.pipeContended (s : State) (w : Wave) : Bool :=
  (s.candidates w.core w.pipe).any fun x => x.1.id != w.id

/-- The wave leaves its pipe. -/
def State.dropWave (s : State) (w : Wave) : State :=
  { s with waves := s.waves.filter fun x => x.id != w.id
           holders := s.holders.filter fun h => h.2.1 != w.id }

/-- The producer slot stops: its micro-program leaves the pipe, and PSCTL reads stopped (R166). [DESIGN CHOICE, log 116, unsafe] -/
def State.stopProducer (s : State) (w : Wave) : State := (s.dropWave w).setReg (Reg.ps w.core 0) 2

/-- What a taken backward branch brings with it whose lanes run on under these tags (R273): a pending pre-emption stops
them before the target (R331), and a wave that has held its pipe for 4,096 cycles yields (R38). -/
def State.wentBack (s : State) (w : Wave) (runs : Tag → Bool) (cost : Nat) : State :=
  if w.stopping then
    s.modWave w.id fun x => { x with paths := x.paths.map fun (q : Path) => if runs q.tag then { q with halted := true } else q }
  else if 4096 ≤ w.heldCycles + cost ∧ s.pipeContended w then
    { (s.youngest w.id).modWave w.id (fun x => { x with heldCycles := 0 }) with holders := SMap.erase s.holders (32 * w.core.val + w.pipe.val) }
  else s

/-- A transfer of the whole path (R273). -/
def State.goTo (s : State) (w : Wave) (p : Path) (pc cost : Nat) : State :=
  let s := s.retireTo pc cost
  if pc ≤ p.pc then s.wentBack w (· == p.tag) cost else s

/-! ## The frame of a card -/

/-- What a card says of an instruction before it runs. -/
structure Card where
  /-- M.type is accepted, and the instruction exists in this kind of wave (R50, R58, R134, R166). [DESIGN CHOICE, log 121, unsafe] -/
  typeOk : Bool
  /-- The privilege check passes (R59). -/
  priv : Bool
  /-- The operand fields in the order d, a, b. -/
  fields : List Field
  /-- Fields in which a streamed source raises ILLEGAL_OPERAND (R30). -/
  uniform : List Field
  /-- The card's further checks of step 3. -/
  extra : Bool
  /-- A switch point of its own (R55). -/
  switch : Bool
  /-- The EXIT of the wave's last lane: the pipe chooses after it (R55 case 8). -/
  last : Bool
  /-- A blocking point (R330). -/
  blocking : Bool
  /-- A moment at which MEM_RACE of a write-back is delivered (R178). -/
  race : Bool
  /-- A moment at which TASK_CANCELLED is delivered beside the blocking points (R378). -/
  cancels : Bool
  /-- The SLEEPUNTIL at which a promise shows to be missed (R202). -/
  missed : Option TrapInfo
  /-- It makes a task irrevocable (R129, R362, R411). -/
  irrev : Bool
  /-- It goes on only once the wave's earlier accesses are performed. -/
  drains : Bool
  /-- A synchronising operation of a deterministic launch (R312). -/
  sync : Bool
  body : Wave → Path → State → Result

/-- R60 steps 1 to 3. -/
def Card.static (k : Card) (w : Wave) (p : Path) : Option TrapCode :=
  if !k.typeOk then some .illegalOp
  else if !k.priv then some .privileged
  else if !k.fields.all (·.ok w) || !k.extra || k.uniform.any (·.streamed p) then some .illegalOperand
  else none

/-- The registers of the instruction that are pending (R54). -/
def Card.waits (k : Card) (p : Path) : List RegName :=
  (k.fields.flatMap Field.regs).filter fun r => p.pending.contains r

/-- The wave runs a version and the task is not irrevocable (R327). -/
def Wave.versioned (w : Wave) : Bool :=
  match w.task with
  | some { mode := .versioned _, .. } => true
  | _ => false

/-- The instruction is a switch point (R55, R327). -/
def Card.isSwitch (k : Card) (w : Wave) (p : Path) : Bool :=
  k.switch || p.swNext || p.wj == some p.pc || !(k.waits p).isEmpty || (k.irrev && w.versioned)

/-- The path at a switch point: latches invalid, a watched join reached is cleared (R53, R262). -/
def Path.atSwitch (p : Path) : Path :=
  { p with latches := Vector.replicate 4 Latch.empty, wj := if p.wj = some p.pc then none else p.wj,
           swNext := false }

/-- The oldest report of a code, taken from the wave. -/
def State.takeReport? (s : State) (w : Wave) (c : TrapCode) : Option (TrapInfo × State) :=
  match w.reports.find? fun r => r.code == c with
  | some r => some (r, s.modWave w.id fun x => { x with reports := x.reports.erase r })
  | none => none

/-- The oldest race report of the wave's workgroup (R178). -/
def State.takeRace? (s : State) (w : Wave) : Option (TrapInfo × State) :=
  match s.wgOf? w with
  | some g =>
    match g.races with
    | r :: rest => some (r, s.modWg w.gang w.wg fun x => { x with races := rest })
    | [] => none
  | none => none

/-- TASK_CANCELLED, where the wave's task is cancelled and the wave can take it (R378, R322). -/
def State.cancelNow? (s : State) (w : Wave) : Option TrapInfo :=
  if w.handler.isNone && s.cancelPending w then w.task.map fun h => s.cancelInfo h.index else none

/-- The instruction blocks until the task is irrevocable (R327): a switch point of a task that has outgrown its version, and an
instruction that would otherwise wait for the held accesses without end. [DESIGN CHOICE, log 131, unsafe] -/
def Card.commits (k : Card) (w : Wave) (sw : Bool) : Bool :=
  ((sw || k.drains || (k.sync && w.isDet)) && w.outgrown) || (k.irrev && w.versioned)

/-- PROMISE_MISSED of this SLEEPUNTIL: the one that another report went before, or the one that its operands, once they
have arrived, show now (R202, R329). -/
def Card.promise? (k : Card) (w : Wave) (p : Path) : Option TrapInfo :=
  if !k.blocking then none
  else match w.missed with
  | some (pc, info) => if pc = p.pc then some info else k.missed
  | none => if (k.waits p).isEmpty then k.missed else none

/-- A report taken while a missed promise remains is taken first; the promise shows in TPEND (R329). -/
def State.keepMissed (s : State) (k : Card) (w : Wave) (p : Path) : State :=
  match k.promise? w p with
  | some info => s.modWave w.id fun x => { x with missed := some (p.pc, info) }
  | none => s

/-- A moment at which TASK_CANCELLED is delivered (R378). -/
def Card.cancelMoment (k : Card) (w : Wave) (p : Path) (sw : Bool) : Bool :=
  k.blocking || k.cancels || p.late || k.commits w sw || w.pointWait (k.waits p)

/-- The report that this instruction delivers (R329 step 2); none in handler state. [DESIGN CHOICE, log 54, safe] -/
def State.deliver? (s : State) (k : Card) (w : Wave) (p : Path) (sw : Bool) : Option (TrapInfo × State) :=
  if w.handler.isSome || w.kind != .launched then none
  else
    ((if sw then s.takeReport? w .combFault else none)
      <|> (if sw then s.takeReport? w .engFault else none)
      <|> (if k.race then s.takeRace? w else none)
      <|> (if sw then s.takeReport? w .eccUncorr else none)).map (fun x => (x.1, x.2.keepMissed k w p))
      <|> ((k.promise? w p).map fun i => (i, s.modWave w.id fun x => { x with missed := none }))
      <|> (if k.cancelMoment w p sw then (s.cancelNow? w).map fun i => (i, s) else none)

/-- The word of an instruction, for TWORD. -/
def wordOfInstr (i : Instr) : Word := (encode i).getD 0

/-- The instruction that the pipe executes next stays where it is and holds its pipe for at least a cycle more (R38); its
switch point is behind it. -/
def State.stall (s : State) : Result :=
  let (k, s) := s.takeFree
  .next ((s.modCurPath fun p => { p with swDone := true }).modCurWave fun w =>
    { w with heldCycles := w.heldCycles + 1 + Config.stallCycles k })

/-- The body. A wave asked to stop does so at a blocking point (R331); a synchronising operation of a deterministic
wave waits for the end of its period (R306, R312). [DEDUCED, log 109, unsafe] -/
def Card.run (k : Card) (w : Wave) (p : Path) (s : State) : Result :=
  if k.blocking && w.stopping then .next (s.modCurPath fun q => { q with swDone := true, halted := true })
  else match w.det with
  | some d => if k.sync && !d.atEnd then .next (s.block .period) else k.body w p s
  | none => k.body w p s

/-- The rest of the frame, after R60 steps 1 to 3 and the reports: LATCH_STALE, pending registers, faulted loads,
then the body (R54, R60, R329). -/
def Card.proceed (k : Card) (i : Instr) (w : Wave) (p : Path) (sw : Bool) (s : State) : Result :=
  let regs := k.waits p
  let mine := fun (x : Inflight) => x.dst.any (regs.contains ·)
  if k.commits w sw then .next (s.block .irrevocable)
  else if k.fields.any (·.stale p) then .next (s.trap w p (wordOfInstr i) (.plain .latchStale))
  else if w.inflight.any fun x => mine x && !x.settled then .next (s.block (.reply regs (w.pointWait regs)))
  else
    match w.inflight.find? fun x => mine x && !x.failed.isEmpty with
    | some x =>
      match x.failed with
      | f :: rest =>
        let w' := { w with inflight := if rest.isEmpty then w.inflight.filter (fun y => y.id != x.id)
                      else w.inflight.map fun y => if y.id = x.id then { y with failed := rest } else y }
        .next ((s.modWave w.id fun _ => w').trap w' p (wordOfInstr i) f.info)
      | [] => k.run w p s
    | none =>
      let p' := { p with pending := p.pending.filter fun r => !regs.contains r }
      let s' := if regs.isEmpty then s else s.modPath w.id p.tag fun q => { q with pending := p'.pending }
      k.run (if regs.isEmpty then w else w.modPath p.tag fun q => { q with pending := p'.pending }) p' s'

/-- The reports, and the rest of the frame (R329), `p'` being the path behind its switch point. -/
def Card.issue (k : Card) (i : Instr) (w : Wave) (p p' : Path) (sw : Bool) (s : State) : Result :=
  match s.deliver? k w p sw with
  | some (info, s') =>
    match s'.wave? w.id with
    | some w' => .next (s'.trap w' p (wordOfInstr i) info)
    | none => .next s'
  | none =>
    if sw then
      let w' := w.modPath p.tag fun _ => p'
      let s' := s.modWave w.id fun _ => w'
      k.proceed i w' p' true (if p.swDone then s' else s'.count (.core w.core) 0x11 1)
    else k.proceed i w p false s

/-- The state of a path whose wait does not hold: it has begun to wait, and done nothing else. An arrival at BAR is no
such wait. -/
def Result.waiting? (r : Result) (w : Wave) (t : Tag) : Option State :=
  match r with
  | .next s =>
    match ((s.wave? w.id).bind fun x => x.path? t).map Path.status with
    | some (PathStatus.blocked c) => (match c with | .bar _ | .drain .. | .period | .ending => none | _ => some s)
    | _ => none
  | _ => none

/-- An instruction executed by the current path. An instruction that holds its pipe resumes in its body. A producer slot
asked to stop does so at a switch point (R166). A path whose wait does not hold is no candidate of the pipe's choice
(R31). [DESIGN CHOICE, log 2, safe] -/
def runCard (i : Instr) (mk : Wave → Path → Card) (s : State) : Result :=
  match s.cursor? with
  | none => .fault .noCurrentPath
  | some c =>
    let w := c.w
    let p := c.p
    let k := mk w p
    if p.stage != .none && p.stage != .woken then k.body w p s
    else
      let sw := k.isSwitch w p
      let p' := if sw then p.atSwitch else p
      if sw && w.kind == .producer && w.stopReq then .next (s.stopProducer w)
      else
      match k.static w p' with
      | some code => .next (s.trap w p (wordOfInstr i) (.plain code))
      | none =>
       match (if sw && !p.swDone && !k.last then s.rival? w p else none) with
       | some dest =>
        match (k.issue i w p p' sw s).waiting? w p.tag with
        | some s' => .next s'
        | none => .next (s.handOver w p dest)
       | none => k.issue i w p p' sw s

end Sys2Proof.Machine
end

