-- ==== Sys2Proof/Machine/Bars.lean ====
section
/-! DEFINITION. Barriers: participants, arrivals, completion and failure (R298, R299), and the phase numbers that
advance with them (R175, R177). -/

namespace Sys2Proof.Machine

/-- Where a barrier stands: its scope, and the workgroup, gang or launch that holds it. -/
structure BarPlace where
  scope : Fin 3
  gang : Nat
  wg : Nat
  launch : Fin 256
  deriving DecidableEq, Repr

/-- The scope of a selector; none for the reserved one or a selector with reserved bits set (R298). -/
def barScope? (sel : Word) : Option (Fin 3) :=
  let n := sel.toNat
  if bitsOf n 31 18 = 0 ∧ bitsOf n 15 4 = 0 then
    match bitsOf n 17 16 with
    | 0 => some 0
    | 1 => some 1
    | 2 => some 2
    | _ => none
  else none

/-- The barrier id of a selector. -/
def barId (sel : Word) : Fin 16 := Fin.ofNat 16 (bitsOf sel.toNat 3 0)

/-- The place of a wave's barrier of a scope: one for the workgroup, the gang or the launch. -/
def State.barPlace (s : State) (w : Wave) (scope : Fin 3) : BarPlace :=
  { scope := scope, gang := if scope = 2 then 0 else w.gang, wg := if scope = 0 then w.wg else 0, launch := ((s.launchOf? w).map (·.slot)).getD 0 }

/-- The barriers that are not idle at a place. -/
def State.barsAt (s : State) (b : BarPlace) : List Barrier :=
  match b.scope with
  | 0 => ((s.wg? b.gang b.wg).map (·.bars)).getD []
  | 1 => ((s.gang? b.gang).map (·.bars)).getD []
  | 2 => ((s.launch? b.launch).map (·.bars)).getD []

/-- The barriers of a place replaced. -/
def State.setBars (s : State) (b : BarPlace) (l : List Barrier) : State :=
  match b.scope with
  | 0 => s.modWg b.gang b.wg fun g => { g with bars := l }
  | 1 => s.modGang b.gang fun g => { g with bars := l }
  | 2 => s.modLaunch b.launch fun k => { k with bars := l }

/-- A barrier that is not idle. -/
def State.bar? (s : State) (b : BarPlace) (id : Fin 16) : Option Barrier := (s.barsAt b).find? fun x => x.id == id

/-- The waves named by a mask that have not ended (R298). -/
def State.barNamed (s : State) (b : BarPlace) (m : Word) : List Nat :=
  let live := fun (l : List Wave) => (l.filter fun w => !w.exited).map (·.id)
  match b.scope with
  | 0 => live ((s.wgWaves b.gang b.wg).filter fun w => m.getLsbD w.index)
  | 1 => live ((s.gangWaves b.gang).filter fun w => m.getLsbD w.wg)
  | 2 => match s.launch? b.launch with
    | some l => live (s.launchWaves l)
    | none => []

/-- The memory scope at which a barrier releases and acquires (R298). -/
def barMemScope (scope : Fin 3) : Scope :=
  match scope with
  | 0 => .wg
  | 1 => .gang
  | 2 => .dev

/-- The wave stands at a BAR. -/
def Wave.atBar? (w : Wave) : Option (Path × Word) :=
  w.paths.findSome? fun p => match p.status with
    | .blocked (.bar x) => some (p, x)
    | _ => none

/-- A participant returns from its barrier, with an acquire (R299). -/
def State.barReturn (s : State) (scope : Fin 3) (id : Nat) : State :=
  match s.wave? id with
  | none => s
  | some w =>
    match w.atBar? with
    | none => s
    | some (p, _) => (s.modWave id fun x => x.retire p.tag (p.pc + 4) 1).acquire w.core (barMemScope scope)

/-- The trap BAR_MASK (R299, R324). -/
def barMask (kind : BitVec 8) (sel m0 : Word) : TrapInfo :=
  { TrapInfo.plain .barMask with kind := kind, info := sel, aux := m0.setWidth 64 }

/-- A participant takes BAR_MASK kind 1 at its BAR. -/
def State.barTrap (s : State) (sel m0 : Word) (id : Nat) : State :=
  match s.wave? id with
  | none => s
  | some w =>
    match w.atBar? with
    | none => s
    | some (p, x) => s.trap w p x (barMask 1 sel m0)

/-- Every home clears bit v of the tags of a launch slot (R177, R290). -/
def State.clearTags (s : State) (slot : Fin 256) : State :=
  { s with homes := s.homes.map fun h => { h with lines := h.lines.map fun l =>
      { l with tags := l.tags.map fun t => if t.slot.toNat = slot.val then { t with v := false } else t } } }

/-- Phase numbers after a barrier has completed (R175, R177). -/
def State.barPhases (s : State) (b : BarPlace) (m : Word) : State :=
  match b.scope with
  | 0 => s
  | 1 =>
    s.modGang b.gang fun g =>
      if (List.range g.wgs.length).all fun j => m.getLsbD j then
        { g with wgs := g.wgs.map fun x => { x with gangBars := x.gangBars + 1 } }
      else g
  | 2 =>
    match s.launch? b.launch with
    | none => s
    | some l =>
      let gs := s.launchGangs l
      let wraps := gs.any fun g => g.wgs.any fun x => (x.launchBars + 1) % 256 == 0
      let s := if wraps then s.clearTags b.launch else s
      { s with gangs := s.gangs.map fun g =>
          if gs.any fun x => x.id == g.id then
            { g with wgs := g.wgs.map fun x => { x with launchBars := x.launchBars + 1, gangBars := 0 } }
          else g }

/-- What has become of a barrier: it completes, its failure ends, or it stays as it is (R299). -/
def State.settleBar (s : State) (p : BarPlace) (b : Barrier) : State :=
  let rest := (s.barsAt p).filter fun x => x.id != b.id
  if b.failed then
    s.setBars p (if b.named.all fun x => b.arrived.contains x then rest else b :: rest)
  else if b.expected.all fun x => b.arrived.contains x then
    let s := (s.setBars p rest).barPhases p b.m0
    b.arrived.foldl (fun s id => s.barReturn p.scope id) s
  else s.setBars p (b :: rest)

/-- Union of wave lists. -/
def joinIds (a b : List Nat) : List Nat := a ++ b.filter fun x => !a.contains x

/-- The arrival of a wave (R299), after its release. -/
def State.barArrive (s : State) (w : Wave) (m sel : Word) : State :=
  match barScope? sel with
  | none => s
  | some sc =>
    let p := s.barPlace w sc
    let named := s.barNamed p m
    match s.bar? p (barId sel) with
    | none =>
      s.settleBar p { scope := sc, id := barId sel, failed := false, expected := named, named := named,
                      arrived := [w.id], m0 := m }
    | some b =>
      let b := { b with named := joinIds b.named named }
      let b' := { b with arrived := joinIds b.arrived [w.id] }
      if b.failed then (s.settleBar p b').barTrap sel b.m0 w.id
      else if m ≠ b.m0 then
        let s := s.settleBar p { b' with failed := true }
        b'.arrived.foldl (fun s id => s.barTrap sel b.m0 id) s
      else s.settleBar p b'

/-- A wave that has ended is removed from the barriers of its workgroup, gang and launch (R299). -/
def State.barLeave (s : State) (w : Wave) : State :=
  ([0, 1, 2] : List (Fin 3)).foldl (fun s sc =>
    let p := s.barPlace w sc
    (s.barsAt p).foldl (fun s b =>
      let b' := { b with expected := b.expected.filter (· != w.id), named := b.named.filter (· != w.id) }
      if b' = b then s else s.settleBar p b') s) s

end Sys2Proof.Machine
end

