-- ==== Sys2Proof/Machine/Transc.lean ====
section
/-! DEFINITION. Reciprocal, roots and transcendental functions of fp32, correctly rounded (R253, R254).
Roots and the reciprocal are exact up to a sticky bit. EXP2, LOG2, SIN2PI and COS2PI are bounded from below
and above in fixed point, at rising precision, until both bounds round to one value. -/

namespace Sys2Proof.Machine

/-! ## Roots -/

/-- The integer square root of `n`, from bit `k − 1` of the root downwards; `r` is what stands so far. -/
def rootFrom (n : Nat) : Nat → Nat → Nat
  | 0, r => r
  | k + 1, r =>
    let t := r + 2 ^ k
    rootFrom n k (if t * t ≤ n then t else r)
/-- The integer square root. -/
def intRoot (n : Nat) : Nat := rootFrom n (Nat.log2 n / 2 + 1) 0

/-- √(m · 2^e) for m > 0, with a sticky bit. -/
def rootOf (m : Nat) (e : Int) : Exact :=
  let k : Nat := if e % 2 = 0 then 80 else 81
  let n := m <<< k
  let s := intRoot n
  .fin false (2 * s + (if s * s = n then 0 else 1)) ((e - k) / 2 - 1)

/-- 1/√(m · 2^e) for m > 0, with a sticky bit. -/
def rootInv (m : Nat) (e : Int) : Exact :=
  let (m, e) := if e % 2 = 0 then (m, e) else (2 * m, e - 1)
  let k := 40 + Nat.log2 m
  let s := intRoot (2 ^ (2 * k) / m)
  .fin false (2 * s + (if s * s * m = 2 ^ (2 * k) then 0 else 1)) (-(k : Int) - e / 2 - 1)

/-! ## Fixed point: integers in units of 2^-p -/

/-- Product of two fixed-point numbers. -/
def fixMul (p : Nat) (x y : Int) : Int := (x * y) / 2 ^ p

/-- Σ z^(2k+1)/(2k+1), with alternating signs if `alt`: artanh z, or arctan z. `t` is z^(2k+1). -/
def oddSeries (p : Nat) (alt : Bool) (z2 : Int) : Nat → Nat → Int → Int
  | 0, _, _ => 0
  | n + 1, k, t =>
    t / (2 * k + 1) + (if alt then -1 else 1) * oddSeries p alt z2 n (k + 1) (fixMul p t z2)
/-- artanh or arctan of the fixed-point number z. -/
def oddSum (p : Nat) (alt : Bool) (z : Int) : Int := oddSeries p alt (fixMul p z z) p 0 z

/-- ln 2 = 2 artanh(1/3). -/
def ln2Fix (p : Nat) : Int := 2 * oddSum p false (2 ^ p / 3)
/-- π = 16 arctan(1/5) − 4 arctan(1/239). -/
def piFix (p : Nat) : Int := 16 * oddSum p true (2 ^ p / 5) - 4 * oddSum p true (2 ^ p / 239)

/-- Σ x^k/k! from term k on, `t` being the term. -/
def expSeries (p : Nat) (x : Int) : Nat → Nat → Int → Int
  | 0, _, _ => 0
  | n + 1, k, t => t + expSeries p x n (k + 1) (fixMul p t x / (k + 1))
/-- Σ (−1)^k x^(2k+j)/(2k+j)!, `t` being the term of power j: sine from j = 1, cosine from j = 0. -/
def trigSeries (p : Nat) (x2 : Int) : Nat → Nat → Int → Int
  | 0, _, _ => 0
  | n + 1, j, t => t - trigSeries p x2 n (j + 2) (fixMul p t x2 / ((j + 1) * (j + 2)))

/-- The error, in units of 2^-p, that no computation below exceeds: fewer than 2^11 truncations of one unit
each, each multiplied by at most 2^5. -/
def fixSlack : Int := 2 ^ 16

/-- Terms of the exponential and trigonometric series that reach below a unit of 2^-p. -/
def terms (p : Nat) : Nat := p / 4 + 12

/-- m · 2^e in units of 2^-p, truncated. -/
def toFix (p : Nat) (m : Nat) (e : Int) : Int :=
  if 0 ≤ e + p then ((m <<< (e + p).toNat : Nat) : Int) else ((m >>> (-(e + p)).toNat : Nat) : Int)

/-- A value between `lo` and `hi`, in units of 2^-p scaled by 2^s, is settled when both ends round alike. -/
def settled (m : Mode) (p : Nat) (s lo hi : Int) : Option Word :=
  if (0 < lo ∧ 0 < hi) ∨ (lo < 0 ∧ hi < 0) then
    let a := toFp32Sat m.round m.sat (.fin (decide (lo < 0)) lo.natAbs (s - p))
    let b := toFp32Sat m.round m.sat (.fin (decide (hi < 0)) hi.natAbs (s - p))
    if a = b then some a else none
  else none

/-- The precisions tried, in bits. [DESIGN CHOICE, log 23, safe] -/
def precisions : List Nat := [64, 128, 256, 400]

/-- The value bounded at each precision in turn. [DESIGN CHOICE, log 23, safe] -/
def settle (m : Mode) (s : Int) (f : Nat → Int) : List Nat → Option Word
  | [] => none
  | p :: ps =>
    match settled m p s (f p - fixSlack) (f p + fixSlack) with
    | some w => some w
    | none => settle m s f ps

/-- Function code, operand and rounding name the free value of a result that stays unsettled (R254). [DESIGN CHOICE, log 23, safe] -/
def settleOr (fn : Nat) (x : Word) (m : Mode) (s : Int) (f : Nat → Int) : Word :=
  (settle m s f precisions).getD (Config.undecided fn x m.round.code)

/-! ## The functions -/

def fpRcp (m : Mode) (x : Word) : Word := toFp32Sat m.round m.sat ((Exact.ofInt 1).div (ofFp32 x))

def fpRsq (m : Mode) (x : Word) : Word :=
  toFp32Sat m.round m.sat <|
    match ofFp32 x with
    | .nan => .nan
    | .inf neg => if neg then .nan else .zero false
    | .fin neg n e => if n = 0 then .inf neg else if neg then .nan else rootInv n e

def fpSqrt (m : Mode) (x : Word) : Word :=
  toFp32Sat m.round m.sat <|
    match ofFp32 x with
    | .nan => .nan
    | .inf neg => if neg then .nan else .inf false
    | .fin neg n e => if n = 0 then .zero neg else if neg then .nan else rootOf n e

/-- 2^x: the integral part scales, 2^f = exp(f · ln 2) for the fraction f. Past ±400 every result has overflown
or underflown as at ±400. -/
def fpExp2 (m : Mode) (x : Word) : Word :=
  match ofFp32 x with
  | .nan => nan32
  | .inf neg => toFp32Sat m.round m.sat (if neg then .zero false else .inf false)
  | .fin neg n e =>
    let fl := Exact.toInt .rd neg n e
    if fl < -400 then toFp32Sat m.round m.sat (.fin false 1 (-400))
    else if 400 < fl then toFp32Sat m.round m.sat (.fin false 1 400)
    else if n = 0 ∨ 0 ≤ e ∨ n % 2 ^ (-e).toNat = 0 then toFp32Sat m.round m.sat (.fin false 1 fl)
    else
      settleOr 0x13 x m fl fun p =>
        let k := (-e).toNat
        let part : Int := if neg then 2 ^ k - n % 2 ^ k else n % 2 ^ k
        expSeries p (fixMul p (part * 2 ^ p / 2 ^ k) (ln2Fix p)) (terms p) 0 (2 ^ p)

/-- log₂ x = n + ln g / ln 2 for x = 2^n · g, and ln g = 2 artanh((g − 1)/(g + 1)). -/
def fpLog2 (m : Mode) (x : Word) : Word :=
  match ofFp32 x with
  | .nan => nan32
  | .inf neg => if neg then nan32 else toFp32Sat m.round m.sat (.inf false)
  | .fin neg n e =>
    if n = 0 then toFp32Sat m.round m.sat (.inf true)
    else if neg then nan32
    else
      let k := Nat.log2 n
      let i : Int := e + k
      if n = 2 ^ k then toFp32Sat m.round m.sat (Exact.ofInt i)
      else
        settleOr 0x14 x m 0 fun p =>
          let z : Int := ((n : Int) - 2 ^ k) * 2 ^ p / ((n : Int) + 2 ^ k)
          i * 2 ^ p + 2 * oddSum p false z * 2 ^ p / ln2Fix p

/-- sin or cos of 2π·(a/2^k), for 0 ≤ a/2^k ≤ 1/8. -/
def trigSmall (cos : Bool) (a k p : Nat) : Int :=
  let t := fixMul p (2 * piFix p) ((a : Int) * 2 ^ p / 2 ^ k)
  if cos then trigSeries p (fixMul p t t) (terms p) 0 (2 ^ p) else trigSeries p (fixMul p t t) (terms p) 1 t

/-- sin of 2π·(a/2^k) for 0 ≤ a < 2^k, k ≥ 3, by octants. -/
def sinTurn (a k p : Nat) : Int :=
  let o := 2 ^ (k - 3)
  match a / o with
  | 0 => trigSmall false a k p
  | 1 => trigSmall true (2 * o - a) k p
  | 2 => trigSmall true (a - 2 * o) k p
  | 3 => trigSmall false (4 * o - a) k p
  | 4 => -trigSmall false (a - 4 * o) k p
  | 5 => -trigSmall true (6 * o - a) k p
  | 6 => -trigSmall true (a - 6 * o) k p
  | _ => -trigSmall false (8 * o - a) k p

/-- The fraction of a turn of `n · 2^e`, as a/2^k with k ≥ 3. -/
def turnOf (neg : Bool) (n : Nat) (e : Int) : Nat × Nat :=
  let k := max (-e).toNat 3
  let whole := 2 ^ k
  let a := (n * 2 ^ (e + k).toNat) % whole
  (if neg ∧ a ≠ 0 then whole - a else a, k)

/-- SIN2PI: zero with the sign of x at every multiple of 0.5, ±1 at odd multiples of 0.25 (R254). -/
def fpSin2pi (m : Mode) (x : Word) : Word :=
  match ofFp32 x with
  | .nan => nan32
  | .inf _ => nan32
  | .fin neg n e =>
    let (a, k) := turnOf neg n e
    let q := 2 ^ (k - 2)
    if a % (2 * q) = 0 then toFp32Sat m.round m.sat (.zero neg)
    else if a % q = 0 then toFp32Sat m.round m.sat (.fin (decide (a = 3 * q)) 1 0)
    else settleOr 0x15 x m 0 fun p => sinTurn a k p

/-- COS2PI: +0 at every odd multiple of 0.25, ±1 at multiples of 0.5 (R254). -/
def fpCos2pi (m : Mode) (x : Word) : Word :=
  match ofFp32 x with
  | .nan => nan32
  | .inf _ => nan32
  | .fin neg n e =>
    let (a, k) := turnOf neg n e
    let q := 2 ^ (k - 2)
    if a % (2 * q) = 0 then toFp32Sat m.round m.sat (.fin (decide (a = 2 * q)) 1 0)
    else if a % q = 0 then toFp32Sat m.round m.sat (.zero false)
    else settleOr 0x16 x m 0 fun p => sinTurn ((a + q) % (4 * q)) k p

def laneRcp (m : Mode) (x : DWord) : DWord := wordRes (fpRcp m (lo32 x))
def laneRsq (m : Mode) (x : DWord) : DWord := wordRes (fpRsq m (lo32 x))
def laneSqrt (m : Mode) (x : DWord) : DWord := wordRes (fpSqrt m (lo32 x))
def laneExp2 (m : Mode) (x : DWord) : DWord := wordRes (fpExp2 m (lo32 x))
def laneLog2 (m : Mode) (x : DWord) : DWord := wordRes (fpLog2 m (lo32 x))
def laneSin2pi (m : Mode) (x : DWord) : DWord := wordRes (fpSin2pi m (lo32 x))
def laneCos2pi (m : Mode) (x : DWord) : DWord := wordRes (fpCos2pi m (lo32 x))

end Sys2Proof.Machine
end

