-- ==== Sys2Proof/Machine/Lanes.lean ====
section
/-! DEFINITION. Constants, two-source and one-source arithmetic, CMP, CVT and PACK (R229 to R240, R247 to R259). -/

namespace Sys2Proof.Machine

/-! ## The frame of a result computed in the pipe -/

/-- A result written and entered in the latches (R47, R51, R231). -/
def Wave.deliver (w : Wave) (p : Path) (nw : Bool) (d : Operand) (streamed : Bool) (exec : Mask) (rs : List Lanes) :
    Wave :=
  let entries := rs.map fun r => if streamed then streamEntry exec r else uniformEntry r[0]
  let w' := if nw then w else w.writeDst d exec rs
  w'.modPath p.tag fun q => { q with latches := entries.foldl pushLatch p.latches }

/-- The state after an instruction with a result, PC advanced. -/
def State.result (s : State) (w : Wave) (p : Path) (nw : Bool) (d : Operand) (streamed : Bool) (rs : List Lanes) :
    State :=
  let exec := execMask w p
  s.modWave w.id fun x =>
    (x.deliver p nw d streamed exec rs).retire p.tag (p.pc + 4) (if streamed then streamCost exec else 1)

/-- A card that neither switches nor blocks and exists in every kind of wave. -/
def pipeCard (typeOk : Bool) (fields uniform : List Field) (body : Wave → Path → State → Result) : Card :=
  { typeOk := typeOk, priv := true, fields := fields, uniform := uniform, extra := true, switch := false,
    last := false, blocking := false, race := false, cancels := false, missed := none, irrev := false, drains := false, sync := false, body := body }

/-- Fields and class of a result to `dst` with sources `srcs`; `dsrc`: d counts among the sources (R30, R47, R232). -/
def resultFields (nw dsrc : Bool) (dst : Field) (srcs : List Field) : List Field :=
  if nw && !dsrc then srcs else dst :: srcs
/-- The fields that must not be streamed: all sources, where the destination is scalar (R30). -/
def resultUniform (nw : Bool) (dst : Field) (srcs : List Field) : List Field :=
  if !nw && isSca dst.op then srcs else []
/-- The instruction is streamed (R30). -/
def resultStreamed (nw dsrc : Bool) (dst : Field) (srcs : List Field) (p : Path) : Bool :=
  (!nw && !isSca dst.op) || srcs.any (·.streamed p) || (dsrc && dst.streamed p)

/-- The words of a result: one, or two for a pair, in every lane, or once for a uniform instruction. -/
def resultWords (pair streamed : Bool) (g : Fin 32 → DWord) : List Lanes :=
  let mk := fun (f : DWord → Word) => if streamed then lanesOf fun i => f (g i) else splat (f (g 0))
  if pair then [mk lo32, mk hi32] else [mk lo32]

/-- A result computed lane by lane. -/
def laneCard (typeOk : Bool) (nw dsrc pair : Bool) (dst : Field) (srcs : List Field)
    (g : Wave → Path → Fin 32 → DWord) : Card :=
  pipeCard typeOk (resultFields nw dsrc dst srcs) (resultUniform nw dst srcs) fun w p s =>
    let st := resultStreamed nw dsrc dst srcs p
    .next (s.result w p nw dst.op st (resultWords pair st (g w p)))

/-! ## Types -/

/-- The types i8 to ui64 (R234). -/
def intT (t : ElemType) : Bool := (intWidth? t).isSome
/-- i8 to ui64 and b32. -/
def bitsT (t : ElemType) : Bool := intT t || t == .b32
/-- i32, ui32 and b32 (R237, R238). -/
def wordT (t : ElemType) : Bool := t == .i32 || t == .ui32 || t == .b32

/-- A two-source instruction (R234). -/
def twoSource (types : ElemType → Bool) (nw dsrc : Bool) (d a b : Operand)
    (f : Mode → DWord → DWord → DWord → DWord) (_w : Wave) (p : Path) : Card :=
  let wide := isWide p.mode.type
  laneCard (types p.mode.type) nw dsrc wide (.dstOf wide d) [.srcOf wide a, .srcOf wide b]
    (fun w q i => f q.mode (srcOf wide w q a i) (srcOf wide w q b i) (if dsrc then srcOf wide w q d i else 0))

/-- A one-source instruction (R240, R253). -/
def oneSource (types : ElemType → Bool) (nw : Bool) (d a : Operand) (f : Mode → DWord → DWord) (_w : Wave)
    (p : Path) : Card :=
  let wide := isWide p.mode.type
  laneCard (types p.mode.type) nw false wide (.dstOf wide d) [.srcOf wide a]
    (fun w q i => f q.mode (srcOf wide w q a i))

/-- An error-free instruction (R252): fp32, an even d, two results. -/
def errorFree (nw : Bool) (d a b : Operand) (f : DWord → DWord → DWord) (_w : Wave) (p : Path) : Card :=
  laneCard (p.mode.type == .fp32) nw false true (.group isReg 2 2 d) [.src a, .src b]
    (fun w q i => f (srcOf false w q a i) (srcOf false w q b i))

/-- A PACK function (R259): every type, d a vector or scalar register. -/
def packCard (nw dsrc : Bool) (d a : Operand) (f : DWord → DWord → DWord) (_w : Wave) (_p : Path) : Card :=
  laneCard true nw dsrc false (.group isReg 1 1 d) [.src a]
    (fun w q i => f (srcOf false w q a i) (if dsrc then srcOf false w q d i else 0))

/-! ## Constants (R233) -/

/-- LI (R233). -/
def execLi (nw : Bool) (d : Operand) (imm : BitVec 16) (s : State) : Result :=
  runCard (.li nw d imm) (fun _ _ => laneCard true nw false false (.dstOf false d) []
    (fun _ _ _ => imm.signExtend 64)) s

/-- LIH (R233): v or s; d[15:0] is kept. -/
def execLih (nw : Bool) (d : Operand) (imm : BitVec 16) (s : State) : Result :=
  runCard (.lih nw d imm) (fun _ _ => laneCard true nw true false (.group isReg 1 1 d) []
    (fun w q i => (imm ++ ((srcLane w q d i).truncate 16 : BitVec 16)).setWidth 64)) s

/-- ADDI (R233): v or s. -/
def execAddi (nw : Bool) (d : Operand) (imm : BitVec 16) (s : State) : Result :=
  runCard (.addi nw d imm) (fun _ p =>
    let wide := isWide p.mode.type
    laneCard (bitsT p.mode.type) nw true wide (if wide then .dstOf true d else .group isReg 1 1 d) []
      (fun w q i => q.mode.intTy.fix (q.mode.intTy.read (srcOf wide w q d i) + imm.toInt))) s

/-! ## Arithmetic -/

/-- ADD (R234, R250). -/
def execAdd (nw : Bool) (d a b : Operand) (s : State) : Result :=
  runCard (.add nw d a b) (twoSource (fun m => intT m || m == .fp32 || m == .pair) nw false d a b laneAdd) s

/-- SUB (R234, R250). -/
def execSub (nw : Bool) (d a b : Operand) (s : State) : Result :=
  runCard (.sub nw d a b) (twoSource (fun m => intT m || m == .fp32 || m == .pair) nw false d a b laneSub) s

/-- MUL (R234, R250). -/
def execMul (nw : Bool) (d a b : Operand) (s : State) : Result :=
  runCard (.mul nw d a b) (twoSource (fun m => intT m || m == .fp32) nw false d a b laneMul) s

/-- MULH (R234). -/
def execMulh (nw : Bool) (d a b : Operand) (s : State) : Result :=
  runCard (.mulh nw d a b) (twoSource (fun m => intT m) nw false d a b laneMulh) s

/-- MAD (R234, R250). -/
def execMad (nw : Bool) (d a b : Operand) (s : State) : Result :=
  runCard (.mad nw d a b) (twoSource (fun m => intT m || m == .fp32) nw true d a b laneMad) s

/-- MIN (R234, R82). -/
def execMin (nw : Bool) (d a b : Operand) (s : State) : Result :=
  runCard (.min nw d a b) (twoSource (fun m => intT m || m == .fp32) nw false d a b laneMin) s

/-- MAX (R234, R82). -/
def execMax (nw : Bool) (d a b : Operand) (s : State) : Result :=
  runCard (.max nw d a b) (twoSource (fun m => intT m || m == .fp32) nw false d a b laneMax) s

/-- ADDMIN (R234, R250). -/
def execAddmin (nw : Bool) (d a b : Operand) (s : State) : Result :=
  runCard (.addmin nw d a b) (twoSource (fun m => intT m || m == .fp32) nw true d a b laneAddmin) s

/-- ADDMAX (R234, R250). -/
def execAddmax (nw : Bool) (d a b : Operand) (s : State) : Result :=
  runCard (.addmax nw d a b) (twoSource (fun m => intT m || m == .fp32) nw true d a b laneAddmax) s

/-- AND (R234). -/
def execAnd (nw : Bool) (d a b : Operand) (s : State) : Result :=
  runCard (.and nw d a b) (twoSource (fun m => bitsT m) nw false d a b laneAnd) s

/-- OR (R234). -/
def execOr (nw : Bool) (d a b : Operand) (s : State) : Result :=
  runCard (.or nw d a b) (twoSource (fun m => bitsT m) nw false d a b laneOr) s

/-- XOR (R234). -/
def execXor (nw : Bool) (d a b : Operand) (s : State) : Result :=
  runCard (.xor nw d a b) (twoSource (fun m => bitsT m) nw false d a b laneXor) s

/-- SHL (R236). -/
def execShl (nw : Bool) (d a b : Operand) (s : State) : Result :=
  runCard (.shl nw d a b) (twoSource (fun m => bitsT m) nw false d a b laneShl) s

/-- SHR (R236). -/
def execShr (nw : Bool) (d a b : Operand) (s : State) : Result :=
  runCard (.shr nw d a b) (twoSource (fun m => bitsT m) nw false d a b laneShr) s

/-- SHA (R236). -/
def execSha (nw : Bool) (d a b : Operand) (s : State) : Result :=
  runCard (.sha nw d a b) (twoSource (fun m => bitsT m) nw false d a b laneSha) s

/-- FSHL (R237). -/
def execFshl (nw : Bool) (d a b : Operand) (s : State) : Result :=
  runCard (.fshl nw d a b) (twoSource (fun m => wordT m) nw true d a b laneFshl) s

/-- FSHR (R237). -/
def execFshr (nw : Bool) (d a b : Operand) (s : State) : Result :=
  runCard (.fshr nw d a b) (twoSource (fun m => wordT m) nw true d a b laneFshr) s

/-- ROL (R237). -/
def execRol (nw : Bool) (d a b : Operand) (s : State) : Result :=
  runCard (.rol nw d a b) (twoSource (fun m => bitsT m) nw false d a b laneRol) s

/-- SEL (R238). -/
def execSel (nw : Bool) (d a b : Operand) (s : State) : Result :=
  runCard (.sel nw d a b) (twoSource (fun m => bitsT m) nw true d a b laneSel) s

/-- BFX (R238). -/
def execBfx (nw : Bool) (d a b : Operand) (s : State) : Result :=
  runCard (.bfx nw d a b) (twoSource (fun m => wordT m) nw false d a b laneBfx) s

/-- BFI (R238). -/
def execBfi (nw : Bool) (d a b : Operand) (s : State) : Result :=
  runCard (.bfi nw d a b) (twoSource (fun m => wordT m) nw true d a b laneBfi) s

/-- DIV (R235, R250). -/
def execDiv (nw : Bool) (d a b : Operand) (s : State) : Result :=
  runCard (.div nw d a b) (twoSource (fun m => intT m || m == .fp32) nw false d a b laneDiv) s

/-- REM (R235). -/
def execRem (nw : Bool) (d a b : Operand) (s : State) : Result :=
  runCard (.rem nw d a b) (twoSource (fun m => intT m) nw false d a b laneRem) s

/-- TWOSUM (R252). -/
def execTwosum (nw : Bool) (d a b : Operand) (s : State) : Result :=
  runCard (.twosum nw d a b) (errorFree nw d a b laneTwosum) s

/-- FASTTWOSUM (R252). -/
def execFasttwosum (nw : Bool) (d a b : Operand) (s : State) : Result :=
  runCard (.fasttwosum nw d a b) (errorFree nw d a b laneFasttwosum) s

/-- TWOPROD (R252). -/
def execTwoprod (nw : Bool) (d a b : Operand) (s : State) : Result :=
  runCard (.twoprod nw d a b) (errorFree nw d a b laneTwoprod) s

/-- NOT (R240). -/
def execNot (nw : Bool) (d a : Operand) (s : State) : Result :=
  runCard (.not nw d a) (oneSource (fun m => bitsT m) nw d a laneNot) s

/-- NEG (R240, R253). -/
def execNeg (nw : Bool) (d a : Operand) (s : State) : Result :=
  runCard (.neg nw d a) (oneSource (fun m => intT m || m == .fp32) nw d a laneNeg) s

/-- ABS (R240, R253). -/
def execAbs (nw : Bool) (d a : Operand) (s : State) : Result :=
  runCard (.abs nw d a) (oneSource (fun m => intT m || m == .fp32) nw d a laneAbs) s

/-- POPC (R240). -/
def execPopc (nw : Bool) (d a : Operand) (s : State) : Result :=
  runCard (.popc nw d a) (oneSource (fun m => bitsT m) nw d a lanePopc) s

/-- CLZ (R240). -/
def execClz (nw : Bool) (d a : Operand) (s : State) : Result :=
  runCard (.clz nw d a) (oneSource (fun m => bitsT m) nw d a laneClz) s

/-- CTZ (R240). -/
def execCtz (nw : Bool) (d a : Operand) (s : State) : Result :=
  runCard (.ctz nw d a) (oneSource (fun m => bitsT m) nw d a laneCtz) s

/-- BREV (R240). -/
def execBrev (nw : Bool) (d a : Operand) (s : State) : Result :=
  runCard (.brev nw d a) (oneSource (fun m => bitsT m) nw d a laneBrev) s

/-- RCP (R253, R254). -/
def execRcp (nw : Bool) (d a : Operand) (s : State) : Result :=
  runCard (.rcp nw d a) (oneSource (fun m => m == .fp32) nw d a laneRcp) s

/-- RSQ (R253, R254). -/
def execRsq (nw : Bool) (d a : Operand) (s : State) : Result :=
  runCard (.rsq nw d a) (oneSource (fun m => m == .fp32) nw d a laneRsq) s

/-- SQRT (R253, R254). -/
def execSqrt (nw : Bool) (d a : Operand) (s : State) : Result :=
  runCard (.sqrt nw d a) (oneSource (fun m => m == .fp32) nw d a laneSqrt) s

/-- EXP2 (R253, R254). -/
def execExp2 (nw : Bool) (d a : Operand) (s : State) : Result :=
  runCard (.exp2 nw d a) (oneSource (fun m => m == .fp32) nw d a laneExp2) s

/-- LOG2 (R253, R254). -/
def execLog2 (nw : Bool) (d a : Operand) (s : State) : Result :=
  runCard (.log2 nw d a) (oneSource (fun m => m == .fp32) nw d a laneLog2) s

/-- SIN2PI (R253, R254). -/
def execSin2pi (nw : Bool) (d a : Operand) (s : State) : Result :=
  runCard (.sin2pi nw d a) (oneSource (fun m => m == .fp32) nw d a laneSin2pi) s

/-- COS2PI (R253, R254). -/
def execCos2pi (nw : Bool) (d a : Operand) (s : State) : Result :=
  runCard (.cos2pi nw d a) (oneSource (fun m => m == .fp32) nw d a laneCos2pi) s

/-- FLOOR (R255). -/
def execFloor (nw : Bool) (d a : Operand) (s : State) : Result :=
  runCard (.floor nw d a) (oneSource (fun m => m == .fp32) nw d a laneFloor) s

/-- CEIL (R255). -/
def execCeil (nw : Bool) (d a : Operand) (s : State) : Result :=
  runCard (.ceil nw d a) (oneSource (fun m => m == .fp32) nw d a laneCeil) s

/-- TRUNC (R255). -/
def execTrunc (nw : Bool) (d a : Operand) (s : State) : Result :=
  runCard (.trunc nw d a) (oneSource (fun m => m == .fp32) nw d a laneTrunc) s

/-- RINT (R255). -/
def execRint (nw : Bool) (d a : Operand) (s : State) : Result :=
  runCard (.rint nw d a) (oneSource (fun m => m == .fp32) nw d a laneRint) s

/-- FRAC (R255). -/
def execFrac (nw : Bool) (d a : Operand) (s : State) : Result :=
  runCard (.frac nw d a) (oneSource (fun m => m == .fp32) nw d a laneFrac) s

/-- CLASS (R255). -/
def execClass (nw : Bool) (d a : Operand) (s : State) : Result :=
  runCard (.class nw d a) (oneSource (fun m => m == .fp32) nw d a laneClass) s

/-- PACK.XN (R58, R259). -/
def execPackXn (nw : Bool) (k : Fin 8) (d a : Operand) (s : State) : Result :=
  runCard (.packXn nw k d a) (packCard nw false d a (fun x _ => laneExtract 4 k.val x)) s

/-- PACK.XB (R58, R259). -/
def execPackXb (nw : Bool) (k : Fin 4) (d a : Operand) (s : State) : Result :=
  runCard (.packXb nw k d a) (packCard nw false d a (fun x _ => laneExtract 8 k.val x)) s

/-- PACK.XH (R58, R259). -/
def execPackXh (nw : Bool) (k : Fin 2) (d a : Operand) (s : State) : Result :=
  runCard (.packXh nw k d a) (packCard nw false d a (fun x _ => laneExtract 16 k.val x)) s

/-- PACK.IN (R58, R259): d is read as a source. -/
def execPackIn (nw : Bool) (k : Fin 8) (d a : Operand) (s : State) : Result :=
  runCard (.packIn nw k d a) (packCard nw true d a (fun x c => laneInsert 4 k.val x c)) s

/-- PACK.IB (R58, R259): d is read as a source. -/
def execPackIb (nw : Bool) (k : Fin 4) (d a : Operand) (s : State) : Result :=
  runCard (.packIb nw k d a) (packCard nw true d a (fun x c => laneInsert 8 k.val x c)) s

/-- PACK.IH (R58, R259): d is read as a source. -/
def execPackIh (nw : Bool) (k : Fin 2) (d a : Operand) (s : State) : Result :=
  runCard (.packIh nw k d a) (packCard nw true d a (fun x c => laneInsert 16 k.val x c)) s

/-! ## CMP and CVT -/

/-- CMP (R58, R239): always streamed; bit i of P[k] and l0 receive the outcome. -/
def execCmp (nw : Bool) (k : Fin 8) (c : Cond) (a b : Operand) (s : State) : Result :=
  runCard (.cmp nw k c a b) (fun _ p =>
    let wide := isWide p.mode.type
    pipeCard (condAccepts c p.mode.type) [.srcOf wide b, .srcOf wide a] [] fun w q s =>
      let t := fun i => condHolds c q.mode (srcOf wide w q a i) (srcOf wide w q b i)
      let w' := if nw then w else w.setP k (execMask w q) (maskOf t)
      .next (s.modWave w.id fun _ =>
        (w'.deliver q true (.p k) true (execMask w q) [lanesOf fun i => if t i then 1 else 0]).retire q.tag
          (q.pc + 4) (streamCost (execMask w q)))) s

/-- The conversions that exist (R257): `src` to `dst`. -/
def cvtAccepts (src dst : ElemType) : Bool :=
  let small := fun (t : ElemType) =>
    match t with
    | .fp16 | .bf16 | .fp8e4 | .fp8e5 | .fp4 => true
    | _ => false
  let base := intT dst || dst == .fp32 || small dst
  match src with
  | .fp32 => base || dst == .e8m0 || dst == .ue5m3 || dst == .pair
  | .e8m0 | .ue5m3 => dst == .fp32
  | .cb2 | .b32 => false
  | t => (intT t || small t || t == .pair) && base

/-- CVT (R256 to R258). -/
def execCvt (nw : Bool) (src : ElemType) (d a : Operand) (s : State) : Result :=
  runCard (.cvt nw src d a) (fun _ p =>
    let wide := isWide p.mode.type
    let wsrc := isWide src
    laneCard (cvtAccepts src p.mode.type) nw false wide (.dstOf wide d) [.srcOf wsrc a]
      (fun w q i => laneCvt src q.mode (srcOf wsrc w q a i))) s

end Sys2Proof.Machine
end

