-- ==== Sys2Proof/Machine/Window.lean ====
section
/-! DEFINITION. The scratchpad: the cluster window (R35), remap entries (R160), barrier words (R162), local
queues (R164). -/

namespace Sys2Proof.Machine

/-- The workgroup of a gang that stands on core slot k (R24, R35). -/
def State.slotWg? (s : State) (gang k : Nat) : Option Workgroup := do
  (← s.gang? gang).wgs.find? fun g => g.core.val % 4 == k

/-- The fields of a remap entry (R160). -/
structure Remap where
  flip : Bool
  en : Bool
  alt : Nat
  len : Nat
  base : Nat
  deriving DecidableEq, Repr

def Remap.ofWord (w : Word) : Remap :=
  { flip := w.getLsbD 31, en := w.getLsbD 30, alt := bitsOf w.toNat 29 20, len := bitsOf w.toNat 19 10,
    base := bitsOf w.toNat 9 0 }

def Remap.inBase (r : Remap) (u : Nat) : Bool := decide (r.base ≤ u ∧ u < r.base + r.len)
def Remap.inAlt (r : Remap) (u : Nat) : Bool := decide (r.alt ≤ u ∧ u < r.alt + r.len)

/-- Where an offset of an allocation stands (R160): the lowest-numbered enabled entry that covers its unit decides.
`hidden` takes the half that is not visible. -/
def Workgroup.remapped (g : Workgroup) (hidden : Bool) (o : Nat) : Nat :=
  let u := o / 768
  match (g.remap.toList.map Remap.ofWord).find? fun r => r.en && (r.inBase u || r.inAlt u) with
  | none => o
  | some r =>
    if r.flip == hidden then o
    else if r.inBase u then o + 768 * r.alt - 768 * r.base
    else o + 768 * r.base - 768 * r.alt

/-- The checks of R35 over a range, in their order over all bytes together. -/
def State.windowCheck (s : State) (gang o n : Nat) : Except TrapCode Unit :=
  let bytes := (List.range n).map (o + ·)
  if bytes.any fun a => decide (2 ^ 22 ≤ a) || decide (0xC0000 ≤ a % 2 ^ 20) then .error .memFault
  else if bytes.any fun a => (s.slotWg? gang (a / 2 ^ 20)).isNone then .error .memProt
  else if bytes.any fun a =>
      match s.slotWg? gang (a / 2 ^ 20) with | some g => decide (g.size ≤ a % 2 ^ 20) | none => true then
    .error .memProt
  else .ok ()

/-- The checks of a naturally aligned access of n bytes (R161). -/
def State.windowAligned (s : State) (gang o n : Nat) : Except TrapCode Unit := do
  s.windowCheck gang o n
  if o % n = 0 then pure () else .error .memAlign

/-- The core and the physical offset of a window offset that passes the checks. -/
def State.windowPlace? (s : State) (gang : Nat) (hidden : Bool) (o : Nat) : Option (Fin 256 × Nat) := do
  let g ← s.slotWg? gang (o / 2 ^ 20)
  return (g.core, g.base + g.remapped hidden (o % 2 ^ 20))

/-- One byte read through the window. -/
def State.windowByte (s : State) (gang o : Nat) : Byte :=
  match s.windowPlace? gang false o with
  | some (c, p) => (s.core c).scratch.read p
  | none => 0

/-- A byte of a range of the window is uncorrectable (R221). -/
def State.windowLost (s : State) (gang o n : Nat) : Bool :=
  !s.struck.isEmpty && (List.range n).any fun i => match s.windowPlace? gang false (o + i) with
    | some (c, p) => s.lostIn c .scratch p 1
    | none => false

/-- Bytes read through the window. -/
def State.readWindow (s : State) (gang o n : Nat) : List Byte := (List.range n).map fun i => s.windowByte gang (o + i)

/-- One byte written through the window. -/
def State.writeWindowByte (s : State) (gang : Nat) (hidden : Bool) (o : Nat) (b : Byte) : State :=
  match s.windowPlace? gang hidden o with
  | some (c, p) => (s.modCore c fun k => { k with scratch := k.scratch.write p b }).heal c .scratch p 1
  | none => s

/-- Bytes written through the window. -/
def State.writeWindow (s : State) (gang : Nat) (hidden : Bool) (o : Nat) (bs : List Byte) : State :=
  (bs.zipIdx o).foldl (fun s (b, a) => s.writeWindowByte gang hidden a b) s

/-! ## Barrier words (R162) -/

/-- The phase of a barrier word. -/
def barPhase (x : Nat) : Nat := bitsOf x 62 48
/-- The word is valid. -/
def barValid (x : Nat) : Bool := decide (bitsOf x 63 63 = 0 ∧ 1 ≤ bitsOf x 31 0 ∧ bitsOf x 31 0 ≤ 65535)
/-- The word after an arrival of count n. -/
def barWordArrive (x n : Nat) : Nat :=
  let exp := bitsOf x 31 0
  let arr := bitsOf x 47 32 + n
  let (ph, ar) := if exp ≤ arr then ((barPhase x + 1) % 32768, 0) else (barPhase x, arr)
  bitsOf x 63 63 * 2 ^ 63 + ph * 2 ^ 48 + ar % 65536 * 2 ^ 32 + exp

/-- The barrier word at a window offset. -/
def State.barWord (s : State) (gang o : Nat) : Nat := leNat (s.readWindow gang o 8)

/-- An arrival at the word at a physical offset of a core's scratchpad: one step at the bank. -/
def State.arriveAt (s : State) (c : Fin 256) (p n : Nat) : State :=
  (s.modCore c fun k =>
    { k with scratch := k.scratch.writeN p (leBytes 8 (barWordArrive (leNat (k.scratch.readN p 8)) n)) }).heal c .scratch p 8

/-! ## Local queues (R164) -/

/-- A record appended to a queue. -/
def State.pushQueue (s : State) (c : Fin 256) (q : Fin 16) (r : Lanes) : State :=
  s.modCore c fun k => { k with queues := k.queues.set q (k.queues[q] ++ [r]) }

/-- The oldest record removed. -/
def State.popQueue (s : State) (c : Fin 256) (q : Fin 16) : State :=
  s.modCore c fun k => { k with queues := k.queues.set q k.queues[q].tail }

end Sys2Proof.Machine
end

