-- ==== Sys2Proof/Machine/Mem.lean ====
section
/-! DEFINITION. What the memory families share: holds (R154 to R156), the checks of every lane before any access
(R152), deferred results at issue (R54), stores and loads at the L1, in a version, in a deterministic store buffer
and in a combiner's staging copy (R142, R186, R309, R134). -/

namespace Sys2Proof.Machine

/-! ## Holds -/

/-- The values that the hold waits for have arrived. -/
def Wave.loadsDone (w : Wave) (ids : List Nat) : Bool :=
  ids.all fun i => !(w.inflight.any fun x => x.id == i && !x.settled)

/-- Commands that have landed leave the engine. -/
def State.commandsDone (s : State) (c : Fin 256) (ids : List Nat) : Bool :=
  ids.all fun i => !((s.core c).engine.any fun x => x.id == i)

/-- Everything the hold waits for has been performed. -/
def State.holdDone (s : State) (w : Wave) (h : Hold) : Bool :=
  h.deps.all s.performed && w.loadsDone h.loads && s.commandsDone w.core h.commands && s.netDone h.netOps

/-- Holds that are over are dropped; that of a FENCE with ld then acquires (R155). -/
def State.settleHolds (s : State) (id : Nat) : State :=
  match s.wave? id with
  | none => s
  | some w =>
    let done := w.holds.filter (s.holdDone w)
    let s := if done.any (·.acquire) then s.acquireL1 w.core else s
    s.modWave id fun x => { x with holds := x.holds.filter fun h => !(s.holdDone w h) }

/-- A hold begins. -/
def State.addHold (s : State) (id : Nat) (h : Hold) : State :=
  (s.modWave id fun w => { w with holds := w.holds ++ [h] }).settleHolds id

/-- The line that a message to a home concerns. -/
def HomeOp.line : HomeOp → Nat
  | .fill sec _ => sec / 4
  | .read _ l => l.pa / 128
  | .write pa _ => pa / 128
  | .sector pa _ _ _ => pa / 128
  | .atomic a => a.pa / 128
  | .comb c => c.obj / 128
  | .clean l => l
  | .inval l => l

/-- The lines that a direct access concerns: a COMB may write its object's eight. -/
def HomeOp.lines (o : HomeOp) : List Nat :=
  match o with
  | .comb c => (List.range 8).map (c.obj / 1024 * 8 + ·)
  | _ => [o.line]

/-- The lines that a direct access writes. -/
def HomeOp.writes (o : HomeOp) (line : Nat) : Bool :=
  match o with
  | .comb _ | .write .. | .atomic _ => o.lines.contains line
  | _ => false

/-! ## The memory queue (R154, R155, R205, R327, R408) -/

/-- The lines that a queued access touches. -/
def ReleaseAct.lines : ReleaseAct → List Nat
  | .store ms => ms.flatMap (·.2.lines)
  | .load _ l | .reads _ l => l.map (·.pa / 128)
  | .plain l => l.map (·.2.2.1 / 128)
  | .clean _ _ l | .prefetch l => l.map (· / 128)
  | _ => []

/-- A queued access of the scratchpad. -/
def ReleaseAct.scratch : ReleaseAct → Bool
  | .lds .. | .sts .. => true
  | _ => false

/-- Accesses of the wave to these lines that have not been performed and that a later one must not pass (R168): those in the
queue, and direct ones that write. -/
def State.busyIds (s : State) (w : Nat) (lines : List Nat) : List Nat :=
  ((s.messages.filter fun m => m.req.wave == w && lines.any m.op.writes).map (·.id))
    ++ ((s.releases.filter fun r => r.req.wave == w && r.act.lines.any lines.contains).map (·.id))
    ++ lines.flatMap fun line =>
      let h := s.home (homeOf (line * 128))
      let mine := fun (q : CombReq) => if q.req.wave = w ∧ q.obj / 1024 = line / 8 then [q.msg] else []
      h.combQ.flatMap mine ++ (match h.batch with | some b => b.reqs.flatMap mine | none => [])

/-- Scratchpad accesses of the wave that wait in the queue: a later one does not pass them. -/
def State.scratchIds (s : State) (w : Nat) : List Nat :=
  (s.releases.filter fun r => r.req.wave == w && r.act.scratch).map (·.id)

/-- The wave has an access to the line that has not been performed (R168). -/
def State.lineBusy (s : State) (w : Nat) (line : Nat) : Bool := !(s.busyIds w [line]).isEmpty

/-- The buffer-map entry that a virtual address of the wave resolves through (R148, R197). -/
def State.bmapIndex? (s : State) (w : Wave) (ea : Nat) : Option Nat :=
  match s.pageOf w.core w.asid (ea / 65536) with
  | .ok e => if e.bmi && e.names then some e.frame else none
  | .error _ => none

/-- The remap entry that a window offset resolves through: workgroup and index (R160). -/
def State.remapIndex? (s : State) (gang o : Nat) : Option (Nat × Nat) := do
  let g ← s.gang? gang
  let k ← g.wgs.findIdx? fun x => x.core.val % 4 == o / 2 ^ 20
  let x ← g.wgs[k]?
  let u := o % 2 ^ 20 / 768
  let e ← (x.remap.toList.map Remap.ofWord).findIdx? fun r => r.en && (r.inBase u || r.inAlt u)
  return (k, e)

/-- An access to these virtual addresses and window offsets resolves through an entry that is being published (R205). -/
def State.through (s : State) (w : Wave) (eas offs : List Nat) (e : Bool × Nat × Nat) : Bool :=
  if e.1 then offs.any fun o => s.remapIndex? w.gang o == some e.2 else eas.any fun ea => s.bmapIndex? w ea == some e.2.2

/-- What a hold waits for. -/
def Hold.waits (h : Hold) : Waits :=
  { Waits.none with deps := h.deps, loads := h.loads, commands := h.commands, netOps := h.netOps, resolve := h.through.isSome }

/-- The holds of the wave that an access of these classes, to these addresses, stands behind. -/
def State.holdsOn (s : State) (w : Wave) (cls : List AccessClass) (eas offs : List Nat) : List Hold :=
  (((s.wave? w.id).map (·.holds)).getD []).filter fun h =>
    h.classes.any cls.contains && (match h.through with | none => true | some e => s.through w eas offs e)

/-- An access of these classes waits. -/
def State.held (s : State) (w : Wave) (cls : List AccessClass) (eas offs : List Nat) : Bool :=
  !(s.holdsOn w cls eas offs).isEmpty

/-- The wave's later global accesses wait until its task is irrevocable (R327). -/
def State.isOutgrown (s : State) (w : Wave) : Bool := ((s.wave? w.id).map (·.outgrown)).getD false

/-- What a global access of the wave waits for in the memory queue: the holds that it stands behind, its earlier accesses to
these lines, and irrevocability. [DEDUCED, log 123, safe] -/
def State.globalWaits (s : State) (w : Wave) (cls : List AccessClass) (eas lines : List Nat) : Waits :=
  let x := (s.holdsOn w cls eas []).foldl (fun x h => x.join h.waits) Waits.none
  { x with deps := x.deps ++ s.busyIds w.id lines.eraseDups, irrevocable := s.isOutgrown w }

/-- What a scratchpad access of the wave waits for. [DEDUCED, log 123, safe] -/
def State.scratchWaits (s : State) (w : Wave) (offs : List Nat) : Waits :=
  let x := (s.holdsOn w [.scratch] [] offs).foldl (fun x h => x.join h.waits) Waits.none
  { x with deps := x.deps ++ s.scratchIds w.id }

/-- Nothing to wait for. -/
def Waits.isNone (x : Waits) : Bool :=
  x.deps.isEmpty && x.loads.isEmpty && x.commands.isEmpty && x.netOps.isEmpty && !x.irrevocable && !x.resolve

/-- Everything these waits name is over. -/
def State.waitsDone (s : State) (r : Requester) (x : Waits) : Bool :=
  x.deps.all s.performed && (match s.wave? r.wave with | some w => w.loadsDone x.loads | none => true)
    && s.commandsDone r.core x.commands && s.netDone x.netOps && !x.irrevocable

/-! ## Checks -/

/-- Outcomes of the lanes' checks, ascending: every lane passes, or the trap of the lowest failing lane (R152,
R324). `whole` is the mask reported for the one access of a uniform instruction. -/
def collectLanes {α : Type} (l : List (Fin 32 × Nat × Except TrapCode α)) (whole : Option Mask) :
    Except TrapInfo (List (Fin 32 × Nat × α)) :=
  match l.findSome? fun x => match x.2.2 with | .error c => some (x.2.1, c) | .ok _ => none with
  | some (ea, c) =>
    let same := fun i => l.any fun x => x.1 == i && (match x.2.2 with | .error d => d == c | .ok _ => false)
    .error (TrapInfo.mem c (whole.getD (maskOf same)) ea)
  | none => .ok (l.filterMap fun x => match x.2.2 with | .ok v => some (x.1, x.2.1, v) | .error _ => none)

/-- The checks of one address (R152, R126, R88, R91, R107, R417). -/
def State.place (s : State) (w : Wave) (ea align : Nat) (acc : Rights) : Except TrapCode Nat :=
  if 2 ^ 55 ≤ ea then .error .memFault
  else if ea % align ≠ 0 then .error .memAlign
  else
    match s.translate w ea acc with
    | .error e => .error e
    | .ok pa =>
      if acc.wr && inExpanded pa then .error .windowWrite
      else if s.crosses w.part pa then .error .boundary
      else if s.backed pa then .ok pa
      else .error .memFault

/-- The batch that a combiner wave runs. -/
def State.batchOf? (s : State) (w : Wave) : Option (Fin 128 × Batch) :=
  match w.kind with
  | .combiner h => (s.home h).batch.map fun b => (h, b)
  | _ => none

/-- The checks of an offset in the object (R134). -/
def Batch.place (b : Batch) (ea n align : Nat) : Except TrapCode Nat :=
  if 128 * b.nlines < ea + n then .error .memFault
  else if ea % align ≠ 0 then .error .memAlign
  else .ok ea

/-- The checks of a plain access of n bytes, in the object or in global memory. -/
def State.placeAny (s : State) (w : Wave) (ea n align : Nat) (acc : Rights) : Except TrapCode Nat :=
  match s.batchOf? w with
  | some (_, b) => b.place ea n align
  | none => s.place w ea align acc

/-- The partition-local window check of a scratch access (R161): the window offset where it passes. -/
def State.placeScratch (s : State) (w : Wave) (o n : Nat) : Except TrapCode Nat :=
  match s.windowAligned w.gang o n with
  | .ok _ => .ok o
  | .error e => .error e

/-! ## Types and operands -/

/-- Width of an access by type (R151). -/
def accessWidth? : ElemType → Option Nat
  | .i8 | .ui8 | .fp8e4 | .fp8e5 | .e8m0 | .ue5m3 => some 1
  | .i16 | .ui16 | .fp16 | .bf16 | .cb2 => some 2
  | .i32 | .ui32 | .fp32 | .b32 => some 4
  | .i64 | .ui64 | .pair => some 8
  | .fp4 => none

/-- The types whose offsets are sign-extended (R151). -/
def offsetSigned : ElemType → Bool
  | .i8 | .i16 | .i32 | .i64 => true
  | _ => false

/-- The value loaded into a lane is sign-extended (R151). -/
def loadSigned : ElemType → Bool
  | .i8 | .i16 => true
  | _ => false

/-- The value of a lane from its bytes (R151). -/
def loadValue (signed : Bool) (n : Nat) (bs : List Byte) : DWord :=
  let x := leNat bs
  if signed && decide (2 ^ (8 * n - 1) ≤ x) then BitVec.ofNat 64 (2 ^ 32 + x - 2 ^ (8 * n)) else BitVec.ofNat 64 x

/-- ea of a lane (R152). -/
def laneEa (w : Wave) (p : Path) (a b : Operand) (i : Fin 32) : Nat :=
  let o := srcLane w p b i
  (scalar64 w a + (if offsetSigned p.mode.type then o.signExtend 64 else o.setWidth 64)).toNat

/-- Window offset of a lane (R161). -/
def laneOffset (w : Wave) (p : Path) (a b : Operand) (i : Fin 32) : Nat := (srcUni w p a + srcLane w p b i).toNat

/-- The offset operand of a memory access. -/
def offsetField (b : Operand) : Field := { op := b, allow := fun o => isSrc o && !isPred o, align := 1, span := 1, latches := 1 }

/-- The lanes that act: lane 0 for the one access of a uniform instruction. -/
def actLanes (uni : Bool) (exec : Mask) : List (Fin 32) := if uni then [0] else lanesIn exec

/-! ## Deferred results at issue -/

/-- A deferred result with nothing in it. -/
def Inflight.new (id : Nat) (kind : DeferKind) (dst : List RegName) (uni : Bool) (mask : Mask) (pc : Nat) : Inflight :=
  { id := id, kind := kind, dst := dst, uniform := uni, mask := mask, vals := dst.map fun _ => splat 0, waiting := [],
    due := 0, failed := [], acquire := none, pc := pc }

/-- The registers of a destination. -/
def dstRegs (wide : Bool) (d : Operand) : List RegName := (Field.group isReg 1 (if wide then 2 else 1) d).regs

/-- The instruction retires, its destinations pending (R54). -/
def State.defer (s : State) (w : Wave) (p : Path) (x : Inflight) (cost : Nat) : State :=
  s.modWave w.id fun w =>
    ({ w with inflight := w.inflight ++ [x] }.modPath p.tag fun q =>
      { q with pending := q.pending ++ x.dst.filter fun r => !q.pending.contains r }).retire p.tag (p.pc + 4) cost

/-! ## Deterministic store buffers (R309) -/

/-- The byte that the wave has written in this period. -/
def WaveDet.byte? (d : WaveDet) (scratch : Option (Fin 256)) (a : Nat) : Option Byte :=
  d.buffer.reverse.findSome? fun b =>
    if b.scratch = scratch ∧ b.addr ≤ a then b.bytes[a - b.addr]? else none

/-- Distinct 32-byte sectors of a buffer. -/
def bufferSectors (l : List BufWrite) : List (Option (Fin 256) × Nat) :=
  (l.flatMap fun b => (List.range b.bytes.length).map fun i => (b.scratch, (b.addr + i) / 32)).eraseDups

/-! ## Translation at issue -/

/-- The pages of these addresses that no TLB holds are walked (R148, R149): each line of a table is read at its home, after
the core's copy of it has been written back and dropped (R141). [DESIGN CHOICE, log 30, unsafe] -/
def State.walked (s : State) (w : Wave) (eas : List Nat) : State :=
  (eas.map (· / 65536)).eraseDups.foldl (fun s page =>
    if (s.tlb? w.core w.asid page).isSome then s
    else
      let lines := s.walkLines (s.coreBytes w.core) w.asid (page * 65536)
      (lines.foldl (fun s l => s.evictL1 w.core l) s).readLines lines w.asid w.master) s

/-! ## Stores -/

/-- The staging copy of a batch written. -/
def State.stage (s : State) (h : Fin 128) (pa : Nat) (bs : List Byte) : State :=
  s.modHome h fun x => { x with batch := x.batch.map fun (b : Batch) => { b with staged := b.staged.writeN pa bs } }

/-- Checked stores as the queue keeps them: tag, effective and physical address, bytes. -/
abbrev Stores := List (Option RaceTag × Nat × Nat × List Byte)

/-- Plain stores performed at the L1 in their order (R142, R152). -/
def State.performStores (s : State) (q : Requester) (l : Stores) : State :=
  l.foldl (fun s x => s.storeBytes q x.1 x.2.2.1 x.2.2.2) s

/-- The sectors that stores touch. -/
def Stores.sectors (l : Stores) : List Nat := (l.flatMap fun x => (List.range x.2.2.2.length).map fun i => (x.2.2.1 + i) / 32).eraseDups

/-- What the stores of a task in task mode do to its version: their sectors become the version's, or the task outgrows it and
these stores, with every later global access, wait until it is irrevocable (R327). [DEDUCED, log 122, unsafe; DEDUCED, log 136, unsafe] -/
def State.claimFor (s : State) (w : Wave) (x : Waits) (secs : List Nat) : Waits × State :=
  match s.versionOf? w with
  | none => (x, s)
  | some v =>
    if x.irrevocable then (x, s)
    else if s.outgrows v secs then ({ x with irrevocable := true }, s.modWave w.id fun y => { y with outgrown := true })
    else (x, s.claim v secs)

/-- The global sectors that buffered writes touch. -/
def globalSectors (ws : List BufWrite) : List Nat := (bufferSectors ws).filterMap fun x => if x.1.isNone then some x.2 else none

/-- Writes enter the store buffer, or end the quantum where they do not fit (R306). Those that a task's version has no room for
stay held there until the task is irrevocable (R327). [DEDUCED, log 122, unsafe] -/
def State.detStore (s : State) (w : Wave) (p : Path) (d : WaveDet) (ws : List BufWrite) (cost : Nat) : Result :=
  let (x, t) := s.claimFor w { Waits.none with irrevocable := s.isOutgrown w } (globalSectors ws)
  let ws := ws.map fun b => { b with held := x.irrevocable && b.scratch.isNone }
  if 256 < (bufferSectors ((d.buffer ++ ws).filter fun b => !b.held)).length then .next (s.block .period)
  else
    .next ((t.modWave w.id fun y =>
      { y with det := y.det.map fun (z : WaveDet) => { z with buffer := z.buffer ++ ws } }).advance p cost)

/-- Plain stores of a wave outside deterministic mode, at the L1 or in the queue. -/
def State.issueStores (s : State) (w : Wave) (x : Waits) (l : Stores) : State :=
  let (x, s) := s.claimFor w x l.sectors
  let q := s.requester w ((l.head?.map (·.2.1)).getD 0)
  if x.isNone then s.performStores q l else (s.enqueue q x (.plain l)).2

/-- Checked plain stores performed in ascending lane order (R152, R309, R134). -/
def State.storeAll (s : State) (w : Wave) (p : Path) (tagged : Bool) (ws : List (Fin 32 × Nat × List (Nat × List Byte)))
    (cost : Nat) : Result :=
  let flat : Stores := ws.flatMap fun (_, ea, l) => l.map fun (pa, bs) => (if tagged then some (s.stampOf w ea) else none, ea, pa, bs)
  match s.batchOf? w with
  | some (h, _) => .next ((flat.foldl (fun s (_, _, pa, bs) => s.stage h pa bs) s).advance p cost)
  | none =>
    let s := s.walked w (flat.map (·.2.1))
    match w.det with
    | some d => s.detStore w p d (flat.map fun (tag, _, pa, bs) => { scratch := none, addr := pa, bytes := bs, tag := tag }) cost
    | none =>
      let s := s.settleHolds w.id
      let x := s.globalWaits w [.store] (flat.map (·.2.1)) (flat.map fun y => y.2.2.1 / 128)
      .next ((if flat.isEmpty then s else s.issueStores w x flat).advance p cost)

/-! ## Loads -/

/-- The byte of the wave's own that a load sees whatever the home holds: dirty in the L1 under its own version, of its
version at the homes, or dirty in the L1 outside every version (R142, R186). -/
def State.ownByte (s : State) (w : Wave) (pa : Nat) : Option Byte :=
  let x := (s.core w.core).sector (pa / 32)
  let dirty := if x.dirty && x.mask.getLsbD (pa % 32) then some (byteAt x.bytes (pa % 32)) else none
  if x.ver == w.ver? && dirty.isSome then dirty
  else
    match (s.versionOf? w).bind (·.byte? pa) with
    | some b => some b
    | none => if x.ver.isNone then dirty else none

/-- The bytes of a lane, those of the wave's own before the others. -/
def LaneWait.merge (x : LaneWait) (f : Nat → Byte) : List Byte :=
  (List.range x.width).map fun i => match x.own[i]?.join with | some b => b | none => f i

/-- The value of a lane. -/
def LaneWait.value (x : LaneWait) (f : Nat → Byte) : DWord := loadValue x.signed x.width (x.merge f)

/-- The value of a lane that the L1 serves: every byte is the wave's own, or the sector holds all bytes and none of another
version, and no earlier load of the wave waits for it (R142, R168). -/
def State.l1Hit? (s : State) (w : Wave) (x : LaneWait) : Option DWord :=
  let sec := (s.core w.core).sector (x.pa / 32)
  if x.own.all (·.isSome) then some (x.value fun _ => 0)
  else if sec.full && sec.visible w.ver? && !(w.inflight.any fun y => y.waiting.any fun z => z.pa / 32 == x.pa / 32) then
    some (x.value fun i => byteAt sec.bytes ((x.pa + i) % 32))
  else none

/-- A failed lane of a deferred result. -/
def lostInfo (e : LineErr) (ea : Nat) : TrapInfo := TrapInfo.mem e.trap 0 ea

/-- A lane read at once from its home, under the wave's own bytes. -/
def State.readNow (s : State) (x : LaneWait) : Except LineErr DWord :=
  if x.own.all (·.isSome) then .ok (x.value fun _ => 0)
  else match s.homeBytes x.pa x.width with
    | .ok bs => .ok (x.value fun i => bs.getD i 0)
    | .error e => .error e

/-- A lane of a deferred result answered at once. -/
def Inflight.answer (f : Inflight) (x : LaneWait) (r : Except LineErr DWord) : Inflight :=
  match r with
  | .ok v => f.arrive x.lane v
  | .error e => f.fail x.lane (lostInfo e x.ea)

/-- One lane of a plain load at the L1. -/
def State.l1Load (s : State) (w : Wave) (f : Inflight) (x : LaneWait) : Inflight :=
  match s.l1Hit? w x with
  | some v => f.arrive x.lane v
  | none => { f with waiting := f.waiting ++ [x] }

/-- Fills asked for the sectors that a load waits for, one message a sector (R142, R115). Dirty bytes of another version that a
sector holds are written back first (R142). -/
def State.askFills (s : State) (w : Wave) (f : Inflight) : State :=
  let secs := (f.waiting.map fun x => x.pa / 32).eraseDups
  secs.foldl (fun s sec =>
    let ea := ((f.waiting.find? fun x => x.pa / 32 == sec).map (·.ea)).getD 0
    let r := s.requester w ea
    let r := if f.kind = .loadAcquire then r.untagged else r
    let s := if ((s.core w.core).sector sec).visible w.ver? then s else s.writebackSector w.core sec
    ((s.post r (homeOf (32 * sec)) (.fill sec (some f.id))).2).count (.core w.core) 0x14 1) s

/-- The recently used end of the L1 after the lines a load touched (R140). -/
def State.touchLoaded (s : State) (c : Fin 256) (xs : List LaneWait) : State :=
  xs.foldl (fun s x => s.modCore c fun k => k.touchL1 (x.pa / 128)) s

/-- The wave's own bytes of a lane as they are now. -/
def State.ownBytes (s : State) (w : Wave) (pa n : Nat) : List (Option Byte) :=
  (List.range n).map fun k =>
    match w.det with
    | some d => match d.byte? none (pa + k) with
      | some b => some b
      | none => (s.versionOf? w).bind (·.byte? (pa + k))
    | none => s.ownByte w (pa + k)

/-- The lanes of a load as waits: address, width, extension, and the wave's own bytes. -/
def State.laneWaits (s : State) (w : Wave) (t : ElemType) (n : Nat) (l : List (Fin 32 × Nat × Nat)) : List LaneWait :=
  l.map fun (i, ea, pa) =>
    { lane := i, ea := ea, pa := pa, width := n, signed := loadSigned t, own := s.ownBytes w pa n }

/-- A plain load performed at the L1: what it answers at once, and what it asks for. -/
def State.loadL1 (s : State) (w : Wave) (f : Inflight) (xs : List LaneWait) : Inflight × State :=
  let f := xs.foldl (fun f x => s.l1Load w f x) f
  (f, (s.touchLoaded w.core xs).askFills w f)

/-- The mask of some lanes. -/
def maskOfLanes (l : List (Fin 32)) : Mask := maskOf fun i => l.contains i

/-- A load that waits in the queue: every lane's reply is due. -/
def Inflight.queued (f : Inflight) (xs : List LaneWait) : Inflight := { f with due := maskOfLanes (xs.map (·.lane)) }

/-- A checked plain load issued (R152): a combiner wave reads its staging copy, a deterministic wave the state of the
last period, any other its L1, or it waits in the queue. [DEDUCED, log 16, unsafe] -/
def State.loadAll (s : State) (w : Wave) (p : Path) (f : Inflight) (n : Nat) (l : List (Fin 32 × Nat × Nat))
    (cost : Nat) : Result :=
  match s.batchOf? w with
  | some (_, b) =>
    let f := l.foldl (fun f (i, _, o) => f.arrive i (loadValue (loadSigned p.mode.type) n (b.staged.readN o n))) f
    .next (s.defer w p f cost)
  | none =>
    let s := s.walked w (l.map (·.2.1))
    let xs := s.laneWaits w p.mode.type n l
    if w.isDet then
      let lines := (l.map (·.2.2 / 128)).eraseDups
      if !s.servesAll lines then s.stall
      else .next ((s.readLines lines w.asid w.master).defer w p (xs.foldl (fun f x => f.answer x (s.readNow x)) f) cost)
    else
      let x := s.globalWaits w [.load] (l.map (·.2.1)) (l.map (·.2.2 / 128))
      if x.isNone || l.isEmpty then
        let (f, s) := s.loadL1 w f xs
        .next (s.defer w p f cost)
      else
        .next (((s.enqueue (s.requester w 0) x (.load f.id xs)).2).defer w p (f.queued xs) cost)

end Sys2Proof.Machine
end

