-- ==== Sys2Proof/Machine/Global.lean ====
section
/-! DEFINITION. Global loads and stores, fences, cache operations, monitors, and the scratchpad (R151 to R161). -/

namespace Sys2Proof.Machine

/-- A wave of a launched kernel or of a system context (R134, R166). -/
def onlyLaunched (w : Wave) : Bool := w.kind == .launched
/-- Not a combiner wave (R134). -/
def notCombiner (w : Wave) : Bool := match w.kind with | .combiner _ => false | _ => true
/-- Not a producer micro-program (R166). -/
def notProducer (w : Wave) : Bool := w.kind != .producer

/-- The even scalar register of an address pair (R151). -/
def baseField (a : Operand) : Field := .group isSca 2 2 a
/-- A register, or the even register of a pair. -/
def regField (wide : Bool) (d : Operand) : Field := if wide then .group isReg 2 2 d else .group isReg 1 1 d
/-- The types of LDACQ and STREL (R154). -/
def syncType (t : ElemType) : Bool :=
  match t with
  | .i32 | .ui32 | .fp32 | .b32 | .i64 | .ui64 | .pair => true
  | _ => false

/-! ## Loads -/

/-- The lanes of a load with their places, or the trap of the lowest failing one (R152). -/
def State.loadLanes (s : State) (w : Wave) (p : Path) (uni : Bool) (exec : Mask) (n : Nat) (a b : Operand) :
    Except TrapInfo (List (Fin 32 × Nat × Nat)) :=
  collectLanes ((actLanes uni exec).map fun i =>
    let ea := laneEa w p a b i
    (i, ea, s.placeAny w ea n n .r)) (if uni then some p.mask else none)

/-- The fields of a load. -/
def loadFields (wide : Bool) (d a b : Operand) : List Field := [regField wide d, baseField a, offsetField b]

/-- LD (R151, R152). -/
def execLd (d a b : Operand) (s : State) : Result :=
  runCard (.ld d a b) (fun _ p =>
    let wide := isWide p.mode.type
    let uni := isSca d
    pipeCard (accessWidth? p.mode.type).isSome (loadFields wide d a b) (if uni then [offsetField b] else [])
      fun w p s =>
        let n := (accessWidth? p.mode.type).getD 4
        let exec := if uni then p.mask else execMask w p
        match s.loadLanes w p uni exec n a b with
        | .error info => .next (s.trap w p (wordOfInstr (.ld d a b)) info)
        | .ok l =>
          let (id, s) := (s.settleHolds w.id).fresh
          s.loadAll w p (.new id .load (dstRegs wide d) uni exec p.pc) n l (if uni then 1 else streamCost exec)) s

/-- Requests for a load performed at the homes (R141, R154). -/
def State.sendReads (s : State) (w : Wave) (id : Nat) (xs : List LaneWait) : State :=
  xs.foldl (fun s x => ((s.beforeDirect w.core x.pa).post (s.requester w x.ea).untagged (homeOf x.pa) (.read id x)).2) s

/-- LDACQ (R154). -/
def execLdacq (d a b : Operand) (s : State) : Result :=
  runCard (.ldacq d a b) (fun w p =>
    let wide := isWide p.mode.type
    let uni := isSca d
    pipeCard (onlyLaunched w && syncType p.mode.type) (loadFields wide d a b) (if uni then [offsetField b] else [])
      fun w p s =>
        let n := (accessWidth? p.mode.type).getD 4
        let exec := if uni then p.mask else execMask w p
        let cost := if uni then 1 else streamCost exec
        match s.loadLanes w p uni exec n a b with
        | .error info => .next (s.trap w p (wordOfInstr (.ldacq d a b)) info)
        | .ok l =>
          let (id, s) := (s.settleHolds w.id).fresh
          let f := Inflight.new id .loadAcquire (dstRegs wide d) uni exec p.pc
          let hold : Hold := { classes := [.load], through := none, deps := [], loads := [id], commands := [], netOps := [],
                               acquire := false }
          if w.isDet then s.loadAll w p f n l cost
          else if p.mode.scope = .wg then
            match s.loadAll w p f n l cost with
            | .next s => .next (s.addHold w.id hold)
            | r => r
          else
            let s := s.walked w (l.map (·.2.1))
            let x := s.globalWaits w [.load] (l.map (·.2.1)) (l.map (·.2.2 / 128))
            let xs := s.laneWaits w p.mode.type n l
            let s := if x.isNone then
                let s := l.foldl (fun s x => s.beforeDirect w.core x.2.2) s
                s.sendReads w id xs
              else if l.isEmpty then s
              else (s.enqueue (s.requester w 0) x (.reads id xs)).2
            .next ((s.defer w p { f.queued xs with acquire := some p.mode.scope } cost).addHold w.id hold)) s

/-! ## Stores -/

/-- The bytes of a lane's value. -/
def valueBytes (w : Wave) (p : Path) (wide : Bool) (n : Nat) (d : Operand) (i : Fin 32) : List Byte :=
  leBytes n (srcOf wide w p d i).toNat

/-- The lanes of a store with the bytes they write, or the trap of the lowest failing one (R152). -/
def State.storeLanes (s : State) (w : Wave) (p : Path) (exec : Mask) (wide : Bool) (n : Nat) (d a b : Operand) :
    Except TrapInfo (List (Fin 32 × Nat × List (Nat × List Byte))) :=
  collectLanes ((lanesIn exec).map fun i =>
    let ea := laneEa w p a b i
    (i, ea, (s.placeAny w ea n n .w).map fun pa => [(pa, valueBytes w p wide n d i)])) none

/-- The value field of a store (R151). -/
def valueField (wide : Bool) (d : Operand) : Field := if wide then .group isReg 2 2 d else .src d

/-- ST (R151, R152). -/
def execSt (d a b : Operand) (s : State) : Result :=
  runCard (.st d a b) (fun w p =>
    let wide := isWide p.mode.type
    pipeCard (notProducer w && (accessWidth? p.mode.type).isSome) [valueField wide d, baseField a, offsetField b] []
      fun w p s =>
        let n := (accessWidth? p.mode.type).getD 4
        let exec := execMask w p
        match s.storeLanes w p exec wide n d a b with
        | .error info => .next (s.trap w p (wordOfInstr (.st d a b)) info)
        | .ok l => s.storeAll w p true l (streamCost exec)) s

/-- Every page that these bytes touch is translated (R152), those of an object by its own checks (R134). -/
def State.translateAll (s : State) (w : Wave) (eas : List Nat) : Except TrapCode Unit :=
  if (s.batchOf? w).isSome then .ok ()
  else eas.forM fun ea => do
    let _ ← s.translate w ea .w

/-- The bytes that a lane of STM writes, with their places: those whose mask bit is set. Every page is translated before the
further checks of any (R152). -/
def State.maskedBytes (s : State) (w : Wave) (d : Operand) (ea : Nat) (i : Fin 32) :
    Except TrapCode (List (Nat × List Byte)) :=
  match d with
  | .v r =>
    if 2 ^ 55 ≤ ea ∧ (s.batchOf? w).isNone then .error .memFault
    else do
      let js := (List.range 4).filter fun j => ((w.vreg (r.val + 1))[i]).getLsbD j
      s.translateAll w (js.map (ea + ·))
      js.mapM fun j => do
        let pa ← s.placeAny w (ea + j) 1 1 .w
        return (pa, [((w.v[r][i]) >>> (8 * j)).setWidth 8])
  | _ => .ok []

/-- STM (R151, R152). -/
def execStm (d a b : Operand) (s : State) : Result :=
  runCard (.stm d a b) (fun w _ =>
    pipeCard (notProducer w) [.group isVec 2 2 d, baseField a, offsetField b] []
      fun w p s =>
        let exec := execMask w p
        let l := collectLanes ((lanesIn exec).map fun i =>
          let ea := laneEa w p a b i
          (i, ea, s.maskedBytes w d ea i)) none
        match l with
        | .error info => .next (s.trap w p (wordOfInstr (.stm d a b)) info)
        | .ok l => s.storeAll w p true l (streamCost exec)) s

/-- The store of STREL: it leaves for the homes, or at wg scope for the L1, once the release and what holds it are over
(R154). [DESIGN CHOICE, log 26, safe] -/
def State.storeRelease (s : State) (w : Wave) (scope : Scope) (l : Stores) : State :=
  let (deps, net, s) := s.releaseDeps w scope
  let x := s.globalWaits w [.store] (l.map (·.2.1)) (l.map fun y => y.2.2.1 / 128)
  let (x, s) := s.claimFor w (x.join { Waits.none with deps := deps, netOps := net }) l.sectors
  let q := (s.requester w 0).untagged
  if scope = .wg then if x.isNone then s.performStores q l else (s.enqueue q x (.plain l)).2
  else (s.enqueue q x (.store (l.map fun y => (homeOf y.2.2.1, HomeOp.write y.2.2.1 y.2.2.2)))).2

/-- STREL (R154): a release whose store leaves once the release is complete, while the wave goes on. [DESIGN CHOICE, log 26, safe] -/
def execStrel (d a b : Operand) (s : State) : Result :=
  runCard (.strel d a b) (fun w p =>
    let wide := isWide p.mode.type
    { pipeCard (onlyLaunched w && syncType p.mode.type) [valueField wide d, baseField a, offsetField b] []
      (fun w p s =>
        let n := (accessWidth? p.mode.type).getD 4
        let exec := execMask w p
        match s.storeLanes w p exec wide n d a b with
        | .error info => .next (s.trap w p (wordOfInstr (.strel d a b)) info)
        | .ok l =>
          if w.isDet then s.storeAll w p true l (streamCost exec)
          else
            let flat : Stores := l.flatMap fun (_, ea, bs) => bs.map fun (pa, b) => (none, ea, pa, b)
            let s := (s.settleHolds w.id).walked w (flat.map (·.2.1))
            .next ((s.storeRelease w p.mode.scope flat).advance p (streamCost exec))) with race := true }) s

/-! ## FENCE (R155) -/

/-- What the earlier accesses of the selected paths must have performed, after the drain that st starts. -/
def State.fenceHold (s : State) (w : Wave) (f : FencePaths) (scope : Scope) : Hold × State :=
  let (wb, _, s) := if f.st then s.releaseDeps w scope else ([], [], s)
  let ofKind := fun (ks : List DeferKind) => (w.inflight.filter fun x => ks.contains x.kind).map (·.id)
  let loads := (if f.ld then ofKind [.load, .loadAcquire, .atomic, .comb] else [])
    ++ (if f.scr then ofKind [.lds] else [])
  let cmds := if f.eng then ((s.core w.core).engine.filter fun c => c.req.wave == w.id).map (·.id) else []
  let net := if f.net then (s.fabric.ops.filter fun o => o.wave == w.id).map (·.id) else []
  let scr := (if f.scr then s.directOf w.id else [])
    ++ (if f.eng then (s.publishes.filter fun x => x.req.wave == w.id).map (·.id) else [])
  let cls := (if f.ld then [AccessClass.load] else []) ++ (if f.st then [.store] else [])
    ++ (if f.scr then [.scratch] else []) ++ (if f.eng then [.engine] else []) ++ (if f.net then [.net] else [])
  ({ classes := cls, through := none, deps := wb ++ scr, loads := loads, commands := cmds, netOps := net,
     acquire := f.ld && scope != .wg }, s)

/-- FENCE (R155, R311). -/
def execFence (paths : FencePaths) (scope : Scope) (s : State) : Result :=
  runCard (.fence paths scope) (fun w _ =>
    { pipeCard (onlyLaunched w) [] []
      (fun w p s =>
        if w.isDet then .next (s.advance p 1)
        else
          let (h, s) := s.fenceHold w paths scope
          .next ((s.addHold w.id h).advance p 1)) with race := paths.st }) s

/-! ## PREF, CLEAN, INVAL (R156) -/

/-- The address of a lane in a pair. -/
def pairEa (w : Wave) (p : Path) (a : Operand) (i : Fin 32) : Nat := (src64 w p a i).toNat

/-- The checks of CLEAN and INVAL: rd or wr, expanded views accepted (R108, R148, R156). -/
def State.placeClean (s : State) (w : Wave) (ea : Nat) : Except TrapCode Nat :=
  if 2 ^ 55 ≤ ea then .error .memFault
  else
    match (match s.translate w ea .r with | .error .memProt => s.translate w ea .w | r => r) with
    | .error e => .error e
    | .ok pa =>
      if s.crosses w.part pa then .error .boundary else if inExpanded pa || s.backed pa then .ok pa else .error .memFault

/-- The sectors of a line that the L1 does not hold whole asked for; a prefetch (R156). [DESIGN CHOICE, log 25, safe] -/
def State.prefetch (s : State) (q : Requester) (pa : Nat) : State :=
  ([0, 1, 2, 3].filter fun i => !((s.core q.core).sector (4 * (pa / 128) + i)).full).foldl (fun s i =>
    (s.post q (homeOf pa) (.fill (4 * (pa / 128) + i) none)).2) s

/-- PREF: never traps (R148, R156). [DESIGN CHOICE, log 25, safe] -/
def execPref (a : Operand) (s : State) : Result :=
  runCard (.pref a) (fun w _ =>
    pipeCard (onlyLaunched w) [.group isReg 2 2 a] []
      fun w p s =>
        let uni := isSca a
        let exec := execMask w p
        let l := (actLanes uni exec).filterMap fun i =>
          let ea := pairEa w p a i
          match s.place w ea 1 .r with
          | .ok pa => some (ea, pa)
          | .error _ => none
        let s := (s.settleHolds w.id).walked w (l.map (·.1))
        let x := s.globalWaits w [.load] (l.map (·.1)) (l.map (·.2 / 128))
        let q := (s.requester w 0).untagged
        let s := if l.isEmpty then s
          else if x.isNone then l.foldl (fun s y => s.prefetch q y.2) s
          else (s.enqueue q x (.prefetch (l.map (·.2)))).2
        .next (s.advance p (if uni then 1 else streamCost exec))) s

/-- The ids of the write-backs of a line that are on their way. -/
def State.lineWritebacks (s : State) (c : Fin 256) (line : Nat) : List Nat :=
  (s.messages.filter fun m => m.req.core == c && m.op.line == line &&
    (match m.op with | .sector .. => true | _ => false)).map (·.id)

/-- CLEAN and INVAL of one line at a scope: what the wave's later accesses wait for (R156). -/
def State.cleanLine (s : State) (q : Requester) (scope : Scope) (drop : Bool) (pa : Nat) : List Nat × State :=
  let line := pa / 128
  let s := if drop then s.evictL1 q.core line else s.writebackL1 q.core line
  let wb := s.lineWritebacks q.core line
  if scope = .dev ∨ scope = .pod then
    let (id, s) := s.post q (homeOf pa) (if drop then .inval line else .clean line)
    (wb ++ [id], s)
  else (wb, s)

/-- CLEAN and INVAL of some lines. -/
def State.cleanLines (s : State) (q : Requester) (scope : Scope) (drop : Bool) (pas : List Nat) : List Nat × State :=
  pas.foldl (fun (ds, s) pa =>
    let (d, s) := s.cleanLine q scope drop pa
    (ds ++ d, s)) (([] : List Nat), s)

/-- The card of CLEAN and INVAL. [DEDUCED, log 24, safe] -/
def cleanCard (i : Instr) (drop : Bool) (a : Operand) (w : Wave) (_p : Path) : Card :=
  pipeCard (onlyLaunched w) [.group isReg 2 2 a] []
    fun w p s =>
      let uni := isSca a
      let exec := execMask w p
      let l := collectLanes ((actLanes uni exec).map fun j =>
        let ea := pairEa w p a j
        (j, ea, s.placeClean w ea)) (if uni then some p.mask else none)
      match l with
      | .error info => .next (s.trap w p (wordOfInstr i) info)
      | .ok l =>
        let s := (s.settleHolds w.id).walked w (l.map (·.2.1))
        let pas := l.map (·.2.2)
        let x := s.globalWaits w [.load, .store] (l.map (·.2.1)) (pas.map (· / 128))
        let q := (s.requester w 0).untagged
        let (deps, s) := if x.isNone then s.cleanLines q p.mode.scope drop pas
          else if pas.isEmpty then ([], s)
          else
            let (id, s) := s.enqueue q x (.clean p.mode.scope drop pas)
            ([id], s)
        .next ((s.addHold w.id { classes := [.load, .store], through := none, deps := deps, loads := [], commands := [],
                                 netOps := [], acquire := false }).advance p (if uni then 1 else streamCost exec))

/-- CLEAN (R156). [DEDUCED, log 24, safe] -/
def execClean (a : Operand) (s : State) : Result := runCard (.clean a) (cleanCard (.clean a) false a) s

/-- INVAL (R156). [DEDUCED, log 24, safe] -/
def execInval (a : Operand) (s : State) : Result := runCard (.inval a) (cleanCard (.inval a) true a) s

/-! ## MONITOR and MWAIT (R157) -/

/-- MONITOR. -/
def execMonitor (a : Operand) (s : State) : Result :=
  runCard (.monitor a) (fun w _ =>
    pipeCard (notCombiner w) [baseField a] []
      fun w p s =>
        let ea := (scalar64 w a).toNat
        match (if 2 ^ 55 ≤ ea then .error .memFault else s.translate w ea .r) with
        | .error c => .next (s.trap w p (wordOfInstr (.monitor a)) (TrapInfo.mem c p.mask ea))
        | .ok pa =>
          .next (((s.walked w [ea]).modWave w.id fun x =>
            { x with watch := some { line := pa / 128, fired := false, entry := false } }).advance p 1)) s

/-- MWAIT. -/
def execMwait (s : State) : Result :=
  runCard .mwait (fun w _ =>
    { pipeCard (notCombiner w) [] []
      (fun w p s =>
        let wake := w.wakePending || (match w.watch with | some x => x.fired | none => true)
        if p.stage = .woken || (wake && !w.isDet) then .next ((s.modWave w.id fun x => { x with watch := none, wakePending := false }).advance p 1)
        else .next (s.block .watch)) with switch := true, blocking := true }) s

/-! ## The scratchpad (R161) -/

/-- Bytes of the scratchpad as a wave reads them: a deterministic wave's own first (R309). -/
def State.scratchBytes (s : State) (w : Wave) (o n : Nat) : List Byte :=
  (List.range n).map fun i =>
    match w.det, s.windowPlace? w.gang false (o + i) with
    | some d, some (c, q) => (d.byte? (some c) q).getD ((s.core c).scratch.read q)
    | _, _ => s.windowByte w.gang (o + i)

/-- Scratch loads performed for a deferred result: lane, window offset, width, extension. -/
def State.performLds (s : State) (w : Wave) (f : Inflight) (l : List (Fin 32 × Nat × Nat × Bool)) : Inflight :=
  l.foldl (fun (f : Inflight) (i, o, n, sg) => f.arrive i (loadValue sg n (s.scratchBytes w o n))) f

/-- Scratch stores performed in their order. -/
def State.performSts (s : State) (gang : Nat) (l : List (Nat × List Byte)) : State :=
  l.foldl (fun s (o, bs) => s.writeWindow gang false o bs) s

/-- Scratch accesses of one instruction that find their bank taken by another of its accesses are counted at the scratchpad's core
(R158, R423). [DESIGN CHOICE, log 50, unsafe] -/
def State.countConflicts (s : State) (gang : Nat) (offs : List Nat) : State :=
  let hits := offs.filterMap fun o => (s.windowPlace? gang false o).map fun (c, q) => (c, q / 8 % 96)
  (hits.map (·.1)).eraseDups.foldl (fun s c =>
    let mine := hits.filter fun h => h.1 == c
    s.count (.core c) 0x16 (mine.length - mine.eraseDups.length)) s

/-- LDS (R161). -/
def execLds (d a b : Operand) (s : State) : Result :=
  runCard (.lds d a b) (fun w p =>
    let wide := isWide p.mode.type
    let uni := isSca d
    pipeCard (onlyLaunched w && (accessWidth? p.mode.type).isSome)
      [regField wide d, .group isSca 1 1 a, offsetField b] (if uni then [offsetField b] else [])
      fun w p s =>
        let n := (accessWidth? p.mode.type).getD 4
        let exec := if uni then p.mask else execMask w p
        let l := collectLanes ((actLanes uni exec).map fun i =>
          let o := laneOffset w p a b i
          (i, o, s.placeScratch w o n)) (if uni then some p.mask else none)
        match l with
        | .error info => .next (s.trap w p (wordOfInstr (.lds d a b)) info)
        | .ok l =>
          let (id, s) := (s.settleHolds w.id).fresh
          let f := Inflight.new id .lds (dstRegs wide d) uni exec p.pc
          let xs := l.map fun (i, o, _) => (i, o, n, loadSigned p.mode.type)
          let cost := if uni then 1 else streamCost exec
          let x := s.scratchWaits w (l.map (·.2.1))
          let s := s.countConflicts w.gang (l.map (·.2.1))
          .next (if w.isDet || x.isNone || l.isEmpty then s.defer w p (s.performLds w f xs) cost
            else ((s.enqueue (s.requester w 0) x (.lds id xs)).2).defer w p { f with due := maskOfLanes (l.map (·.1)) } cost)) s

/-- STS (R161). -/
def execSts (d a b : Operand) (s : State) : Result :=
  runCard (.sts d a b) (fun w p =>
    let wide := isWide p.mode.type
    pipeCard (onlyLaunched w && (accessWidth? p.mode.type).isSome)
      [valueField wide d, .group isSca 1 1 a, offsetField b] []
      fun w p s =>
        let n := (accessWidth? p.mode.type).getD 4
        let exec := execMask w p
        let l := collectLanes ((lanesIn exec).map fun i =>
          let o := laneOffset w p a b i
          (i, o, s.placeScratch w o n)) none
        match l with
        | .error info => .next (s.trap w p (wordOfInstr (.sts d a b)) info)
        | .ok l =>
          let cost := streamCost exec
          let s := s.countConflicts w.gang (l.map (·.2.1))
          match w.det with
          | some dt =>
            let ws := l.flatMap fun (i, o, _) => ((valueBytes w p wide n d i).zipIdx o).filterMap fun (x, k) =>
              (s.windowPlace? w.gang false k).map fun (c, q) => ({ scratch := some c, addr := q, bytes := [x], tag := none } : BufWrite)
            s.detStore w p dt ws cost
          | none =>
            let s := s.settleHolds w.id
            let ws := l.map fun (i, o, _) => (o, valueBytes w p wide n d i)
            let x := s.scratchWaits w (l.map (·.2.1))
            let s := if x.isNone then s.performSts w.gang ws
              else if l.isEmpty then s
              else (s.enqueue (s.requester w 0) x (.sts ws)).2
            .next (s.advance p cost)) s

end Sys2Proof.Machine
end

