-- ==== Sys2Proof/Machine/Control.lean ====
section
/-! DEFINITION. Control flow: modes, branches, calls, jump tables, EXIT (R17, R271 to R278), TRAP and the CSR group
(R342, R343). -/

namespace Sys2Proof.Machine

/-! ## Words that are no instructions, NOP, MODE, YIELD -/

/-- A reserved opcode (R57). -/
def execIllegal (word : Word) (s : State) : Result :=
  match s.cursor? with
  | none => .fault .noCurrentPath
  | some c => .next (s.trap c.w c.p word (.plain .illegalOp))

/-- NOP (R278). -/
def execNop (s : State) : Result :=
  runCard .nop (fun _ _ => pipeCard true [] [] fun _ p s => .next (s.advance p 1)) s

/-- MODE (R17). -/
def execMode (imm : BitVec 16) (s : State) : Result :=
  runCard (.mode imm) (fun _ _ =>
    { pipeCard true [] [] (fun _ p s =>
        match Mode.ofWord? imm with
        | some m => .next ((s.modCurPath fun q => { q with mode := m }).advance p 1)
        | none => .next (s.advance p 1)) with extra := (Mode.ofWord? imm).isSome }) s

/-- YIELD (R278). -/
def execYield (s : State) : Result :=
  runCard .yield (fun w _ => pipeCard (notCombiner w) [] [] fun w p s =>
    .next (((s.advance p 1).youngest w.id).modWave w.id fun x => { x with heldCycles := 0 })) s

/-! ## BR, JMP, JPT, CALL, RET -/

/-- PC plus 4 times a signed word offset, in 55 bits (R260). -/
def pcOffset (pc : Nat) (off : BitVec 25) : Nat := (((pc : Int) + 4 * off.toInt) % 2 ^ 55).toNat

/-- A pipe's holder set (R31). -/
def State.setHolder (s : State) (w : Wave) (t : Tag) : State :=
  if notCombiner w then { s with holders := SMap.insert s.holders (32 * w.core.val + w.pipe.val) (w.id, t) } else s

/-- A split of the path (R263 to R265, R333): no save area where it must spill freezes the wave first; `outside` are
lanes that arrive at once (R277). The first arm keeps the pipe. [DEDUCED, log 19, safe] -/
def State.split (s : State) (w : Wave) (p : Path) (join : Nat) (arms : List (Nat × Mask)) (outside : Mask)
    (cost : Nat) : State :=
  if w.kind == .launched && w.resident ≥ 8 && !s.hasSaveArea w.asid then s.freezeWave w 8 0
  else
    let dual := notCombiner w && !w.isDet && !(w.splits.any (·.dual)) && decide (w.resident < 8) && decide (2 ≤ arms.length)
      && s.dualFree w.core w.pipe
    let num := w.splits.length + 1
    let s := s.modWave w.id fun w =>
      let w := (w.retire p.tag p.pc cost).splitInto p join arms dual
      match w.splits with
      | e :: rest =>
        let e' : Split := { e with arrived := outside, armPending := if outside = 0 then [] else p.pending }
        { w with splits := e' :: rest }
      | [] => w
    (s.setHolder w ⟨num, 0⟩).count (.core w.core) (if dual then 0x12 else 0x13) 1

/-- A split that sends lanes backwards, if `back`: what a taken backward branch brings with it, for the arms that run (R273). -/
def State.splitBack (s : State) (w : Wave) (back : Bool) : State :=
  if back && (s.wave? w.id).any (fun x => x.frozen.isNone) then s.wentBack w (fun t => t.entry == w.splits.length + 1) 1 else s

/-- The first arm holds the lowest lane (R264). -/
def byLowLane (a b : Nat × Mask) : List (Nat × Mask) :=
  if ((lowLane a.2).map (·.val)).getD 32 ≤ ((lowLane b.2).map (·.val)).getD 32 then [a, b] else [b, a]

/-- BR (R271). -/
def execBr (off : BitVec 25) (s : State) : Result :=
  runCard (.br off) (fun w p =>
    let back := decide (off.toInt ≤ 0) && execMask w p != 0
    { pipeCard true [] []
      (fun w p s =>
        let T := pcOffset p.pc off
        let F := (p.pc + 4) % 2 ^ 55
        let J := p.jp.getD (if 0 < off.toInt then T else F)
        let tk := execMask w p
        let nt := p.mask &&& ~~~tk
        let joined := fun (s : State) => s.modCurPath fun q => { q with jp := none, wj := some J }
        if nt = 0 then .next ((joined s).goTo w p T 1)
        else if tk = 0 then .next ((joined s).retireTo F 1)
        else
          .next ((s.split w p J (byLowLane (T, tk) (F, nt)) 0 1).splitBack w back)) with
      switch := true, cancels := back }) s

/-- JMP (R272). -/
def execJmp (off : BitVec 25) (s : State) : Result :=
  runCard (.jmp off) (fun _ _ =>
    let back := decide (off.toInt ≤ 0)
    { pipeCard true [] [] (fun w p s => .next (s.goTo w p (pcOffset p.pc off) 1)) with
      switch := back, cancels := back }) s

/-- JPT (R272). -/
def execJpt (off : BitVec 25) (s : State) : Result :=
  runCard (.jpt off) (fun _ _ => pipeCard true [] [] fun _ p s =>
    .next ((s.modCurPath fun q => { q with jp := some (pcOffset p.pc off) }).advance p 1)) s

/-- A trap of the return stack (R274, R275, R324). -/
def stackTrap (c : TrapCode) (w : Wave) : TrapInfo :=
  { TrapInfo.plain c with info := BitVec.ofNat 32 w.returns.length }

/-- CALL (R274). -/
def execCall (off : BitVec 25) (s : State) : Result :=
  runCard (.call off) (fun w _ =>
    { pipeCard (onlyLaunched w) [] [] (fun w p s =>
        if 16 ≤ w.returns.length then .next (s.trap w p (wordOfInstr (.call off)) (stackTrap .callDepth w))
        else
          .next ((s.modWave w.id fun x => { x with returns := ((p.pc + 4) % 2 ^ 55, p.tag) :: x.returns }).retireTo
            (pcOffset p.pc off) 1)) with switch := true }) s

/-- Removes the first element that satisfies a test. -/
def dropFirst {α : Type} (f : α → Bool) : List α → List α
  | [] => []
  | x :: l => if f x then l else x :: dropFirst f l

/-- The target of RET, and whether an entry is popped (R275). [DEDUCED, log 17, unsafe] -/
def retTarget (w : Wave) (p : Path) (a : Operand) : Except TrapInfo (Nat × Bool) :=
  match a with
  | .s r => .ok (w.base + (w.s[r]).toNat, false)
  | .v r =>
    let v := ((lowLane p.mask).map fun i => w.v[r][i]).getD 0
    if (lanesIn p.mask).all fun i => w.v[r][i] == v then .ok (w.base + v.toNat, false)
    else .error (stackTrap .retDiverge w)
  | _ =>
    match w.returns.find? fun e => e.2 == p.tag with
    | some e => .ok (e.1, true)
    | none => .error (stackTrap .retEmpty w)

/-- RET (R275). -/
def execRet (a : Operand) (s : State) : Result :=
  runCard (.ret a) (fun w _ =>
    { pipeCard (onlyLaunched w) [.group (fun o => isReg o || o == .zero) 1 1 a] []
      (fun w p s =>
        match retTarget w p a with
        | .error info => .next (s.trap w p (wordOfInstr (.ret a)) info)
        | .ok (t, pop) =>
          if t % 4 ≠ 0 then .next (s.trap w p (wordOfInstr (.ret a)) (TrapInfo.mem .memAlign p.mask t))
          else
            let t := t % 2 ^ 55
            match (if t ≤ p.pc then s.cancelNow? w else none) with
            | some info => .next (s.trap w p (wordOfInstr (.ret a)) info)
            | none =>
              let s := if pop then s.modWave w.id fun x => { x with returns := dropFirst (fun e => e.2 == p.tag) x.returns }
                else s
              .next (s.goTo w p t 1)) with switch := true }) s

/-! ## JTAB (R276, R277) -/

/-- Why a JTAB does not go on: it traps, or the L1 lacks a part of the table, which some lanes name. -/
inductive TableStop where
  | trap (i : TrapInfo)
  | need (x : LaneWait) (lanes : Mask)

/-- A part of the table as a plain load of the wave finds it (R276, R142): in its L1, or, in deterministic mode, as the last
period left it. A failure is that of these lanes. [DESIGN CHOICE, log 18, safe] -/
def State.tableRead (s : State) (w : Wave) (ea n : Nat) (lanes : Mask) : Except TableStop Nat :=
  match s.place w ea 1 .r with
  | .error c => .error (.trap (TrapInfo.mem c lanes ea))
  | .ok pa =>
    let x : LaneWait := { lane := (lowLane lanes).getD 0, ea := ea, pa := pa, width := n, signed := false, own := s.ownBytes w pa n }
    if w.isDet then
      match s.readNow x with
      | .ok v => .ok v.toNat
      | .error e => .error (.trap (TrapInfo.mem e.trap lanes ea))
    else match s.l1Hit? w x with
      | some v => .ok v.toNat
      | none => .error (.need x lanes)

/-- What the checks of JTAB yield: the join, and the groups with their lowest index, target and lanes. -/
structure JumpPlan where
  join : Nat
  groups : List (Nat × Nat × Mask)

/-- A group joined by a lane. -/
def addToGroups (gs : List (Nat × Nat × Mask)) (x t : Nat) (i : Fin 32) : List (Nat × Nat × Mask) :=
  let bit : Mask := 1#32 <<< i.val
  if gs.any fun g => g.2.1 == t then
    gs.map fun g => if g.2.1 = t then (min g.1 x, t, g.2.2 ||| bit) else g
  else gs ++ [(x, t, bit)]

/-- Groups in ascending order of their lowest index (R277). -/
def insertGroup (g : Nat × Nat × Mask) : List (Nat × Nat × Mask) → List (Nat × Nat × Mask)
  | [] => [g]
  | h :: l => if g.1 ≤ h.1 then g :: h :: l else h :: insertGroup g l

/-- The trap JTAB_RANGE (R324). -/
def jtabRange (kind : BitVec 8) (out : Mask) (n tb : Nat) : TrapInfo :=
  { TrapInfo.plain .jtabRange with kind := kind, mask := out, info := BitVec.ofNat 32 n, addr := BitVec.ofNat 64 tb }

/-- The checks of R276 in their order. [DESIGN CHOICE, log 18, safe] -/
def State.jumpPlan (s : State) (w : Wave) (p : Path) (a b : Operand) : Except TableStop JumpPlan := do
  let exec := execMask w p
  let tb := (scalar64 w b).toNat
  if 2 ^ 55 ≤ tb then .error (.trap (TrapInfo.mem .memFault exec tb))
  if tb % 8 ≠ 0 then .error (.trap (TrapInfo.mem .memAlign exec tb))
  let hdr ← s.tableRead w tb 8 exec
  let n := bitsOf hdr 15 0
  if n = 0 ∨ 1024 < n ∨ bitsOf hdr 31 16 ≠ 0 ∨ bitsOf hdr 33 32 ≠ 0 then .error (.trap (jtabRange 2 0 n tb))
  let idx := fun i => (srcLane w p a i).toNat
  let out := maskOf fun i => inMask exec i && decide (n ≤ idx i)
  if out ≠ 0 then .error (.trap (jtabRange 1 out n tb))
  let offs ← (lanesIn exec).mapM fun i => do
    let x ← s.tableRead w (tb + 8 + 4 * idx i) 4 (maskOf fun j => inMask exec j && idx j == idx i)
    pure (i, x)
  if offs.any fun x => x.2 % 4 ≠ 0 then .error (.trap (jtabRange 2 0 n tb))
  let groups := offs.foldl (fun gs (i, off) => addToGroups gs (idx i) ((w.base + off) % 2 ^ 55) i) []
  return { join := (w.base + bitsOf hdr 63 32) % 2 ^ 55, groups := groups.foldr insertGroup [] }

/-- The addresses of the table that a JTAB may read. -/
def tableEas (w : Wave) (p : Path) (a b : Operand) : List Nat :=
  let tb := (scalar64 w b).toNat
  tb :: ((lanesIn (execMask w p)).filter fun i => decide ((srcLane w p a i).toNat < 1024)).map fun i =>
    tb + 8 + 4 * (srcLane w p a i).toNat

/-- The reads of the table wait: they are held, or an earlier access of the wave to their lines has not been performed. In
deterministic mode a home holds them back (R133). [DESIGN CHOICE, log 18, safe] -/
def State.tableHeld (s : State) (w : Wave) (p : Path) (a b : Operand) : Bool :=
  let eas := tableEas w p a b
  let lines := eas.filterMap fun ea => match s.place w ea 1 .r with | .ok pa => some (pa / 128) | .error _ => none
  if w.isDet then !s.servesAll lines
  else s.held w [.load] eas [] || lines.any (s.lineBusy w.id)

/-- The read of the table that this JTAB has asked for. -/
def Wave.tableWait? (w : Wave) (p : Path) : Option Inflight := w.inflight.find? fun x => x.kind == .table && x.pc == p.pc

/-- The read leaves the wave. -/
def Wave.endTable (w : Wave) (p : Path) : Wave := { w with inflight := w.inflight.filter fun x => !(x.kind == .table && x.pc == p.pc) }

/-- A part of the table asked for as a plain load (R142, R176), of which these lanes take the failures. -/
def State.askTable (s : State) (w : Wave) (p : Path) (x : LaneWait) (lanes : Mask) : State :=
  let (id, s) := s.fresh
  let f := { Inflight.new id .table [] true lanes p.pc with waiting := [x] }
  (s.modWave w.id fun y => { y with inflight := y.inflight ++ [f] }).askFills w f

/-- The lines of the table become the most recently used, of the L1 or, in deterministic mode, of the homes. -/
def State.touchTable (s : State) (w : Wave) (p : Path) (a b : Operand) : State :=
  let pas := (tableEas w p a b).filterMap fun ea => match s.place w ea 1 .r with | .ok pa => some pa | .error _ => none
  if w.isDet then s.readLines (pas.map (· / 128)) w.asid w.master
  else pas.foldl (fun s pa => s.modCore w.core fun k => k.touchL1 (pa / 128)) s

/-- JTAB (R276, R277). It holds its pipe while its L1 is filled with the table. [DESIGN CHOICE, log 18, safe] -/
def execJtab (a b : Operand) (s : State) : Result :=
  runCard (.jtab a b) (fun w _ =>
    { pipeCard (onlyLaunched w) [{ op := a, allow := fun o => isSrc o && !isPred o, align := 1, span := 1, latches := 1 },
        baseField b] []
      (fun w p s =>
        let s := s.settleHolds w.id
        let t := w.tableWait? p
        let w' := w.endTable p
        let s' := if t.isSome then s.modWave w.id fun x => x.endTable p else s
        if s.tableHeld w p a b || t.any (fun x => !x.arrived) then s.stall
        else
          match (t.bind fun x => x.failed.head?), s'.jumpPlan w' p a b with
          | some f, _ => .next (s'.trap w' p (wordOfInstr (.jtab a b)) f.info)
          | none, .error (.trap info) => .next (s'.trap w' p (wordOfInstr (.jtab a b)) info)
          | none, .error (.need x lanes) => (s'.askTable w' p x lanes).stall
          | none, .ok plan =>
            let s := (s'.walked w (tableEas w p a b)).touchTable w p a b
            let outside := p.mask &&& ~~~(execMask w p)
            let joined := fun (s : State) => s.modCurPath fun q => { q with jp := none, wj := some plan.join }
            match (if plan.groups.any fun g => decide (g.2.1 ≤ p.pc) then s.cancelNow? w else none) with
            | some info => .next (s.trap w p (wordOfInstr (.jtab a b)) info)
            | none =>
              match plan.groups with
              | [] => .next ((joined s).retireTo plan.join 1)
              | [g] =>
                if outside = 0 then .next ((joined s).goTo w p g.2.1 1)
                else .next ((s.split w p plan.join [(g.2.1, g.2.2)] outside 1).splitBack w (decide (g.2.1 ≤ p.pc)))
              | gs =>
                .next ((s.split w p plan.join (gs.map fun g => (g.2.1, g.2.2)) outside 1).splitBack w
                  (gs.any fun g => decide (g.2.1 ≤ p.pc)))) with switch := true }) s

/-! ## EXIT (R278) -/

/-- Every other wave of the workgroup has ended. -/
def State.lastOfWg (s : State) (w : Wave) : Bool :=
  (s.wgWaves w.gang w.wg).all fun x => x.id == w.id || x.exited

/-- The wave has commands or array operations that have not landed or failed (R189). -/
def State.endCommands (s : State) (w : Wave) : Bool :=
  ((s.core w.core).engine.any fun c => c.req.wave == w.id) || ((s.core w.core).arrayQ.any fun e => e.req.wave == w.id)

/-- What the end of a wave still waits for: its engine commands (R189), its loads, and at the last wave of a
workgroup its release at dev scope (R178). -/
def State.endWaits (s : State) (w : Wave) : Bool :=
  w.kind == .launched && (s.endCommands w || (!w.isDet && s.lastOfWg w && !s.releaseReady w .dev))

/-- The lanes of a mask end on the executing path, which continues at `pc` (R267, R278); a wave without lanes leaves its
barriers (R299). -/
def State.endExec (s : State) (w : Wave) (p : Path) (m : Mask) (pc : Nat) : State :=
  let s := s.modWave w.id fun w =>
    let w := (w.retire p.tag pc 1).endLanes p m
    if w.liveMask = 0 then { w with exited := true } else w
  if w.liveMask &&& ~~~m = 0 then s.barLeave w else s

/-- An end of lanes that is the wave's last still waits for the duties of the wave's end (R178, R189). -/
def State.endStalls (s : State) (w : Wave) (m : Mask) : Bool := w.liveMask &&& ~~~m == 0 && s.endWaits w

/-- The instruction waits for those duties off its pipe (R278), its release started; in deterministic mode its quantum ends,
so that its commands come due (R306, R316). -/
def State.endStall (s : State) (w : Wave) : Result :=
  if w.isDet then
    .next ((s.block .period).modWave w.id fun x => { x with det := x.det.map fun (d : WaveDet) => { d with tried := true } })
  else .next ((if s.lastOfWg w then (s.releaseDeps w .dev).2.2 else s).block .ending)

/-- EXIT (R278). -/
def execExit (s : State) : Result :=
  runCard .exit (fun w p =>
    let last := execMask w p != 0 && w.liveMask &&& ~~~(execMask w p) == 0
    { pipeCard (notCombiner w) [] []
      (fun w p s =>
        let m := execMask w p
        if m = 0 then .next (s.advance p 1)
        else if s.endStalls w m then s.endStall w
        else .next (s.endExec w p m (p.pc + 4))) with
      switch := last, last := last, race := true, cancels := last }) s

/-! ## TRAP (R342) -/

/-- TRAP. -/
def execTrap (imm : BitVec 16) (s : State) : Result :=
  runCard (.trap imm) (fun w _ => pipeCard (onlyLaunched w) [] [] fun w p s =>
    if execMask w p = 0 then .next (s.advance p 1)
    else
      .next (s.trap w p (wordOfInstr (.trap imm))
        { TrapInfo.plain .soft with mask := execMask w p, info := imm.setWidth 32 })) s

/-! ## The CSR group (R59, R323, R343) -/

/-- The group executes here (R59). -/
def csrAllowed (w : Wave) : Bool := onlyLaunched w && (w.handler.isSome || w.system)

/-- Field code of a register (R43). -/
def RegName.code : RegName → Nat
  | .v r => r.val
  | .s r => 0x80 + r.val

/-- TPEND (R323). -/
def State.tpend (s : State) (w : Wave) : Word :=
  let has := fun (c : TrapCode) => w.reports.any fun r => r.code == c
  let races := match s.wgOf? w with | some g => !g.races.isEmpty | none => false
  BitVec.ofNat 32 ((if has .combFault then 1 else 0) + (if has .engFault then 2 else 0) + (if races then 4 else 0)
    + (if w.missed.isSome then 8 else 0) + (if s.cancelPending w then 16 else 0))

/-- The value of a CSR; none for a reserved number (R323). -/
def State.csrRead (s : State) (w : Wave) (n : Nat) : Option Word :=
  let c := w.csr
  let base := s.reg (Reg.trapBase w.asid.toNat)
  let ld := c.faulted[c.sel.toNat]?
  match n with
  | 0x00 => some c.cause
  | 0x01 => some (c.pc.setWidth 32)
  | 0x02 => some ((c.pc >>> 32).setWidth 32)
  | 0x03 => some c.word
  | 0x04 => some c.mask
  | 0x05 => some c.path
  | 0x06 => some (c.mode.toWord.setWidth 32)
  | 0x07 => some c.info
  | 0x08 => some (lo32 c.addr)
  | 0x09 => some (hi32 c.addr)
  | 0x0A => some (lo32 c.aux)
  | 0x0B => some (hi32 c.aux)
  | 0x0C => some c.task
  | 0x0D => some (BitVec.ofNat 32 c.faulted.length)
  | 0x0E => some c.sel
  | 0x0F => some (match ld with
      | some f => BitVec.ofNat 32 ((if f.pair then 65536 else 0) + f.code.code.toNat * 256 + f.dst.code)
      | none => 0)
  | 0x10 => some (match ld with | some f => f.lanes | none => 0)
  | 0x11 => some (lo32 c.tick)
  | 0x12 => some (hi32 c.tick)
  | 0x13 => some (s.tpend w)
  | 0x14 => some c.scratch[0]
  | 0x15 => some c.scratch[1]
  | 0x16 => some c.scratch[2]
  | 0x17 => some c.scratch[3]
  | 0x18 => some (lo32 base)
  | 0x19 => some (hi32 base)
  | 0x1A => some (c.xpc.setWidth 32)
  | 0x1B => some ((c.xpc >>> 32).setWidth 32)
  | _ => none

/-- The CSR can be written (R323). -/
def csrWritable (n : Nat) : Bool := [0x01, 0x02, 0x06, 0x0E, 0x14, 0x15, 0x16, 0x17].contains n

/-- The CSRs after a write (R323). -/
def TrapCsrs.write (c : TrapCsrs) (n : Nat) (x : Word) : TrapCsrs :=
  match n with
  | 0x01 => { c with pc := BitVec.ofNat 55 (c.pc.toNat / 2 ^ 32 * 2 ^ 32 + x.toNat / 4 * 4) }
  | 0x02 => { c with pc := BitVec.ofNat 55 (x.toNat * 2 ^ 32 + c.pc.toNat % 2 ^ 32) }
  | 0x06 => match Mode.ofWord? (x.setWidth 16) with
    | some m => { c with mode := m }
    | none => c
  | 0x0E => { c with sel := x }
  | 0x14 => { c with scratch := c.scratch.set 0 x }
  | 0x15 => { c with scratch := c.scratch.set 1 x }
  | 0x16 => { c with scratch := c.scratch.set 2 x }
  | 0x17 => { c with scratch := c.scratch.set 3 x }
  | _ => c

/-- A scalar result computed in the pipe (R47, R51). -/
def scalarCard (ok : Bool) (nw : Bool) (d : Operand) (v : Wave → Path → State → Word) : Card :=
  pipeCard ok (if nw then [] else [.group isSca 1 1 d]) [] fun w p s =>
    .next (s.result w p nw d false [splat (v w p s)])

/-- CSRR (R343). -/
def execCsrr (nw : Bool) (d : Operand) (csr : BitVec 8) (s : State) : Result :=
  runCard (.csrr nw d csr) (fun w _ =>
    { scalarCard true nw d (fun w _ s => (s.csrRead w csr.toNat).getD 0) with
      priv := csrAllowed w, extra := (s.csrRead w csr.toNat).isSome }) s

/-- CSRW (R343). -/
def execCsrw (d : Operand) (csr : BitVec 8) (s : State) : Result :=
  runCard (.csrw d csr) (fun w _ =>
    { pipeCard true [.src d] [.src d] (fun w p s =>
        .next ((s.modWave w.id fun x => { x with csr := x.csr.write csr.toNat (srcUni w p d) }).advance p 1)) with
      priv := csrAllowed w, extra := csrWritable csr.toNat }) s

/-- A TRAPRET stands where it may (R343): in handler state, with no split of the handler open. -/
def trapretPlaced (w : Wave) : Bool :=
  match w.handler with
  | some (_, depth) => decide (w.splits.length ≤ depth)
  | none => false

/-- A return from the handler (R343): PC, M, handler state and the switch point that follows. -/
def State.returnTo (s : State) (w : Wave) (p : Path) (pc : Nat) : State :=
  let s := s.modWave w.id fun w =>
    ((w.retire p.tag pc 1).leaveHandler).modPath p.tag fun q =>
      { q with mode := w.csr.mode, swNext := true, late := true }
  s.wentBack w (· == p.tag) 1

/-- TRAPRET.RESUME (R343). -/
def execTrapretResume (s : State) : Result :=
  runCard .trapretResume (fun w _ =>
    { pipeCard true [] [] (fun w p s =>
        if trapretPlaced w then .next (s.returnTo w p (w.csr.pc.toNat / 4 * 4)) else .next (s.freezeWave w 6 0)) with
      priv := csrAllowed w }) s

/-- TRAPRET.SKIP (R343). -/
def execTrapretSkip (s : State) : Result :=
  runCard .trapretSkip (fun w _ =>
    { pipeCard true [] [] (fun w p s =>
        if trapretPlaced w then .next (s.returnTo w p (w.csr.pc.toNat / 4 * 4 + 4)) else .next (s.freezeWave w 6 0)) with
      priv := csrAllowed w }) s

/-- TRAPRET.EXIT (R343): the path's lanes end, and handler state with them. -/
def execTrapretExit (s : State) : Result :=
  runCard .trapretExit (fun w _ =>
    { pipeCard true [] [] (fun w p s =>
        if trapretPlaced w then
          if s.endStalls w p.mask then s.endStall w
          else
            .next ((s.endExec w p p.mask (p.pc + 4)).modWave w.id fun x =>
              let x := x.leaveHandler
              { x with paths := x.paths.map fun (q : Path) => { q with swNext := true } })
        else .next (s.freezeWave w 6 0)) with priv := csrAllowed w }) s

end Sys2Proof.Machine
end

