-- ==== Sys2Proof/Machine/Sync.lean ====
section
/-! DEFINITION. Barrier words (R162, R163), BAR (R298, R299), local queues (R164, R165), and CLOCK (R300). -/

namespace Sys2Proof.Machine

/-! ## Barrier words -/

/-- A uniform source. -/
def uniFields (l : List Operand) : List Field := l.map Field.src

/-- The barrier word at an offset, where it can be reached and is valid (R163). -/
def State.barWord? (s : State) (w : Wave) (o : Nat) : Except TrapCode Nat :=
  match s.windowAligned w.gang o 8 with
  | .error e => .error e
  | .ok _ => if barValid (s.barWord w.gang o) then .ok (s.barWord w.gang o) else .error .memFault

/-- An arrival follows its release, and the scratchpad accesses that it may not pass (R155, R163). -/
def State.arriveAfter (s : State) (w : Wave) (scope : Scope) (o : Nat) (act : ReleaseAct) : State :=
  let (deps, net, s) := s.releaseDeps w scope
  (s.enqueue (s.requester w 0) ((s.scratchWaits w [o]).join { Waits.none with deps := deps, netOps := net }) act).2

/-- ARRIVE (R163): the phase is read at once; the arrival follows its release. -/
def execArrive (nw : Bool) (d a b : Operand) (s : State) : Result :=
  runCard (.arrive nw d a b) (fun w _ =>
    { pipeCard (onlyLaunched w) ((if nw then [] else [Field.group isSca 1 1 d]) ++ uniFields [a, b]) (uniFields [a, b])
      (fun w p s =>
        let o := (srcUni w p a).toNat
        match s.barWord? w o with
        | .error c => .next (s.trap w p (wordOfInstr (.arrive nw d a b)) (TrapInfo.mem c p.mask o))
        | .ok x =>
          let s := s.settleHolds w.id
          if !nw && s.held w [.scratch] [] [o] then s.stall
          else
            let n := bitsOf (srcUni w p b).toNat 15 0
            let s := match (if n = 0 then none else s.windowPlace? w.gang false o) with
              | none => s
              | some (c, q) =>
                if w.isDet then s.arriveAt c q n
                else s.arriveAfter w p.mode.scope o (.arrive c q n)
            .next (s.result w p nw d false [splat (BitVec.ofNat 32 (barPhase x))])) with
      race := true, sync := true }) s

/-- WAITB (R163). A deterministic wave waits for the end of its period in any case (R306). -/
def execWaitb (a b : Operand) (s : State) : Result :=
  runCard (.waitb a b) (fun w _ =>
    { pipeCard (onlyLaunched w) (uniFields [a, b]) (uniFields [a, b])
      (fun w p s =>
        let o := (srcUni w p a).toNat
        let ph := bitsOf (srcUni w p b).toNat 14 0
        let woken := p.stage == .woken
        if woken && !w.isDet then .next ((s.acquire w.core p.mode.scope).advance p 1)
        else if !woken && w.isDet then .next (s.block (.phase o ph))
        else
        match s.barWord? w o with
        | .error c => .next (s.trap w p (wordOfInstr (.waitb a b)) (TrapInfo.mem c p.mask o))
        | .ok x =>
          if barPhase x ≠ ph || woken then .next ((s.acquire w.core p.mode.scope).advance p 1)
          else .next (s.block (.phase o ph))) with
      switch := true, blocking := true, race := true }) s

/-! ## BAR -/

/-- What BAR checks before its arrival (R299); the mask of the first arriver where the barrier is collecting. -/
def State.barCheck (s : State) (w : Wave) (p : Path) (m sel : Word) : Option TrapInfo :=
  let m0 := match barScope? sel with
    | some sc => ((s.bar? (s.barPlace w sc) (barId sel)).map (·.m0)).getD 0
    | none => 0
  if p.tag ≠ Tag.root then some (barMask 2 sel m0)
  else
    match barScope? sel with
    | none => some (barMask 3 sel m0)
    | some sc =>
      let whole := match s.launchOf? w with
        | some l => l.record.persist || l.record.det || l.units == 1 && l.record.stages == 1
        | none => false
      if sc = 2 ∧ (m ≠ 0xFFFFFFFF#32 ∨ !whole) then some (barMask 3 sel m0)
      else if (s.barNamed (s.barPlace w sc) m).contains w.id then none
      else some (barMask 1 sel m0)

/-- BAR (R298, R299): a release, then the arrival; in a deterministic launch the arrival is held (R313). -/
def execBar (a b : Operand) (s : State) : Result :=
  runCard (.bar a b) (fun w _ =>
    { pipeCard (onlyLaunched w) (uniFields [a, b]) (uniFields [a, b])
      (fun w p s =>
        let m := srcUni w p a
        let sel := srcUni w p b
        let word := wordOfInstr (.bar a b)
        match s.barCheck w p m sel with
        | some info => .next (s.trap w p word info)
        | none =>
          if w.isDet then
            let s := match s.launchOf? w with
              | some l => s.modLaunch l.slot fun k => { k with det := k.det.map fun (d : DetState) =>
                  { d with heldBars := d.heldBars ++ [({ wave := w.id, mask := m, sel := sel } : HeldBar)] } }
              | none => s
            .next (s.block (.bar word))
          else
            let sc := barMemScope ((barScope? sel).getD 0)
            .next ((s.startRelease w (s.requester w 0) sc (.bar m sel)).2.block (.bar word))) with
      switch := true, blocking := true, race := true, sync := true }) s

/-! ## Local queues -/

/-- The queues that a wave may use (R164, R166). -/
def State.queueMask (s : State) (w : Wave) : Nat :=
  match w.kind with
  | .producer => s.regBits (Reg.ps w.core 0x10) 15 0
  | _ => ((s.wgOf? w).map (·.qmask.toNat)).getD 0

/-- The queue is the wave's to use. -/
def State.mayQueue (s : State) (w : Wave) (q : BitVec 8) : Bool := (s.queueMask w).testBit q.toNat

/-- A queue outside the mask (R164). [DESIGN CHOICE, log 22, safe] -/
def State.queueFault (s : State) (w : Wave) (p : Path) (i : Instr) : Result :=
  let (info, s) := s.freeMem .memProt p.mask
  .next (s.trap w p (wordOfInstr i) info)

/-- QPUSH (R165). -/
def execQpush (nw : Bool) (d a : Operand) (q : BitVec 8) (s : State) : Result :=
  runCard (.qpush nw d a q) (fun w _ =>
    { pipeCard (notCombiner w) ((if nw then [] else [Field.group isSca 1 1 d]) ++ [Field.group isVec 1 1 a]) []
      (fun w p s =>
        if !s.mayQueue w q then s.queueFault w p (.qpush nw d a q)
        else
          let k := Fin.ofNat 16 q.toNat
          let exec := execMask w p
          let room := decide ((s.core w.core).queues[k].length < 32)
          let r := lanesOf fun i => if inMask exec i then srcLane w p a i else 0
          let s := if room then s.pushQueue w.core k r else s
          .next (s.modWave w.id fun x =>
            (x.deliver p nw d false exec [splat (if room then 1 else 0)]).retire p.tag (p.pc + 4) (streamCost exec))) with
      extra := decide (q.toNat < 16), sync := true }) s

/-- A record popped for a wave: a deferred result (R165). -/
def State.popFor (s : State) (w : Wave) (p : Path) (q : Fin 16) (d : Fin 128) : State :=
  let r := ((s.core w.core).queues[q].head?).getD (splat 0)
  let (id, s) := (s.popQueue w.core q).fresh
  let exec := execMask w p
  s.defer w p { Inflight.new id .qpop [.v d] false exec p.pc with vals := [r] } (streamCost exec)

/-- The register of a vector operand. -/
def vecReg (d : Operand) : Fin 128 :=
  match d with
  | .v r => r
  | _ => 0

/-- QPOP (R165). -/
def execQpop (d : Operand) (q : BitVec 8) (s : State) : Result :=
  runCard (.qpop d q) (fun w _ =>
    { pipeCard (onlyLaunched w) [.group isVec 1 1 d] []
      (fun w p s =>
        if !s.mayQueue w q then s.queueFault w p (.qpop d q)
        else
          let k := Fin.ofNat 16 q.toNat
          if (s.core w.core).queues[k].isEmpty ∨ w.isDet then .next (s.block (.queue k (vecReg d)))
          else .next (s.popFor w p k (vecReg d))) with
      extra := decide (q.toNat < 16), switch := true, blocking := true }) s

/-- QSTAT (R165). -/
def execQstat (nw : Bool) (d : Operand) (q : BitVec 8) (s : State) : Result :=
  runCard (.qstat nw d q) (fun w _ =>
    { pipeCard (notCombiner w) (if nw then [] else [.group isSca 1 1 d]) []
      (fun w p s =>
        if !s.mayQueue w q then s.queueFault w p (.qstat nw d q)
        else
          let n := (s.core w.core).queues[(Fin.ofNat 16 q.toNat : Fin 16)].length
          .next (s.result w p nw d false [splat (BitVec.ofNat 32 n)])) with
      extra := decide (q.toNat < 16) }) s

/-! ## CLOCK (R300, R318) -/

/-- The period number of a deterministic wave's launch. -/
def State.periodOf (s : State) (w : Wave) : Nat := (((s.launchOf? w).bind (·.det)).map (·.period)).getD 0

/-- A 64-bit uniform result in a scalar pair. -/
def pairCard (nw : Bool) (d : Operand) (v : Wave → State → DWord) (w : Wave) (_p : Path) : Card :=
  pipeCard (onlyLaunched w) (if nw then [] else [.group isSca 2 2 d]) [] fun w p s =>
    let x := v w s
    .next (s.result w p nw d false [splat (lo32 x), splat (hi32 x)])

/-- CLOCK.TICK. -/
def execClockTick (nw : Bool) (d : Operand) (s : State) : Result :=
  runCard (.clockTick nw d) (pairCard nw d fun w s => BitVec.ofNat 64 (if w.isDet then s.periodOf w else s.tick)) s

/-- CLOCK.LOGICAL. -/
def execClockLogical (nw : Bool) (d : Operand) (s : State) : Result :=
  runCard (.clockLogical nw d) (pairCard nw d fun w _ => BitVec.ofNat 64 w.clock) s

/-- CLOCK.PERIOD. -/
def execClockPeriod (nw : Bool) (d : Operand) (s : State) : Result :=
  runCard (.clockPeriod nw d) (pairCard nw d fun w s => BitVec.ofNat 64 (if w.isDet then s.periodOf w else 0)) s

/-- CLOCK.POD. -/
def execClockPod (nw : Bool) (d : Operand) (s : State) : Result :=
  runCard (.clockPod nw d) (pairCard nw d fun w s =>
    BitVec.ofNat 64 (if w.isDet then s.periodOf w else s.fabric.podTime)) s

end Sys2Proof.Machine
end

