-- ==== Sys2Proof/Machine/Calls.lean ====
section
/-! DEFINITION. System calls (R336 to R338): SYSC, the posting of its record, and the runtime's reply. -/

namespace Sys2Proof.Machine

/-- Slots of a context's call area that no outstanding call holds (R336, R341). -/
def State.freeCallSlots (s : State) (asid : BitVec 8) : List Nat :=
  (List.range (s.regBits (Reg.syscBase asid.toNat) 7 0)).filter fun k =>
    !(s.syscalls.any fun c => c.asid == asid && c.slot == k)

/-- Physical address of a slot of a context's call area (R337, R341). -/
def State.callSlot (s : State) (asid : BitVec 8) (k : Nat) : Nat :=
  bitsOf (s.reg (Reg.syscBase asid.toNat)).toNat 51 12 * 4096 + 4096 * k

/-- The failure of a call (R324, R338). -/
def syscErr (status : Nat) (number : Word) (exec : Mask) (record : DWord) : TrapInfo :=
  { code := .syscErr, kind := BitVec.ofNat 8 status, mask := exec, info := number, addr := record, aux := 0 }

/-- The 16 words of a lane's request (R336). -/
def callRequest (w : Wave) (a : Operand) (i : Fin 32) : List Word :=
  match a with
  | .v r => (List.range 16).map fun k => (w.vreg (r.val + k))[i]
  | _ => []

/-- SYSC (R336). With no call area the call fails with status 1, and there is no record whose address TADDR could
hold (R338). [DESIGN CHOICE, log 22, safe; DESIGN CHOICE, log 57, safe] -/
def execSysc (d a b : Operand) (s : State) : Result :=
  runCard (.sysc d a b) (fun w _ =>
    { pipeCard (onlyLaunched w) [.group isVec 2 2 d, .group isVec 8 16 a, .src b] [.src b] (fun w p s =>
      let exec := execMask w p
      let n := srcUni w p b
      if exec = 0 then .next (s.advance p 1)
      else
        let (id, s) := s.fresh
        let f := Inflight.new id .sysc (dstRegs true d) false exec p.pc
        if !s.regBit (Reg.syscBase w.asid.toNat) 63 then
          let (k, s) := s.takeFree
          let e : LoadFail := { info := syscErr 1 n exec (Config.freeDWord k) }
          .next (s.defer w p { f with vals := [], mask := 0, failed := [e] } (streamCost exec))
        else
          match s.freeCallSlots w.asid with
          | [] => s.stall
          | slots =>
            let (k, s) := s.takeFree
            let slot := (slots[Config.chooseIndex k % slots.length]?).getD 0
            let (r, s) := s.startRelease w (s.requester w 0) .dev .none
            let c : SyscCall :=
              { wave := w.id, infl := id, wid := s.waveId w, release := r, asid := w.asid, slot := slot, number := n,
                exec := exec, requests := (lanesIn exec).map fun i => (i, callRequest w a i), pc := p.pc,
                posted := false }
            let s := { s with syscalls := s.syscalls ++ [c] }
            .next (s.defer w p { f with due := exec } (streamCost exec))) with race := true }) s

/-- The call of a wave with this deferred result. -/
def State.call? (s : State) (w d : Nat) : Option SyscCall := s.syscalls.find? fun c => c.wave == w && c.infl == d

/-- The record's bytes 0 to 23 and 32 to 2,111 (R337); the others are the runtime's. -/
def SyscCall.bytes (c : SyscCall) : List Byte × List Byte :=
  (leBytes 4 c.number.toNat ++ leBytes 4 c.exec.toNat ++ leBytes 8 (c.asid.toNat * 2 ^ 32 + c.wid % 2 ^ 32)
      ++ leBytes 8 c.pc,
   leBytes 32 0 ++ (List.finRange 32).flatMap fun i =>
      match c.requests.find? fun r => r.1 == i with
      | some r => r.2.flatMap fun x => leBytes 4 x.toNat
      | none => leBytes 64 0)

/-- SYSC_POST: the release is complete, the record is written and posted (R336, R337). -/
def execSyscPost (w d : Nat) (s : State) : Result :=
  match s.call? w d with
  | none => notEnabled
  | some c =>
    let pa := s.callSlot c.asid c.slot
    if c.posted || s.releases.any (·.id == c.release) || !s.servesRange pa 2112 then notEnabled
    else
      let s := (s.unitWrite pa c.bytes.1 c.asid).unitWrite (pa + 32) c.bytes.2 c.asid
      .next { s with syscalls := s.syscalls.map fun x =>
        if x.wave = w ∧ x.infl = d then { x with posted := true } else x }

/-- The runtime's part of the record (R337). -/
def State.writeReply (s : State) (c : SyscCall) (status : DWord) (replies : List DWord) : State :=
  let pa := s.callSlot c.asid c.slot
  let s := s.unitWrite (pa + 24) (leBytes 8 status.toNat) c.asid
  (lanesIn c.exec).foldl (fun s i =>
    s.unitWrite (pa + 2112 + 8 * i.val) (leBytes 8 ((replies[i.val]?).getD 0).toNat) c.asid) s

/-- SYSC_REPLY: the reply is written to the lanes, or fails with SYSC_ERR; it is an acquire at dev scope, and the slot
is free again (R336 to R338). [DESIGN CHOICE, log 3, safe; DEDUCED, log 115, safe] -/
def execSyscReply (w d : Nat) (status : DWord) (replies : List DWord) (s : State) : Result :=
  match s.call? w d with
  | none => notEnabled
  | some c =>
    if !c.posted || !s.servesRange (s.callSlot c.asid c.slot) 2368 then notEnabled
    else
      let rec64 := BitVec.ofNat 64 (s.callSlot c.asid c.slot)
      let s := s.writeReply c status replies
      let s := { s with syscalls := s.syscalls.filter fun x => !(x.wave == w && x.infl == d) }
      match s.wave? w with
      | none => .next s
      | some x =>
        let s := s.acquire x.core .dev
        match x.inflight.find? fun y => y.id == d with
        | none => .next s
        | some f =>
          let f := if status = 0 then
              (lanesIn c.exec).foldl (fun (f : Inflight) i => f.arrive i ((replies[i.val]?).getD 0)) f
            else
              let e : LoadFail := { info := syscErr status.toNat c.number c.exec rec64 }
              { f with mask := 0, due := 0, failed := f.failed ++ [e] }
          .next (s.modWave w fun x => x.settleInflight f)

end Sys2Proof.Machine
end

