-- ==== Sys2Proof/Machine/MmaMath.lean ====
section
/-! DEFINITION. The arithmetic of the matrix array: rotations (R213, R214, R219), operand blocks and region words
(R190, R216 to R218), the exact block sums and the pairs of a step (R220), the predictor (R225). -/

namespace Sys2Proof.Machine

/-! ## Rotations -/

/-- round(a · b, fp32, RNE). -/
def mulRne (a b : Word) : Word := toFp32 .rne ((ofFp32 a).mul (ofFp32 b))
/-- round(a + b, fp32, RNE). -/
def addRne (a b : Word) : Word := toFp32 .rne ((ofFp32 a).add .rne (ofFp32 b))
/-- round(a − b, fp32, RNE). -/
def subRne (a b : Word) : Word := toFp32 .rne ((ofFp32 a).add .rne (ofFp32 b).negate)

/-- cmul (R214). -/
def cmul (x y : Word × Word) : Word × Word :=
  (subRne (mulRne x.1 y.1) (mulRne x.2 y.2), addRne (mulRne x.1 y.2) (mulRne x.2 y.1))

/-- Entry (t, e, i) of the rotation shelf: cosine and sine (R213, R227). -/
def Core.rotEntry (c : Core) (t e i : Nat) : Word × Word :=
  let a := ((256 * t + e) * 96 + i) * 8
  (BitVec.ofNat 32 (leNat (c.rotation.readN a 4)), BitVec.ofNat 32 (leNat (c.rotation.readN (a + 4) 4)))

/-- rotor(Δ, i) (R214). -/
def Core.rotor (c : Core) (delta i : Nat) : Word × Word :=
  cmul (cmul (c.rotEntry 0 (bitsOf delta 7 0) i) (c.rotEntry 1 (bitsOf delta 15 8) i)) (c.rotEntry 2 (bitsOf delta 23 16) i)

/-- rotate (R214). -/
def rotatePair (x r : Word × Word) : Word × Word := cmul x r

/-! ## Operand blocks -/

/-- `n` bytes of a block, little-endian. -/
def blockField (bs : List Byte) (off n : Nat) : Nat := leNat ((bs.drop off).take n)

/-- The done field of a block (R190). -/
structure DoneField where
  rdev : Nat
  cbv : Bool
  cnt : Nat
  cbw : Nat
  deriving DecidableEq, Repr

def DoneField.ofNat (x : Nat) : DoneField :=
  { rdev := bitsOf x 63 54, cbv := bitsOf x 53 53 == 1, cnt := bitsOf x 47 32, cbw := bitsOf x 21 0 }

/-- Its reserved bits are clear, and a completion arrival has a count and an aligned word (R190). -/
def doneOk (x : Nat) : Bool :=
  let d := DoneField.ofNat x
  bitsOf x 52 48 == 0 && bitsOf x 31 22 == 0 && (!d.cbv || (d.cnt != 0 && d.cbw % 8 == 0))

/-- A region of the accumulator store (R217). -/
structure AccRegion where
  row : Nat
  rows : Nat
  col : Nat
  cols : Nat
  deriving DecidableEq, Repr

/-- The region of a region word, where it is valid (R217). -/
def AccRegion.ofWord? (w : Word) : Option AccRegion :=
  let n := w.toNat
  let r : AccRegion := { row := bitsOf n 7 0, rows := bitsOf n 15 8 + 1, col := bitsOf n 22 16, cols := bitsOf n 30 24 + 1 }
  if bitsOf n 31 31 = 0 ∧ bitsOf n 23 23 = 0 ∧ r.row + r.rows ≤ 256 ∧ r.col + r.cols ≤ 128 then some r else none

/-- The row groups that a region touches (R223). -/
def AccRegion.groups (r : AccRegion) : List (Fin 16) :=
  (List.finRange 16).filter fun g => decide (16 * g.val < r.row + r.rows ∧ r.row < 16 * g.val + 16)

/-- An MMA operand block (R216). -/
structure MmaBlock where
  rot : Bool
  hd24 : Nat
  zero : Bool
  nst : Nat
  afmt : Nat
  bfmt : Nat
  ascl : Nat
  bscl : Nat
  aoff : Nat
  apitch : Nat
  asoff : Nat
  aspitch : Nat
  boff : Nat
  bstep : Nat
  dvoff : Nat
  region : Word
  done : Nat
  deriving DecidableEq, Repr

def MmaBlock.ofBytes (bs : List Byte) : MmaBlock :=
  let f := blockField bs
  let c := f 0 8
  { rot := bitsOf c 55 55 == 1, hd24 := bitsOf c 54 51, zero := bitsOf c 50 50 == 1, nst := bitsOf c 49 44,
    afmt := bitsOf c 43 39, bfmt := bitsOf c 38 34, ascl := bitsOf c 33 29, bscl := bitsOf c 28 24,
    aoff := f 8 4, apitch := f 12 4, asoff := f 16 4, aspitch := f 20 4, boff := f 24 4, bstep := f 28 4,
    dvoff := f 32 4, region := BitVec.ofNat 32 (f 40 4), done := f 56 8 }

/-- The combinations of R218. -/
def mmaCombo (a b sa sb : Nat) : Bool :=
  let fp8 := fun (x : Nat) => x == 11 || x == 12
  let sc := fun (x : Nat) => x == 15 || x == 16
  (fp8 a && fp8 b && sc sa && sc sb) || (fp8 a && b == 14 && sc sa && sb == 16)
    || (a == 13 && b == 13 && sc sa && sc sb) || (a == 13 && b == 14 && sc sa && sb == 16)
    || (a == 10 && b == 10 && sa == 0 && sb == 0) || (a == 10 && fp8 b && sa == 0 && sc sb)

/-- W: element bytes of a step record (R210). -/
def stepBytes (bfmt : Nat) : Nat :=
  match bfmt with
  | 10 => 192
  | 13 => 48
  | 14 => 24
  | _ => 96

/-- Width in bits of an element by format code. -/
def elemBits (fmt : Nat) : Nat :=
  match fmt with
  | 10 => 16
  | 13 => 4
  | _ => 8

/-- Scale bytes of a step record. -/
def MmaBlock.scaleBytes (m : MmaBlock) : Nat := if m.bscl = 0 then 0 else 4

/-- The cause of ENG_FAULT that the fields of a block raise (R210, R216 to R218, R221). -/
def mmaCause? (bs : List Byte) : Option Nat :=
  let f := blockField bs
  let c := f 0 8
  let m := MmaBlock.ofBytes bs
  let need := stepBytes m.bfmt + m.scaleBytes
  if bitsOf c 63 56 ≠ 0 ∨ bitsOf c 23 0 ≠ 0 ∨ m.aoff ≥ 2 ^ 22 ∨ m.asoff ≥ 2 ^ 22 ∨ m.dvoff ≥ 2 ^ 22 ∨ m.boff ≥ 2 ^ 17
      ∨ f 36 4 ≠ 0 ∨ f 44 12 ≠ 0 ∨ (AccRegion.ofWord? m.region).isNone ∨ !(mmaCombo m.afmt m.bfmt m.ascl m.bscl)
      ∨ (m.rot ∧ (m.hd24 = 0 ∨ 8 < m.hd24 ∨ m.afmt ≠ 10 ∨ 96 * (m.nst + 1) < 24 * m.hd24)) ∨ (!m.rot ∧ m.hd24 ≠ 0)
      ∨ m.boff % 8 ≠ 0 ∨ m.bstep % 8 ≠ 0 ∨ m.bstep < need ∨ !(doneOk m.done) then some 1
  else if m.boff + m.nst * m.bstep + need - 1 ≥ 0x1E000 then some 4
  else none

/-- The window offset of a row: one past the window is refused by the checks of the range (R35, R218, R226). -/
def windowOff (base pitch i : Nat) : Nat := base + i * pitch

/-- The scratch ranges of an MMA, with their alignment (R218, R219, R221): offset, length, alignment. -/
def MmaBlock.ranges (m : MmaBlock) (r : AccRegion) : List (Nat × Nat × Nat) :=
  let k := 96 * (m.nst + 1)
  let d := DoneField.ofNat m.done
  ((List.range r.rows).flatMap fun i =>
      (windowOff m.aoff m.apitch i, k * elemBits m.afmt / 8, if m.afmt = 10 then 2 else 1)
        :: (if m.ascl = 0 then [] else [(windowOff m.asoff m.aspitch i, k / 24, 1)]))
    ++ (if m.rot then [(m.dvoff, 4 * r.rows, 4)] else []) ++ (if d.cbv then [(d.cbw, 8, 8)] else [])

/-- The first scratch range that fails its checks (R35, R221). -/
def State.rangeFault? (s : State) (gang : Nat) (l : List (Nat × Nat × Nat)) : Option (TrapCode × Nat) :=
  l.findSome? fun (o, n, al) =>
    match s.windowCheck gang o n with
    | .error c => some (c, o)
    | .ok _ => if o % al = 0 then none else some (.memAlign, o)

/-! ## Operands of a step -/

/-- What a step reads: the codes of A by row and element, A's scales, B's step records by column, the Δ vector. -/
structure MmaData where
  a : List (List Nat)
  sa : List (List Nat)
  b : List (List Byte)
  deriving DecidableEq, Repr

/-- The bytes of a step record of B, elements and scales (R210). -/
def Core.stepRecord (c : Core) (m : MmaBlock) (col s : Nat) : List Byte :=
  c.stackMem.readN (col * 0x20000 + m.boff + s * m.bstep) (stepBytes m.bfmt + m.scaleBytes)

/-- Codes of n elements of a format from bytes (R69). -/
def codesOf (fmt n : Nat) (bs : List Byte) : List Nat :=
  match elemBits fmt with
  | 16 => (List.range n).map fun k => leNat ((bs.drop (2 * k)).take 2)
  | 4 => (List.range n).map fun k =>
      let x := ((bs[k / 2]?).getD 0).toNat
      if k % 2 = 0 then x % 16 else x / 16
  | _ => (List.range n).map fun k => ((bs[k]?).getD 0).toNat

/-- The codes of a row of A, all K elements. -/
def State.aRow (s : State) (gang : Nat) (m : MmaBlock) (r : Nat) : List Nat :=
  let k := 96 * (m.nst + 1)
  codesOf m.afmt k (s.readWindow gang (windowOff m.aoff m.apitch r) (k * elemBits m.afmt / 8))

/-- bf16 as fp32. -/
def bf16Word (code : Nat) : Word := toFp32 .rne (FloatFmt.bf16.decode code)

/-- A row rotated (R219): the elements of the head, rounded to bf16. -/
def Core.rotateRow (c : Core) (m : MmaBlock) (delta : Nat) (row : List Nat) : List Nat :=
  row.zipIdx.map fun (x, k) =>
    if m.rot && decide (k < 24 * m.hd24) then
      let i := k / 2
      let z := rotatePair (bf16Word (row.getD (2 * i) 0), bf16Word (row.getD (2 * i + 1) 0)) (c.rotor delta i)
      FloatFmt.bf16.round .rne (ofFp32 (if k % 2 = 0 then z.1 else z.2))
    else x

/-- The operands of all steps of an MMA as they stand (R209): rows of A rotated by Δ. -/
def State.mmaRows (s : State) (core : Fin 256) (gang : Nat) (m : MmaBlock) (r : AccRegion) (delta : List Word) :
    List (List Nat) :=
  (List.range r.rows).map fun i => (s.core core).rotateRow m ((delta.getD i 0).toNat) (s.aRow gang m i)

/-- The scale codes of a row of A; none read where A has no scales. -/
def State.aScales (s : State) (gang : Nat) (m : MmaBlock) (r : Nat) : List Nat :=
  if m.ascl = 0 then []
  else (s.readWindow gang (windowOff m.asoff m.aspitch r) (96 * (m.nst + 1) / 24)).map (·.toNat)

/-! ## The block sum -/

/-- The format of a code. -/
def fmtOf (fmt : Nat) : FloatFmt :=
  match fmt with
  | 10 => .bf16
  | 12 => .fp8e5
  | 13 => .fp4
  | _ => .fp8e4

/-- The value of a scale code; 1 where the scale type is none (R220). -/
def scaleValue (scl code : Nat) : Exact :=
  match scl with
  | 0 => .fin false 1 0
  | 15 => decodeE8m0 code
  | _ => FloatFmt.ue5m3.decode code

/-- The exponent of the leading bit of a finite nonzero value. [DEDUCED, log 49, unsafe] -/
def Exact.top? : Exact → Option Int
  | .fin _ m e => if m = 0 then none else some ((Nat.log2 m : Int) + e)
  | _ => none

/-- A value truncated toward zero at 2^cut. -/
def Exact.truncAt (cut : Int) : Exact → Exact
  | .fin n m e => if e < cut then .fin n (m / 2 ^ (cut - e).toNat) cut else .fin n m e
  | x => x

/-- D: the exact sum of a block's products (R220). `bf`: the step has a bf16 operand. [DEDUCED, log 49, unsafe] -/
def blockSum (bf : Bool) (ps : List Exact) : Exact :=
  if ps.any (·.isNaN) then .nan
  else
    let pos := ps.any (· == .inf false)
    let neg := ps.any (· == .inf true)
    if pos && neg then .nan
    else if pos then .inf false
    else if neg then .inf true
    else
      let ps := if bf then
          match (ps.filterMap Exact.top?) with
          | [] => ps
          | t :: ts => ps.map (Exact.truncAt (ts.foldl max t - 62))
        else ps
      let d := ps.foldl (Exact.add .rne) (.zero false)
      if d.isZero then .zero false else d

/-- A block's pair p[q] (R220). -/
def blockPair (x : Exact) : Word × Word :=
  let h := toFp32 .rne x
  if isInfNaN32 h then (h, 0) else (h, toFp32 .rne (x.add .rne (ofFp32 h).negate))

/-- Element k of a step of B, from its record: the value before its scale (R210, R211). -/
def Core.bElem (c : Core) (bfmt : Nat) (rec96 : List Byte) (k : Nat) : Exact :=
  if bfmt = 14 then
    let index := leNat ((rec96.drop (2 * (k / 8))).take 2)
    codebookWeight (leNat (c.codebook.readN (8 * codebookRow index) 8)) index (k % 8)
  else (fmtOf bfmt).decode ((codesOf bfmt 96 rec96).getD k 0)

/-- The elements of a step of B in a column. -/
def Core.bStep (c : Core) (bfmt : Nat) (rec96 : List Byte) : List Exact :=
  if bfmt = 14 then (List.range 96).map (c.bElem bfmt rec96) else (codesOf bfmt 96 rec96).map (fmtOf bfmt).decode

/-- step_sum (R220), from the values of A and B in this step and the scale codes. -/
def stepSum (m : MmaBlock) (a b : List Exact) (sa sb : List Nat) : Word × Word :=
  let bf := m.afmt == 10 || m.bfmt == 10
  let p := fun (q : Nat) =>
    let ps := (((a.drop (24 * q)).take 24).zip ((b.drop (24 * q)).take 24)).map fun (x, y) => x.mul y
    blockPair (((blockSum bf ps).mul (scaleValue m.ascl (sa.getD q 0))).mul (scaleValue m.bscl (sb.getD q 0)))
  pairAdd (pairAdd (p 0) (p 1)) (pairAdd (p 2) (p 3))

/-! ## Uncorrectable operands (R212, R221) -/

/-- The rows of the codebook shelf that a record of cb2 elements names. -/
def recordRows (rec96 : List Byte) : List Nat :=
  (List.range 12).map fun k => codebookRow (leNat ((rec96.drop (2 * k)).take 2))

/-- The words of the rotation shelf that rotor(Δ, i) reads (R214, R227). -/
def rotorWords (delta i : Nat) : List Nat :=
  [bitsOf delta 7 0 * 96 + i, (256 + bitsOf delta 15 8) * 96 + i, (512 + bitsOf delta 23 16) * 96 + i]

/-- A byte of the rotation shelf that the rotations of these pairs read is uncorrectable. -/
def State.rotorLost (s : State) (core : Fin 256) (delta : Nat) (pairs : List Nat) : Bool :=
  pairs.any fun i => (rotorWords delta i).any fun w => s.lostIn core .rotation (8 * w) 8

/-- Step `st` of an MMA meets an uncorrectable byte: of A, its scales or its Δ vector, of B or of a shelf. A rotation
reads the shelf in the step of its elements. [DESIGN CHOICE, log 125, safe] -/
def State.stepLost (s : State) (core : Fin 256) (gang : Nat) (m : MmaBlock) (r : AccRegion) (delta : List Word) (st : Nat) : Bool :=
  let bytes := 96 * elemBits m.afmt / 8
  let need := stepBytes m.bfmt + m.scaleBytes
  let pairs := ((List.range 48).map (48 * st + ·)).filter fun i => i < 12 * m.hd24
  !s.struck.isEmpty &&
    ((List.range r.rows).any (fun i =>
        s.windowLost gang (windowOff m.aoff m.apitch i + bytes * st) bytes
          || (m.ascl != 0 && s.windowLost gang (windowOff m.asoff m.aspitch i + 4 * st) 4)
          || (m.rot && (s.windowLost gang (m.dvoff + 4 * i) 4 || s.rotorLost core (delta.getD i 0).toNat pairs)))
      || (List.range r.cols).any (fun j =>
        s.lostIn core .stacks ((r.col + j) * 0x20000 + m.boff + st * m.bstep) need
          || (m.bfmt == 14 && (recordRows ((s.core core).stepRecord m (r.col + j) st)).any fun k => s.lostIn core .codebook (8 * k) 8)))

/-! ## The accumulator store -/

/-- Pair (r, j) of the store. -/
def Core.accPair (c : Core) (r j : Nat) : Word × Word :=
  let x := SMap.get 0 c.acc (128 * r + j)
  (lo32 x, hi32 x)

/-- Pair (r, j) written. -/
def Core.setAccPair (c : Core) (r j : Nat) (p : Word × Word) : Core :=
  { c with acc := SMap.set 0 c.acc (128 * r + j) (join64 p.1 p.2) }

/-- Step `st` of an MMA applied to the region (R220). -/
def Core.mmaStep (c : Core) (m : MmaBlock) (r : AccRegion) (st : Nat) (rows : List (List Nat))
    (scales : List (List Nat)) (recs : List (List Byte)) : Core :=
  let bs := recs.map (c.bStep m.bfmt)
  (rows.zipIdx).foldl (fun k (row, i) =>
    let a := ((row.drop (96 * st)).take 96).map (fmtOf m.afmt).decode
    let sa := ((scales.getD i []).drop (4 * st)).take 4
    ((bs.zip recs).zipIdx).foldl (fun (k : Core) (b, j) =>
      let sb := (b.2.drop (stepBytes m.bfmt)).map (·.toNat)
      let old := if m.zero && st == 0 then (0, 0) else c.accPair (r.row + i) (r.col + j)
      k.setAccPair (r.row + i) (r.col + j) (pairAdd old (stepSum m a b.1 sa sb))) k) c

/-! ## The predictor (R225) -/

/-- Sign and exponent bits of an element. -/
def signExp (fmt code : Nat) : Nat :=
  match fmt with
  | 10 => bitsOf code 15 7
  | 12 => bitsOf code 7 2
  | 13 => bitsOf code 3 1
  | _ => bitsOf code 7 3

/-- est of a step. -/
def predictorSum (fmt st : Nat) (rows : List (List Nat)) : Nat :=
  ((rows.zip rows.tail).flatMap fun (x, y) =>
    (((x.drop (96 * st)).take 96).zip ((y.drop (96 * st)).take 96)).map fun (u, v) =>
      popcount (BitVec.ofNat 32 (signExp fmt u ^^^ signExp fmt v))).foldl (· + ·) 0

/-- The threshold of a format in MGTHR. -/
def thresholdOf (fmt thr : Nat) : Nat :=
  match fmt with
  | 10 => bitsOf thr 47 32
  | 13 => bitsOf thr 31 16
  | _ => bitsOf thr 15 0

/-- The predictor stretches the step. -/
def stretches (fmt thr st : Nat) (rows : List (List Nat)) : Bool :=
  decide (256 * predictorSum fmt st rows ≥ thresholdOf fmt thr * (rows.length - 1))

end Sys2Proof.Machine
end

