-- ==== Sys2Proof/Machine/Blocks.lean ====
section
/-! DEFINITION. Command blocks (R190, R199, R200, R216) as waves hand them over, completion arrivals (R188, R334),
ENG_FAULT (R189), and how a command ends. -/

namespace Sys2Proof.Machine

/-! ## The block -/

/-- Block base plus a zero-extended uniform offset (R200). -/
def blockEa (w : Wave) (p : Path) (a b : Operand) : Nat := (scalar64 w a + (srcUni w p b).setWidth 64).toNat

/-- The checks of a block's address before it is read. -/
def blockAddrFault? (ea size : Nat) : Option TrapCode :=
  if 2 ^ 55 ≤ ea then some .memFault else if ea % size ≠ 0 then some .memAlign else none

/-- The block is read at its home (R141, R200): dirty bytes of the core are sent first, and the wave waits for them,
for its own direct accesses to the line and for a home that serves it. The state to wait in, where it has to wait. -/
def State.blockSync (s : State) (w : Wave) (ea : Nat) : Option State :=
  match s.place w ea 1 .r with
  | .error _ => none
  | .ok pa =>
    if w.isDet then if s.serves (pa / 128) then none else some s
    else if (s.core w.core).dirtyLine (pa / 128) || s.lineBusy w.id (pa / 128) || s.lineComing w.core (pa / 128) then
      some (s.beforeDirect w.core pa)
    else if s.serves (pa / 128) then none
    else some s

/-- The state after the block has been read: its page translated, its line read at the home (R115, R141). -/
def State.blockRead (s : State) (w : Wave) (ea : Nat) : State :=
  let s := s.walked w [ea]
  match s.place w ea 1 .r with
  | .error _ => s
  | .ok pa => (s.beforeDirect w.core pa).readLines [pa / 128] w.asid w.master

/-- One byte of a block: of the wave's store buffer or version, or as its home holds it (R186, R309). -/
def State.blockByte (s : State) (w : Wave) (pa : Nat) : Except LineErr Byte :=
  match w.det.bind fun d => d.byte? none pa with
  | some b => .ok b
  | none =>
    match (s.versionOf? w).bind (·.byte? pa) with
    | some b => .ok b
    | none => s.homeByte pa

/-- The bytes of a block. -/
def State.blockBytes (s : State) (w : Wave) (ea n : Nat) : Except TrapCode (List Byte) :=
  match s.place w ea 1 .r with
  | .error c => .error c
  | .ok pa =>
    match (List.range n).mapM fun i => s.blockByte w (pa + i) with
    | .ok bs => .ok bs
    | .error e => .error e.trap

/-- The window offsets that an MMA reads (R218, R219). -/
def mmaOffs (bs : List Byte) : List Nat :=
  let m := MmaBlock.ofBytes bs
  match AccRegion.ofWord? m.region with
  | none => []
  | some r => (m.ranges r).flatMap fun x => (List.range x.2.1).map (x.1 + ·)

/-- ENG_FAULT (R189, R324). -/
def engInfo (cause blk aux : Nat) : TrapInfo :=
  { TrapInfo.plain .engFault with kind := BitVec.ofNat 8 cause, addr := BitVec.ofNat 64 blk, aux := BitVec.ofNat 64 aux }

/-! ## Arrivals and ends of commands -/

/-- A completion arrival at a barrier word of a gang's window; at a workgroup that is saved it is recorded for its
resumption (R188, R334, R335). -/
def State.completeArrival (s : State) (gang off n : Nat) : State :=
  match s.gang? gang with
  | none => s
  | some g =>
    if g.saved then
      match g.wgs.findIdx? fun x => x.core.val % 4 == off / 2 ^ 20 with
      | some k => s.modWg gang k fun x => { x with savedArrivals := x.savedArrivals ++ [(off % 2 ^ 20, n)] }
      | none => s
    else
      match s.windowPlace? gang false off with
      | some (c, q) => s.arriveAt c q n
      | none => s

/-- The completion arrival of a done field, where it asks for one. -/
def State.doneArrival (s : State) (gang done : Nat) : State :=
  let d := DoneField.ofNat done
  if d.cbv then s.completeArrival gang d.cbw d.cnt else s

/-- Where a command's block keeps its done field (R190, R206). -/
def EngCmd.done (c : EngCmd) : Nat := blockField c.blk (match c.kind with | .quant2 => 80 | _ => 56) 8

/-- A command of an engine. -/
def State.cmd? (s : State) (core : Fin 256) (id : Nat) : Option EngCmd := (s.core core).engine.find? fun c => c.id == id
def State.modCmd (s : State) (core : Fin 256) (id : Nat) (f : EngCmd → EngCmd) : State :=
  s.modCore core fun k => { k with engine := k.engine.map fun c => if c.id = id then f c else c }
def State.dropCmd (s : State) (core : Fin 256) (id : Nat) : State :=
  s.modCore core fun k => { k with engine := k.engine.filter fun c => c.id != id }

/-- The marks that a failed command leaves at the entries whose hidden copy it targeted (R204). -/
def EngCmd.failMarks (c : EngCmd) : List (Nat × Bool × Nat × Nat) :=
  c.hidden.map fun (remap, wg, e) => (if remap then c.gang else c.req.asid.toNat, remap, wg, e)

/-- A command has landed, or has failed with a cause and an NVMe status: it leaves the engine, it makes its completion
arrival, and a failure is reported (R188, R189). -/
def State.endCmd (s : State) (core : Fin 256) (c : EngCmd) (fail : Option (Nat × Nat)) : State :=
  let s := (s.dropCmd core c.id).doneArrival c.gang c.done
  match fail with
  | none => s.count (.core core) 0x1A 1
  | some (cause, status) =>
    { s.report c.req.wave (engInfo cause c.blkVa status) with hiddenFailed := s.hiddenFailed ++ c.failMarks }

end Sys2Proof.Machine
end

