-- ==== Sys2Proof/Machine/Array.lean ====
section
/-! DEFINITION. The array queue (R208), MMA (R216 to R222), ownership (R223, R224), the ACC group (R226), the shelves
and ROT (R227, R228). -/

namespace Sys2Proof.Machine

/-! ## Ownership and the queue -/

/-- The row groups whose owner refuses an ASID (R223), as the bits of TINFO. -/
def State.refusedGroups (s : State) (c : Fin 256) (asid : BitVec 8) (gs : List (Fin 16)) : Nat :=
  gs.foldl (fun m g =>
    let r := s.reg (Reg.accOwn c g.val)
    if r.getLsbD 63 && r.setWidth 8 != asid then m + 2 ^ g.val else m) 0

/-- Free groups claimed, their pairs set to (+0, +0) (R223). -/
def State.claimGroups (s : State) (c : Fin 256) (asid : BitVec 8) (gs : List (Fin 16)) : State :=
  gs.foldl (fun s g =>
    if s.regBit (Reg.accOwn c g.val) 63 then s
    else
      (s.setReg (Reg.accOwn c g.val) (BitVec.ofNat 64 (2 ^ 63 + asid.toNat))).modCore c fun k =>
        { k with acc := k.acc.filter fun x => x.1 / 2048 != g.val }) s

/-- The trap ACC_OWNED (R324). -/
def accOwnedInfo (bits : Nat) : TrapInfo := { TrapInfo.plain .accOwned with info := BitVec.ofNat 32 bits }

/-- The queue has a free entry; in deterministic mode entries are accepted at the period's end (R208, R316). -/
def State.arrayRoom (s : State) (w : Wave) : Bool := w.isDet || decide ((s.core w.core).arrayQ.length < 16)

/-- An operation entered in the queue. -/
def State.enterArray (s : State) (w : Wave) (p : Path) (op : ArrayOp) : Nat × State :=
  let (id, s) := s.fresh
  let e : ArrayEntry := { id := id, req := s.requester w 0, gang := w.gang, wg := w.wg, op := op, pc := p.pc,
                          issued := w.isDet, order := 0 }
  (id, s.modCore w.core fun k => { k with arrayQ := k.arrayQ ++ [e] })

/-- The entry that the array executes next: the first that has been accepted and not executed (R208, R316). -/
def Core.head? (c : Core) : Option ArrayEntry :=
  c.arrayQ.find? fun e => !e.issued && e.snap.isNone

/-- An entry leaves the queue. -/
def State.dropEntry (s : State) (core : Fin 256) (id : Nat) : State :=
  s.modCore core fun k => { k with arrayQ := k.arrayQ.filter fun e => e.id != id }

/-- An entry changed. -/
def State.modEntry (s : State) (core : Fin 256) (id : Nat) (op : ArrayOp) : State :=
  s.modCore core fun k => { k with arrayQ := k.arrayQ.map fun e => if e.id = id then { e with op := op } else e }

/-! ## MMA -/

/-- What R221 refuses in an operand block, before ownership. -/
def State.mmaFault? (s : State) (w : Wave) (p : Path) (blk : Nat) (bs : List Byte) : Option TrapInfo :=
  match mmaCause? bs with
  | some c => some (engInfo c blk 0)
  | none =>
    let m := MmaBlock.ofBytes bs
    match AccRegion.ofWord? m.region with
    | none => some (engInfo 1 blk 0)
    | some r =>
      match s.rangeFault? w.gang (m.ranges r) with
      | some (c, o) => some (TrapInfo.mem c p.mask o)
      | none =>
        let bits := s.refusedGroups w.core w.asid r.groups
        if bits = 0 then none else some (accOwnedInfo bits)

/-- The groups of a block's region. -/
def MmaBlock.groups (m : MmaBlock) : List (Fin 16) := ((AccRegion.ofWord? m.region).map (·.groups)).getD []

/-- MMA (R216, R221). -/
def execMma (a b : Operand) (s : State) : Result :=
  runCard (.mma a b) (fun w _ =>
    pipeCard (onlyLaunched w) [baseField a, .src b] [.src b] fun w p s =>
      let i := Instr.mma a b
      let blk := blockEa w p a b
      match blockAddrFault? blk 64 with
      | some c => .next (s.trap w p (wordOfInstr i) (TrapInfo.mem c p.mask blk))
      | none =>
        let s := s.settleHolds w.id
        if s.held w [.load] [blk] [] || s.held w [.scratch] [] [] then s.stall
        else
          match s.blockSync w blk with
          | some s => s.stall
          | none =>
            let s := s.blockRead w blk
            match s.blockBytes w blk 64 with
            | .error c => .next (s.trap w p (wordOfInstr i) (TrapInfo.mem c p.mask blk))
            | .ok bs =>
              match s.mmaFault? w p blk bs with
              | some info => .next (s.trap w p (wordOfInstr i) info)
              | none =>
                if !s.arrayRoom w || s.held w [.scratch] [] (mmaOffs bs) then s.stall
                else
                  let s := s.claimGroups w.core w.asid (MmaBlock.ofBytes bs).groups
                  .next ((s.enterArray w p (.mma blk bs 0 none none)).2.advance p 1)) s

/-- The Δ vector of an MMA (R219), read once. -/
def State.mmaDelta (s : State) (gang : Nat) (m : MmaBlock) (r : AccRegion) : List Word :=
  if m.rot then
    (List.range r.rows).map fun i => BitVec.ofNat 32 (leNat (s.readWindow gang (windowOff m.dvoff 4 i) 4))
  else []

/-- Every Δ is in range (R219). -/
def deltaOk (ds : List Word) : Bool := ds.all fun d => decide (d.toNat < 2 ^ 24)

/-- One step of an MMA at its core, with its event counts; a predictor stretch and a replay change no pair (R220,
R225). -/
def State.mmaOne (s : State) (core : Fin 256) (gang : Nat) (m : MmaBlock) (r : AccRegion) (delta : List Word)
    (st : Nat) : State :=
  let rows := s.mmaRows core gang m r delta
  let scales := (List.range r.rows).map (s.aScales gang m)
  let recs := (List.range r.cols).map fun j => (s.core core).stepRecord m (r.col + j) st
  let on := s.regBit (Reg.mg core 0) 0
  let stretch := on && stretches m.afmt (s.reg (Reg.mg core 8)).toNat st rows
  let s := (s.modCore core fun c => c.mmaStep m r st rows scales recs).count (.core core) 0x17 1
  if stretch then (s.setReg (Reg.mg core 0x20) (s.reg (Reg.mg core 0x20) + 1)).count (.core core) 0x19 1 else s

/-- The array voltage of the core's die is ramping: every step issues stretched (R421). -/
def State.ramping (s : State) (core : Fin 256) : Bool := decide (s.tick < s.device.rampEnd[core.val / 64])

/-- The step that an entry stands at is issued stretched, or shadow latches are off: it is never replayed (R225, R421). -/
def State.noReplay (s : State) (core : Fin 256) (gang : Nat) (m : MmaBlock) (r : AccRegion) (delta : List Word)
    (st : Nat) : Bool :=
  !s.regBit (Reg.mg core 0) 0 || s.ramping core
    || stretches m.afmt (s.reg (Reg.mg core 8)).toNat st (s.mmaRows core gang m r delta)

/-- An MMA's steps from `st` on, `n` of them, until one meets an uncorrectable byte (R220, R221). -/
def State.mmaSteps (s : State) (core : Fin 256) (gang : Nat) (m : MmaBlock) (r : AccRegion) (ds : List Word) :
    Nat → Nat → Option Nat × State
  | _, 0 => (none, s)
  | st, n + 1 =>
    if s.stepLost core gang m r ds st then (some 0x0C, s)
    else State.mmaSteps (s.mmaOne core gang m r ds st) core gang m r ds (st + 1) n

/-- The whole of an MMA at once, with the cause of a late failure (R219, R220, R221). -/
def State.mmaWhole (s : State) (core : Fin 256) (gang : Nat) (blk : List Byte) : Option Nat × State :=
  let m := MmaBlock.ofBytes blk
  match AccRegion.ofWord? m.region with
  | none => (none, s)
  | some r =>
    let ds := s.mmaDelta gang m r
    if !deltaOk ds then (some 0x10, s) else s.mmaSteps core gang m r ds 0 (m.nst + 1)

/-- An entry's MMA ends: its own arrival, then its command's end, or its report (R188, R189, R201, R221). -/
def State.endMma (s : State) (core : Fin 256) (e : ArrayEntry) (blkVa : Nat) (done : Nat) (cmd : Option Nat)
    (fail : Option Nat) : State :=
  let s := (s.dropEntry core e.id).doneArrival e.gang done
  match cmd.bind (s.cmd? core) with
  | some c => s.endCmd core c (fail.map fun x => (x, 0))
  | none =>
    match fail with
    | some x => s.report e.req.wave (engInfo x blkVa 0)
    | none => s

/-- MMA_STEP: the array computes one K step of the MMA at the head of its queue (R220), or the MMA fails: before step 0 with
a Δ out of range, and at a step that meets an uncorrectable byte (R221). -/
def execMmaStep (core : Fin 256) (mismatch : Bool) (s : State) : Result :=
  match (s.core core).head? with
  | none => notEnabled
  | some e =>
    match e.op with
    | .mma va blk n delta cmd =>
      let m := MmaBlock.ofBytes blk
      match AccRegion.ofWord? m.region with
      | none => notEnabled
      | some r =>
        let ds := delta.getD (s.mmaDelta e.gang m r)
        if !deltaOk ds then .next (s.endMma core e va m.done cmd (some 0x10))
        else if s.stepLost core e.gang m r ds n then .next (s.endMma core e va m.done cmd (some 0x0C))
        else if mismatch && s.noReplay core e.gang m r ds n then notEnabled
        else
          let s := if mismatch then
              (s.setReg (Reg.mg core 0x18) (s.reg (Reg.mg core 0x18) + 1)).count (.core core) 0x18 1 else s
          let s := s.mmaOne core e.gang m r ds n
          if n < m.nst then .next (s.modEntry core e.id (.mma va blk (n + 1) (some ds) cmd))
          else .next (s.endMma core e va m.done cmd none)
    | _ => notEnabled

/-! ## The ACC group -/

/-- The types that a pair is converted to (R226). -/
def accType (t : ElemType) : Bool :=
  match t with
  | .fp32 | .bf16 | .fp8e4 | .fp8e5 | .pair => true
  | _ => false

/-- Bytes of an element that ACCCVT writes. -/
def accWidth (t : ElemType) : Nat :=
  match t with
  | .pair => 8
  | .fp32 => 4
  | .bf16 => 2
  | _ => 1

/-- The value of a pair by type (R226). -/
def accValue (m : Mode) (p : Word × Word) : DWord :=
  match elemFmt? m.type with
  | some f => BitVec.ofNat 64 (f.deliver m.round m.sat (pairValue m.round p.1 p.2))
  | none => join64 p.1 p.2

/-- A row descriptor: row and first column (R226). -/
def accRow? (w : Word) : Option (Nat × Nat) :=
  let n := w.toNat
  if bitsOf n 31 15 = 0 ∧ bitsOf n 14 8 ≤ 96 then some (bitsOf n 7 0, bitsOf n 14 8) else none

/-- Ownership and room, then the entry (R208, R223). -/
def State.accEnter (s : State) (w : Wave) (p : Path) (i : Instr) (gs : List (Fin 16))
    (go : State → Result) : Result :=
  let bits := s.refusedGroups w.core w.asid gs
  if bits ≠ 0 then .next (s.trap w p (wordOfInstr i) (accOwnedInfo bits))
  else if !s.arrayRoom w then s.stall
  else go (s.claimGroups w.core w.asid gs)

/-- An invalid descriptor (R226). -/
def State.accFault (s : State) (w : Wave) (p : Path) (i : Instr) : Result :=
  let (info, s) := s.freeMem .memFault p.mask
  .next (s.trap w p (wordOfInstr i) info)

/-- The group of a row. -/
def rowGroup (r : Nat) : List (Fin 16) := [Fin.ofNat 16 (r / 16)]

/-- ACCZ (R226). -/
def execAccz (a : Operand) (s : State) : Result :=
  runCard (.accz a) (fun w _ =>
    pipeCard (onlyLaunched w) [.src a] [.src a] fun w p s =>
      let word := srcUni w p a
      match AccRegion.ofWord? word with
      | none => s.accFault w p (.accz a)
      | some r => s.accEnter w p (.accz a) r.groups fun s => .next ((s.enterArray w p (.accz word)).2.advance p 1)) s

/-- ACCRD (R226). -/
def execAccrd (d a : Operand) (s : State) : Result :=
  runCard (.accrd d a) (fun w p =>
    let pair := p.mode.type == .pair
    pipeCard (onlyLaunched w && accType p.mode.type)
      [if pair then .group isVec 2 2 d else .group isVec 1 1 d, .src a] [.src a] fun w p s =>
        let exec := execMask w p
        match accRow? (srcUni w p a) with
        | none => s.accFault w p (.accrd d a)
        | some (row, col) =>
          s.accEnter w p (.accrd d a) (rowGroup row) fun s =>
            let (id, s) := s.fresh
            let f := Inflight.new id .accrd (dstRegs (p.mode.type == .pair) d) false exec p.pc
            .next (((s.enterArray w p (.accrd row col exec p.mode id)).2).defer w p { f with due := exec } (streamCost exec))) s

/-- ACCWR (R226). -/
def execAccwr (d a : Operand) (s : State) : Result :=
  runCard (.accwr d a) (fun w p =>
    let pair := p.mode.type == .pair
    pipeCard (onlyLaunched w && (p.mode.type == .fp32 || pair))
      [if pair then .group isVec 2 2 d else .group isVec 1 1 d, .src a] [.src a] fun w p s =>
        let exec := execMask w p
        let wide := p.mode.type == .pair
        match accRow? (srcUni w p a) with
        | none => s.accFault w p (.accwr d a)
        | some (row, col) =>
          s.accEnter w p (.accwr d a) (rowGroup row) fun s =>
            let v := fun (f : DWord → Word) => lanesOf fun i => f (srcOf wide w p d i)
            .next ((s.enterArray w p (.accwr row col exec (v lo32) (v hi32))).2.advance p (streamCost exec))) s

/-- The scratch ranges of an ACCCVT: offset, length, alignment. -/
def acccvtRanges (r : AccRegion) (off pitch w : Nat) : List (Nat × Nat × Nat) :=
  (List.range r.rows).map fun i => (windowOff off pitch i, r.cols * w, w)

/-- ACCCVT (R226): its writes are scratchpad stores of the wave, whose later scratchpad accesses wait for them. -/
def execAcccvt (d a : Operand) (s : State) : Result :=
  runCard (.acccvt d a) (fun w p =>
    pipeCard (onlyLaunched w && accType p.mode.type) [.group isSca 2 2 d, .src a] [.src a] fun w p s =>
      let word := srcUni w p a
      match AccRegion.ofWord? word with
      | none => s.accFault w p (.acccvt d a)
      | some r =>
        let x := scalar64 w d
        let off := (lo32 x).toNat
        let pitch := (hi32 x).toNat
        match s.rangeFault? w.gang (acccvtRanges r off pitch (accWidth p.mode.type)) with
        | some (c, o) => .next (s.trap w p (wordOfInstr (.acccvt d a)) (TrapInfo.mem c p.mask o))
        | none =>
          let s := s.settleHolds w.id
          if s.held w [.scratch] [] ((acccvtRanges r off pitch (accWidth p.mode.type)).flatMap fun x => (List.range x.2.1).map (x.1 + ·)) then s.stall
          else s.accEnter w p (.acccvt d a) r.groups fun s =>
            let (id, s) := s.enterArray w p (.acccvt word off pitch p.mode)
            let hold : Hold := { classes := [.scratch], through := none, deps := [id], loads := [], commands := [], netOps := [],
                                 acquire := false }
            .next ((if w.isDet then s else s.addHold w.id hold).advance p 1)) s

/-- ACCZ at the array. -/
def Core.accClear (c : Core) (r : AccRegion) : Core :=
  (List.range r.rows).foldl (fun c i =>
    (List.range r.cols).foldl (fun (c : Core) j => c.setAccPair (r.row + i) (r.col + j) (0, 0)) c) c

/-- ACCWR at the array. -/
def Core.accWrite (c : Core) (row col : Nat) (exec : Mask) (h l : Lanes) (pair : Bool) : Core :=
  (lanesIn exec).foldl (fun c i => c.setAccPair row (col + i.val) (h[i], if pair then l[i] else 0)) c

/-- The lanes that ACCRD delivers. -/
def Core.accLanes (c : Core) (row col : Nat) (mode : Mode) : List Lanes :=
  let v := fun (i : Fin 32) => accValue mode (c.accPair row (col + i.val))
  [lanesOf fun i => lo32 (v i), lanesOf fun i => hi32 (v i)]

/-- The bytes that ACCCVT writes, with their window offsets. -/
def Core.accBytes (c : Core) (r : AccRegion) (off pitch : Nat) (mode : Mode) : List (Nat × Byte) :=
  let w := accWidth mode.type
  (List.range r.rows).flatMap fun i => (List.range r.cols).flatMap fun j =>
    (leBytes w (accValue mode (c.accPair (r.row + i) (r.col + j))).toNat).zipIdx.map fun (b, k) =>
      (windowOff off pitch i + j * w + k, b)

/-- Values of an ACCRD delivered to its wave. -/
def State.deliverAcc (s : State) (wave infl : Nat) (vals : List Lanes) : State :=
  s.modWave wave fun w =>
    match w.inflight.find? fun x => x.id == infl with
    | none => w
    | some f => w.settleInflight { f with vals := vals.take f.dst.length, due := 0 }

/-! ## Shelves -/

/-- Bytes of an image (R227). -/
def shelfSize (rot : Bool) : Nat := if rot then 589824 else 4096

/-- The frames of an image's pages, or the trap of the first that cannot be read. -/
def State.imagePages (s : State) (w : Wave) (va n : Nat) : Except (TrapCode × Nat) (SMap Nat) :=
  (List.range ((va + n - 1) / 65536 + 1 - va / 65536)).foldlM (fun m k =>
    let page := va / 65536 + k
    match s.place w (max va (page * 65536)) 1 .r with
    | .ok pa => .ok (SMap.insert m page (pa / 65536))
    | .error c => .error (c, max va (page * 65536))) []

/-- An image byte at its home. -/
def State.imageByte (s : State) (pages : SMap Nat) (va : Nat) : Except LineErr Byte :=
  s.homeByte (SMap.get 0 pages (va / 65536) * 65536 + va % 65536)

/-- The lines of an image. -/
def imageLines (rot : Bool) (va : Nat) (pages : SMap Nat) : List Nat :=
  (List.range (shelfSize rot / 128)).map fun i =>
    let a := va + 128 * i
    (SMap.get 0 pages (a / 65536) * 65536 + a % 65536) / 128

/-- The body of CBLD and ROTLD (R227): the instruction holds its pipe until the load is complete, and meanwhile no unit is placed
on the core (R297). -/
def shelfBody (i : Instr) (rot : Bool) (a : Operand) (w : Wave) (p : Path) (s : State) : Result :=
  match p.stage with
  | .entry _ => s.stall
  | _ =>
    let va := (scalar64 w a).toNat
    match blockAddrFault? va 128 with
    | some c => .next (s.trap w p (wordOfInstr i) (TrapInfo.mem c p.mask va))
    | none =>
      match s.imagePages w va (shelfSize rot) with
      | .error (c, ea) => .next (s.trap w p (wordOfInstr i) (TrapInfo.mem c p.mask ea))
      | .ok pages =>
        if !s.arrayRoom w then s.stall
        else
          let (id, s) := s.enterArray w p (.shelf rot va pages)
          let s := s.modCore w.core fun k => { k with arrayQ := k.arrayQ.map fun e =>
            if e.id = id then { e with issued := false } else e }
          .next ((s.startReload (.shelves w.core)).modCurPath fun q => { q with stage := .entry id, swDone := true })

/-- CBLD. -/
def execCbld (a : Operand) (s : State) : Result :=
  runCard (.cbld a) (fun w _ =>
    { pipeCard (onlyLaunched w) [baseField a] [] (shelfBody (.cbld a) false a) with priv := w.system }) s

/-- ROTLD. -/
def execRotld (a : Operand) (s : State) : Result :=
  runCard (.rotld a) (fun w _ =>
    { pipeCard (onlyLaunched w) [baseField a] [] (shelfBody (.rotld a) true a) with priv := w.system }) s

/-- The cause that fails a shelf load (R77, R227). -/
def State.shelfFault? (s : State) (rot : Bool) (bs : Except LineErr (List Byte)) : Option Nat :=
  let _ := s
  match bs with
  | .error .lost => some 0x0C
  | .error .absent => some 0x11
  | .ok l =>
    if !rot && (List.range 512).any fun k => decide (leNat ((l.drop (8 * k)).take 8) ≥ 2 ^ 33) then some 1 else none

/-- The path that an entry's completion lets go on. -/
def State.releaseEntry (s : State) (id : Nat) : State :=
  { s with waves := s.waves.map fun w =>
      match w.paths.find? fun p => p.stage == .entry id with
      | some p => w.retire p.tag (p.pc + 4) 1
      | none => w }

/-- A shelf load at the array: the image is checked whole before the shelf is written. -/
def State.shelfLoad (s : State) (core : Fin 256) (e : ArrayEntry) (rot : Bool) (va : Nat) (pages : SMap Nat) : State :=
  let bs := (List.range (shelfSize rot)).mapM fun i => s.imageByte pages (va + i)
  let s := match s.shelfFault? rot bs, bs with
    | some c, _ => s.report e.req.wave (engInfo c va 0)
    | none, .ok l => (s.modCore core fun k =>
        if rot then { k with rotation := k.rotation.writeN 0 l } else { k with codebook := k.codebook.writeN 0 l }).heal core (if rot then .rotation else .codebook) 0 (shelfSize rot)
    | none, .error _ => s
  ((s.dropEntry core e.id).releaseEntry e.id).endReload (.shelves core) e.req.asid

/-- An entry of the ACC group executed at the array (R226); none for the other entries. -/
def State.executeAcc (s : State) (core : Fin 256) (e : ArrayEntry) : Option State :=
  match e.op with
  | .accz word => (AccRegion.ofWord? word).map fun r => (s.modCore core fun c => c.accClear r).dropEntry core e.id
  | .accrd row col _ mode infl => some ((s.deliverAcc e.req.wave infl ((s.core core).accLanes row col mode)).dropEntry core e.id)
  | .accwr row col exec h l => some ((s.modCore core fun c => c.accWrite row col exec h l true).dropEntry core e.id)
  | .acccvt word off pitch mode => (AccRegion.ofWord? word).map fun r =>
    (((s.core core).accBytes r off pitch mode).foldl (fun s (o, b) => s.writeWindowByte e.gang false o b) s).dropEntry core e.id
  | _ => none

/-- ARRAY_ENTRY_EXECUTE: an entry other than an MMA executes at the head of the queue (R208, R226, R227). -/
def execArrayEntryExecute (core : Fin 256) (s : State) : Result :=
  match (s.core core).head? with
  | none => notEnabled
  | some e =>
    match e.op with
    | .shelf rot va pages => s.atHomes core (imageLines rot va pages) e.req.asid fun s => .next (s.shelfLoad core e rot va pages)
    | _ =>
      match s.executeAcc core e with
      | some s => .next s
      | none => notEnabled

/-- A ROTLD of the core is in its queue (R228). -/
def Core.rotLoading (c : Core) : Bool :=
  c.arrayQ.any fun e => match e.op with | .shelf true _ _ => true | _ => false

/-- ROT in one lane (R228). -/
def Core.rotLane (c : Core) (delta f x y : Word) : Word × Word :=
  if 2 ^ 24 ≤ delta.toNat ∨ 96 ≤ f.toNat then (nan32, nan32) else rotatePair (x, y) (c.rotor delta.toNat f.toNat)

/-- The lanes of a ROT whose rotation reads an uncorrectable byte (R212, R228). -/
def State.rotLost (s : State) (w : Wave) (p : Path) (a : Operand) : Mask :=
  maskOf fun i =>
    let y := src64 w p a i
    (execMask w p).getLsbD i.val && decide ((lo32 y).toNat < 2 ^ 24 ∧ (hi32 y).toNat < 96)
      && s.rotorLost w.core (lo32 y).toNat [(hi32 y).toNat]

/-- ROT (R228): an uncorrectable shelf byte raises ECC_UNCORR with no lane written; no address is stated for it. -/
def execRot (d a : Operand) (s : State) : Result :=
  runCard (.rot d a) (fun w p =>
    pipeCard (onlyLaunched w && p.mode.type == .fp32) [.group isVec 2 2 d, .group isVec 2 2 a] [] fun w p s =>
      if (s.core w.core).rotLoading then s.stall
      else
        let bad := s.rotLost w p a
        let z := fun (i : Fin 32) =>
          let x := src64 w p d i
          let y := src64 w p a i
          (s.core w.core).rotLane (lo32 y) (hi32 y) (lo32 x) (hi32 x)
        if bad = 0 then .next (s.result w p false d true [lanesOf fun i => (z i).1, lanesOf fun i => (z i).2])
        else
          let (info, s) := s.freeMem .eccUncorr bad
          .next (s.trap w p (wordOfInstr (.rot d a)) info)) s

/-! ## The array's registers -/

/-- Entries of the group's owner are in the queue (R224). -/
def State.ownerBusy (s : State) (core : Fin 256) (g : Fin 16) : Bool :=
  let r := s.reg (Reg.accOwn core g.val)
  r.getLsbD 63 && (s.core core).arrayQ.any fun e => e.req.asid == r.setWidth 8

/-- ACCOWN_WRITE (R224). -/
def execAccownWrite (core : Fin 256) (g : Fin 16) (value : DWord) (s : State) : Result :=
  if s.ownerBusy core g then .next s
  else .next (s.setReg (Reg.accOwn core g.val) (value &&& BitVec.ofNat 64 (2 ^ 63 + 0xFF)))

/-- MGSTR_WRITE: a write of 0 is dropped (R224). -/
def execMgstrWrite (core : Fin 256) (value : DWord) (s : State) : Result :=
  let x := value &&& 0xF#64
  if x = 0 then .next s else .next (s.setReg (Reg.mg core 0x10) x)

end Sys2Proof.Machine
end

