-- ==== Sys2Proof/Machine/Atomics.lean ====
section
/-! DEFINITION. The atomics and COMB at the core (R124 to R131, R314), the combiner group (R139). -/

namespace Sys2Proof.Machine

/-! ## Atomics -/

/-- The operand that is a register further on. -/
def Operand.plus (o : Operand) (k : Nat) : Operand :=
  match o with
  | .v r => .v (r + Fin.ofNat 128 k)
  | .s r => .s (r + Fin.ofNat 64 k)
  | x => x

/-- The 64-bit address operand: a vector or scalar pair (R124). -/
def addrField (a : Operand) : Field := .group isReg 2 2 a

/-- Field d of an atomic: its destination, and in ATCAS the operands cmp and swap (R124). -/
def atomicDst (cas wide : Bool) (d : Operand) : Field :=
  if cas then (if wide then .group isReg 4 4 d else .group isReg 1 2 d) else regField wide d

/-- Fields of an atomic: with nw = 1 d counts only where it is a source (R47). -/
def atomicFields (cas nw wide : Bool) (d a b : Operand) : List Field :=
  (if nw && !cas then [] else [atomicDst cas wide d]) ++ [addrField a] ++ (if cas then [] else [Field.srcOf wide b])

/-- The fields that must be uniform: all sources of a scalar d (R125). -/
def atomicUniform (cas nw wide : Bool) (d a b : Operand) : List Field :=
  if (nw && !cas) || !isSca d then [] else [addrField a] ++ (if cas then [] else [Field.srcOf wide b])

/-- One request, issued once (R125). -/
def atomicUni (cas nw wide : Bool) (d a b : Operand) (p : Path) : Bool :=
  if nw && !cas then isSca a && !(Field.srcOf wide b).streamed p else isSca d

/-- An operation that a version holds instead of sending it (R129). [DEDUCED, log 27, safe] -/
def heldAtomic (op : AtomicOp) (nw : Bool) (t : ElemType) : Bool :=
  nw && (intWidth? t).isSome && !(op == .xchg || op == .cas)

/-- The types of an atomic (R124). -/
def atomicType (op : AtomicOp) (t : ElemType) : Bool :=
  let int := t == .i32 || t == .ui32 || t == .i64 || t == .ui64
  match op with
  | .add => int || t == .fp32 || t == .pair
  | .min | .max => int || t == .fp32
  | .and | .or | .xor | .cas => int || t == .b32
  | .xchg => int || t == .b32 || t == .fp32 || t == .pair

/-- The request of a lane (R126). -/
def atomicReq (op : AtomicOp) (w : Wave) (p : Path) (d b : Operand) (i : Fin 32) (ea pa : Nat) (infl : Option Nat) :
    AtomicReq :=
  let wide := isWide p.mode.type
  let cas := op == .cas
  { op := op, type := p.mode.type, round := p.mode.round, sat := p.mode.sat, pa := pa, ea := ea, lane := i,
    val := if cas then srcOf wide w p (Operand.plus d (if wide then 2 else 1)) i else srcOf wide w p b i,
    cmp := if cas then srcOf wide w p d i else 0, infl := infl }

/-- A deferred result whose values are known at once: written, its registers pending until they are next named. -/
def State.deferNow (s : State) (w : Wave) (p : Path) (x : Inflight) (cost : Nat) : State :=
  (s.defer w p x cost).modWave w.id fun w => w.settleInflight x

/-- The requests of an atomic performed one after another in step 4 of a period (R312). -/
def State.atomicsNow (s : State) (w : Wave) (f : Inflight) (rs : List AtomicReq) : Inflight × State :=
  rs.foldl (fun (f, s) r =>
    let s := s.evictL1 w.core (r.pa / 128)
    match s.atomicAt (s.requester w r.ea) (s.stampOf w r.ea) r w.master with
    | .ok (old, s') => (f.arrive r.lane old, s')
    | .error (.line e) => (f.fail r.lane (lostInfo e r.ea), s)
    | .error .wait => (f, s)) (f, s)

/-- What stands in the way of performing atomics at once: a home that cannot serve (R118, R133), or dirty bytes of the core
that have still to arrive (R141). -/
def State.atomicsWait (s : State) (w : Wave) (rs : List AtomicReq) : Bool :=
  rs.any fun r => !s.serves (r.pa / 128) || s.logBusy w.asid || !(s.lineWritebacks w.core (r.pa / 128)).isEmpty

/-- Direct accesses leave for their homes behind a release at a scope, and behind what else holds them (R127, R131, R144). -/
def State.sendReleased (s : State) (w : Wave) (scope : Scope) (x : Waits) (msgs : List (Fin 128 × HomeOp)) : State :=
  if msgs.isEmpty then s
  else
    let (deps, net, s) := s.releaseDeps w scope
    (s.enqueue (s.requester w 0) (x.join { Waits.none with deps := deps, netOps := net }) (.store msgs)).2

/-- The body of an atomic. -/
def atomicBody (i : Instr) (op : AtomicOp) (nw : Bool) (d a b : Operand) (w : Wave) (p : Path) (s : State) : Result :=
  let wide := isWide p.mode.type
  let cas := op == .cas
  let n := if wide then 8 else 4
  let uni := atomicUni cas nw wide d a b p
  let exec := if uni then p.mask else execMask w p
  let cost := if uni then 1 else streamCost exec
  let l := collectLanes ((actLanes uni exec).map fun j =>
    let ea := pairEa w p a j
    (j, ea, s.place w ea n .rw)) (if uni then some p.mask else none)
  match l with
  | .error info => .next (s.trap w p (wordOfInstr i) info)
  | .ok l =>
    let s := (s.settleHolds w.id).walked w (l.map (·.2.1))
    let x := s.globalWaits w [.load, .store] (l.map (·.2.1)) (l.map (·.2.2 / 128))
    let (id, s) := s.fresh
    let rs := l.map fun (j, ea, pa) => atomicReq op w p d b j ea pa (if nw then none else some id)
    let f := Inflight.new id .atomic (if nw then [] else dstRegs wide d) uni exec p.pc
    match (if x.irrevocable then none else s.versionOf? w) with
    | some v =>
      .next ((s.modVersion v.part v.ver fun v =>
        { v with atomics := v.atomics ++ rs.map fun r => (s.requester w r.ea, r) }).advance p cost)
    | none =>
      if w.isDet then
        if s.atomicsWait w rs then s.stall
        else
          let (f, s) := s.atomicsNow w f rs
          .next (if nw then s.advance p cost else s.deferNow w p f cost)
      else
        let msgs := rs.map fun r => (homeOf r.pa, HomeOp.atomic r)
        let s := s.sendReleased w p.mode.scope x msgs
        .next (if nw then s.advance p cost
          else s.defer w p { f with due := maskOfLanes (l.map (·.1)), acquire := some p.mode.scope } cost)

/-- The card of an atomic (R124 to R129). -/
def atomicCard (i : Instr) (op : AtomicOp) (nw : Bool) (d a b : Operand) (w : Wave) (p : Path) : Card :=
  let t := p.mode.type
  let wide := isWide t
  let cas := op == .cas
  { pipeCard (onlyLaunched w && atomicType op t) (atomicFields cas nw wide d a b) (atomicUniform cas nw wide d a b)
      (atomicBody i op nw d a b) with
    race := true, irrev := !heldAtomic op nw t, sync := true }

/-- ATADD. -/
def execAtadd (nw : Bool) (d a b : Operand) (s : State) : Result :=
  runCard (.atadd nw d a b) (atomicCard (.atadd nw d a b) .add nw d a b) s

/-- ATMIN. -/
def execAtmin (nw : Bool) (d a b : Operand) (s : State) : Result :=
  runCard (.atmin nw d a b) (atomicCard (.atmin nw d a b) .min nw d a b) s

/-- ATMAX. -/
def execAtmax (nw : Bool) (d a b : Operand) (s : State) : Result :=
  runCard (.atmax nw d a b) (atomicCard (.atmax nw d a b) .max nw d a b) s

/-- ATAND. -/
def execAtand (nw : Bool) (d a b : Operand) (s : State) : Result :=
  runCard (.atand nw d a b) (atomicCard (.atand nw d a b) .and nw d a b) s

/-- ATOR. -/
def execAtor (nw : Bool) (d a b : Operand) (s : State) : Result :=
  runCard (.ator nw d a b) (atomicCard (.ator nw d a b) .or nw d a b) s

/-- ATXOR. -/
def execAtxor (nw : Bool) (d a b : Operand) (s : State) : Result :=
  runCard (.atxor nw d a b) (atomicCard (.atxor nw d a b) .xor nw d a b) s

/-- ATXCHG. -/
def execAtxchg (nw : Bool) (d a b : Operand) (s : State) : Result :=
  runCard (.atxchg nw d a b) (atomicCard (.atxchg nw d a b) .xchg nw d a b) s

/-- ATCAS. -/
def execAtcas (nw : Bool) (d a : Operand) (s : State) : Result :=
  runCard (.atcas nw d a) (atomicCard (.atcas nw d a) .cas nw d a .zero) s

/-! ## COMB (R131) -/

/-- Fields of COMB. -/
def combFields (nw : Bool) (d a b : Operand) : List Field :=
  (if nw then [] else [regField true d]) ++ [addrField a, Field.srcOf true b]
/-- The fields that must be uniform (R125, R131). -/
def combUniform (nw : Bool) (d a b : Operand) : List Field :=
  if nw || !isSca d then [] else [addrField a, Field.srcOf true b]
/-- One request, issued once (R125). -/
def combUni (nw : Bool) (d a b : Operand) (p : Path) : Bool :=
  if nw then isSca a && !(Field.srcOf true b).streamed p else isSca d

/-- The lanes of a COMB with their object addresses, or the trap of the lowest failing one. -/
def State.combLanes (s : State) (w : Wave) (p : Path) (nw : Bool) (d a b : Operand) :
    Except TrapInfo (List (Fin 32 × Nat × Nat)) :=
  let uni := combUni nw d a b p
  let exec := if uni then p.mask else execMask w p
  collectLanes ((actLanes uni exec).map fun j =>
    let ea := pairEa w p a j
    (j, ea, s.place w ea 128 .rw)) (if uni then some p.mask else none)

/-- The requests of a COMB, the deferred result they reply to, and the instruction's own record (R131, R137). -/
def State.combRequests (s : State) (w : Wave) (p : Path) (nw : Bool) (d a b : Operand)
    (l : List (Fin 32 × Nat × Nat)) : List CombReq × Inflight × CombOp × State :=
  let (id, s) := s.fresh
  let uni := combUni nw d a b p
  let exec := if uni then p.mask else execMask w p
  let rs := l.map fun (j, ea, pa) =>
    ({ req := s.requester w ea, obj := pa, objVa := ea, arg := src64 w p b j, lane := j, op := id,
       infl := if nw then none else some id, msg := 0 } : CombReq)
  let f := { Inflight.new id .comb (if nw then [] else dstRegs true d) uni exec p.pc with
    due := maskOfLanes (l.map (·.1)), acquire := some p.mode.scope }
  (rs, f, { id := id, pc := p.pc, left := l.length, granted := !w.isDet, aborted := [] }, s)

/-- The wave's record of a COMB with requests outstanding. -/
def State.addCombOp (s : State) (w : Nat) (o : CombOp) : State :=
  if o.left = 0 then s else s.modWave w fun x => { x with combOps := x.combOps ++ [o] }

/-- Up to 32 of the period's requests for an object join the home's queue, in their order (R314); a full queue holds them
(R132). -/
def State.queueGroup (s : State) (k : Fin 256) (obj : Nat) : State :=
  match (s.launch? k).bind (·.det) with
  | none => s
  | some dt =>
    let group := (dt.combs.filter fun r => r.obj == obj).take 32
    if 1024 < (s.home (homeOf obj)).combQ.length + group.length then s
    else
    let inGroup := fun (r : CombReq) => group.any fun g => g.op == r.op && g.lane == r.lane
    let s := s.modLaunch k fun l => { l with det := l.det.map fun (x : DetState) =>
      { x with combs := x.combs.filter fun r => !(inGroup r) } }
    (s.modHome (homeOf obj) fun h => { h with combQ := h.combQ ++ group }).count (.home (homeOf obj)) 0x23 group.length

/-- Requests of a COMB that no queue has taken yet (R132, R314). -/
def State.combsLeft (s : State) (w : Wave) (op : Nat) : Bool :=
  ((s.launchOf? w).bind (·.det)).any fun d => d.combs.any fun q => q.op == op

/-- A COMB of a deterministic launch comes due: the batches whose first requests are its own are queued (R314). -/
def State.combDue (s : State) (w : Wave) (op : Nat) : State :=
  match s.launchOf? w with
  | none => s
  | some l =>
    ((l.det.map (·.combs)).getD []).foldl (fun s r =>
      if r.op = op ∧ ((s.launch? l.slot).bind (·.det)).any (fun d => d.combs.any fun q => q.op == op && q.lane == r.lane) then
        s.queueGroup l.slot r.obj
      else s) s

/-- COMB. -/
def execComb (nw : Bool) (d a b : Operand) (s : State) : Result :=
  runCard (.comb nw d a b) (fun w _ =>
    { pipeCard (onlyLaunched w) (combFields nw d a b) (combUniform nw d a b)
      (fun w p s =>
        let uni := combUni nw d a b p
        let cost := if uni then 1 else streamCost (execMask w p)
        match s.combLanes w p nw d a b with
        | .error info => .next (s.trap w p (wordOfInstr (.comb nw d a b)) info)
        | .ok l =>
          let s := (s.settleHolds w.id).walked w (l.map (·.2.1))
          if w.isDet then
            match w.combOps.find? fun o => o.pc == p.pc && !o.granted with
            | some o =>
              let s := s.combDue w o.id
              if s.combsLeft w o.id then s.stall
              else
              let s := s.combGrant w.id o.id
              let pend := if nw then [] else dstRegs true d
              .next ((s.modCurPath fun q =>
                { q with pending := q.pending ++ pend.filter fun r => !q.pending.contains r }).advance p cost)
            | none =>
              if !l.isEmpty then .next (s.block .period)
              else
                let (_, f, _, s) := s.combRequests w p nw d a b l
                .next (if nw then s.advance p cost else s.deferNow w p f cost)
          else
            let (rs, f, o, s) := s.combRequests w p nw d a b l
            let s := s.addCombOp w.id o
            let msgs := rs.map fun r => (homeOf r.obj, HomeOp.comb r)
            let x := s.globalWaits w [.load, .store] (l.map (·.2.1)) (msgs.flatMap (·.2.lines))
            let s := s.sendReleased w p.mode.scope x msgs
            .next (if nw then s.advance p cost else s.defer w p f cost)) with
      race := true, irrev := true, sync := true }) s

/-! ## The combiner group (R139) -/

/-- The wave runs a batch. -/
def isCombiner (w : Wave) : Bool := match w.kind with | .combiner _ => true | _ => false

/-- The request that lane k holds. -/
def Batch.arg (b : Batch) (k : Nat) : DWord := (b.reqs[k]?.map (·.arg)).getD 0

/-- CMBARG. -/
def execCmbarg (d : Operand) (s : State) : Result :=
  runCard (.cmbarg d) (fun w _ =>
    pipeCard (isCombiner w) [.group isVec 2 2 d] [] fun w p s =>
      match s.batchOf? w with
      | some (_, b) =>
        .next (s.result w p false d true [lanesOf fun i => lo32 (b.arg i.val), lanesOf fun i => hi32 (b.arg i.val)])
      | none => .next (s.advance p 1)) s

/-- CMBREPLY. -/
def execCmbreply (a : Operand) (s : State) : Result :=
  runCard (.cmbreply a) (fun w _ =>
    pipeCard (isCombiner w) [.group isVec 2 2 a] [] fun w p s =>
      match s.batchOf? w with
      | some (h, _) =>
        let new := (lanesIn (execMask w p)).map fun i => (i.val, src64 w p a i)
        .next ((s.modHome h fun x => { x with batch := x.batch.map fun (b : Batch) =>
          { b with replies := (b.replies.filter fun r => !(new.any fun n => n.1 == r.1)) ++ new } }).advance p
            (streamCost (execMask w p)))
      | none => .next (s.advance p 1)) s

/-- The lanes of a batch. -/
def Batch.lanes (b : Batch) : Mask := maskOf fun i => decide (i.val < b.reqs.length)

/-- The staged header still has the class and size of the original (R136). -/
def Batch.headerKept (b : Batch) : Bool := leNat (b.staged.readN 0 8) % 2 ^ 19 == b.header.toNat % 2 ^ 19

/-- CMBEND: commit, or an abort with status 5 (R135, R136, R139). -/
def execCmbend (s : State) : Result :=
  runCard .cmbend (fun w _ =>
    pipeCard (isCombiner w) [] [] fun w p s =>
      match s.batchOf? w with
      | some (h, b) =>
        if p.mask == b.lanes && b.headerKept then .next (s.commitBatch h) else .next (s.abortBatch h 5 0)
      | none => .next (s.advance p 1)) s

end Sys2Proof.Machine
end

