-- ==== Sys2Proof/Machine/Cross.lean ====
section
/-! DEFINITION. Operations across lanes (R241 to R246). Every source lane is read as it stood before the
instruction, and only lanes in EXEC supply values or receive results. -/

namespace Sys2Proof.Machine

/-- A result whose scalar destination may have streamed sources, and then enters as a uniform value (R30, R241). -/
def crossCard (typeOk : Bool) (nw pair : Bool) (dst : Field) (srcs : List Field) (uniform : List Field)
    (g : Wave → Path → Fin 32 → DWord) : Card :=
  pipeCard typeOk (resultFields nw false dst srcs) uniform fun w p s =>
    let st := resultStreamed nw false dst srcs p
    let entry := st && (nw || !isSca dst.op)
    let exec := execMask w p
    .next (s.modWave w.id fun _ =>
      (w.deliver p nw dst.op entry exec (resultWords pair entry (g w p))).retire p.tag (p.pc + 4)
        (if st then streamCost exec else 1))

/-- A shuffle (R242): lane `src i n`, or its own where that is out of range or inactive. -/
def shuffleCard (nw : Bool) (d a b : Operand) (src : Nat → Nat → Option Nat) (_w : Wave) (p : Path) : Card :=
  let wide := isWide p.mode.type
  crossCard true nw wide (if wide then .group isVec 2 2 d else .group isVec 1 1 d) [.srcOf wide a, .src b] []
    fun w q i =>
      let n := (srcLane w q b i).toNat
      let j := if n ≥ 32 then i.val else (src i.val n).getD i.val
      let j := if h : j < 32 then (if inMask (execMask w q) ⟨j, h⟩ then ⟨j, h⟩ else i) else i
      srcOf wide w q a j

/-- SHFL (R242). -/
def execShfl (nw : Bool) (d a b : Operand) (s : State) : Result :=
  runCard (.shfl nw d a b) (shuffleCard nw d a b (fun _ n => some n)) s

/-- SHFLUP (R242). -/
def execShflup (nw : Bool) (d a b : Operand) (s : State) : Result :=
  runCard (.shflup nw d a b) (shuffleCard nw d a b (fun i n => if n ≤ i then some (i - n) else none)) s

/-- SHFLDN (R242). -/
def execShfldn (nw : Bool) (d a b : Operand) (s : State) : Result :=
  runCard (.shfldn nw d a b) (shuffleCard nw d a b (fun i n => some (i + n))) s

/-- SHFLX (R242). -/
def execShflx (nw : Bool) (d a b : Operand) (s : State) : Result :=
  runCard (.shflx nw d a b) (shuffleCard nw d a b (fun i n => some (i ^^^ n))) s

/-- The bits of a that BALLOT, VOTE and MATCH test. -/
def testBits (w : Wave) (p : Path) (a : Operand) (i : Fin 32) : DWord := srcOf (isWide p.mode.type) w p a i

/-- BALLOT (R243). -/
def execBallot (nw : Bool) (d a : Operand) (s : State) : Result :=
  runCard (.ballot nw d a) (fun _ p =>
    crossCard true nw false (.dstOf false d) [.srcOf (isWide p.mode.type) a] [] fun w q _ =>
      (execMask w q &&& maskOf fun i => testBits w q a i != 0).setWidth 64) s

/-- A VOTE function (R243): a predicate gets bit i ← the result for i in EXEC. -/
def voteCard (nw : Bool) (d a : Operand) (f : List DWord → Bool) (_w : Wave) (p : Path) : Card :=
  let src := Field.srcOf (isWide p.mode.type) a
  let dst := Field.dstOf false d
  pipeCard true (resultFields nw false dst [src]) [] fun w q s =>
    let exec := execMask w q
    let r := f ((lanesIn exec).map fun i => testBits w q a i)
    let st := resultStreamed nw false dst [src] q
    let entry := st && (nw || !isSca d)
    let x : Word := if r then 1 else 0
    let w' :=
      match d with
      | .p k => (if nw then w else w.setP k exec (if r then 0xFFFFFFFF#32 else 0)).deliver q true d entry exec [splat x]
      | _ => w.deliver q nw d entry exec [splat x]
    .next (s.modWave w.id fun _ => w'.retire q.tag (q.pc + 4) (if st then streamCost exec else 1))

/-- VOTE.ANY (R243). -/
def execVoteAny (nw : Bool) (d a : Operand) (s : State) : Result :=
  runCard (.voteAny nw d a) (voteCard nw d a fun l => l.any (· != 0)) s

/-- VOTE.ALL (R243). -/
def execVoteAll (nw : Bool) (d a : Operand) (s : State) : Result :=
  runCard (.voteAll nw d a) (voteCard nw d a fun l => l.all (· != 0)) s

/-- VOTE.UNI (R243). -/
def execVoteUni (nw : Bool) (d a : Operand) (s : State) : Result :=
  runCard (.voteUni nw d a) (voteCard nw d a fun l => l.all (· == l.headD 0)) s

/-- MATCH (R243). -/
def execMatch (nw : Bool) (d a : Operand) (s : State) : Result :=
  runCard (.match_ nw d a) (fun _ p =>
    crossCard true nw false (.group isVec 1 1 d) [.srcOf (isWide p.mode.type) a] [] fun w q i =>
      (execMask w q &&& maskOf fun j => testBits w q a j == testBits w q a i).setWidth 64) s

/-! ## REDUCE and SCAN -/

/-- val(a, i) of a leaf: extended by the type (R230); the words of fp32 and pair, a NaN as the canonical one, since the
result over a single lane is the leaf itself (R82, R244). -/
def leafVal (m : Mode) (x : DWord) : DWord :=
  if bitsT m.type then m.intTy.ofPat (m.intTy.pat x)
  else if m.type = .pair then join64 (canon32 (lo32 x)) (canon32 (hi32 x))
  else (canon32 (lo32 x)).setWidth 64

/-- Identities (R244). -/
def identAdd (_m : Mode) : DWord := 0
def identMin (m : Mode) : DWord :=
  if m.type = .fp32 then 0x7F800000#64 else m.intTy.fix (intRange m.intTy.w m.intTy.signed).2
def identMax (m : Mode) : DWord :=
  if m.type = .fp32 then 0xFF800000#64 else m.intTy.fix (intRange m.intTy.w m.intTy.signed).1
def identAnd (m : Mode) : DWord := m.intTy.ofPat (2 ^ m.intTy.w - 1)
def identOr (_m : Mode) : DWord := 0
def identXor (_m : Mode) : DWord := 0

/-- A node over values that may be absent. -/
def nodeOf (f : DWord → DWord → DWord) (x y : Option DWord) : Option DWord :=
  match x, y with
  | some a, some b => some (f a b)
  | some a, none => some a
  | none, y => y

/-- One level of the tree. -/
def treeLevel (f : DWord → DWord → DWord) : List (Option DWord) → List (Option DWord)
  | x :: y :: l => nodeOf f x y :: treeLevel f l
  | l => l

/-- The fixed tree over lane numbers (R244). -/
def treeReduce (f : DWord → DWord → DWord) (l : List (Option DWord)) : Option DWord :=
  let t := treeLevel f
  (t (t (t (t (t l))))).headD none

/-- The lane values in EXEC, the others absent. -/
def execVals (w : Wave) (p : Path) (a : Operand) : List (Option DWord) :=
  allLanes.map fun i =>
    if inMask (execMask w p) i then some (leafVal p.mode (srcOf (isWide p.mode.type) w p a i)) else none

/-- REDUCE (R244): d a scalar or vector register. -/
def reduceCard (types : ElemType → Bool) (nw : Bool) (d a : Operand) (f : Mode → DWord → DWord → DWord → DWord)
    (ident : Mode → DWord) (_w : Wave) (p : Path) : Card :=
  let wide := isWide p.mode.type
  crossCard (types p.mode.type) nw wide (if wide then .group isReg 2 2 d else .group isReg 1 1 d) [.srcOf wide a] []
    fun w q _ => (treeReduce (fun x y => f q.mode x y 0) (execVals w q a)).getD (ident q.mode)

/-- The running totals of SCAN up to a lane (R245). -/
def scanUpTo (f : DWord → DWord → DWord) (l : List (Option DWord)) : Option DWord :=
  l.foldl (fun acc x => nodeOf f acc x) none

/-- SCAN (R245): d a vector register. -/
def scanCard (types : ElemType → Bool) (nw excl : Bool) (d a : Operand)
    (f : Mode → DWord → DWord → DWord → DWord) (ident : Mode → DWord) (_w : Wave) (p : Path) : Card :=
  let wide := isWide p.mode.type
  crossCard (types p.mode.type) nw wide (if wide then .group isVec 2 2 d else .group isVec 1 1 d) [.srcOf wide a] []
    fun w q i =>
      let l := (execVals w q a).take (if excl then i.val else i.val + 1)
      (scanUpTo (fun x y => f q.mode x y 0) l).getD (ident q.mode)

/-- REDUCE.ADD (R244). -/
def execReduceAdd (nw : Bool) (d a : Operand) (s : State) : Result :=
  runCard (.reduceAdd nw d a) (reduceCard (fun m => intT m || m == .fp32 || m == .pair) nw d a laneAdd identAdd) s

/-- REDUCE.MIN (R244). -/
def execReduceMin (nw : Bool) (d a : Operand) (s : State) : Result :=
  runCard (.reduceMin nw d a) (reduceCard (fun m => intT m || m == .fp32) nw d a laneMin identMin) s

/-- REDUCE.MAX (R244). -/
def execReduceMax (nw : Bool) (d a : Operand) (s : State) : Result :=
  runCard (.reduceMax nw d a) (reduceCard (fun m => intT m || m == .fp32) nw d a laneMax identMax) s

/-- REDUCE.AND (R244). -/
def execReduceAnd (nw : Bool) (d a : Operand) (s : State) : Result :=
  runCard (.reduceAnd nw d a) (reduceCard bitsT nw d a laneAnd identAnd) s

/-- REDUCE.OR (R244). -/
def execReduceOr (nw : Bool) (d a : Operand) (s : State) : Result :=
  runCard (.reduceOr nw d a) (reduceCard bitsT nw d a laneOr identOr) s

/-- REDUCE.XOR (R244). -/
def execReduceXor (nw : Bool) (d a : Operand) (s : State) : Result :=
  runCard (.reduceXor nw d a) (reduceCard bitsT nw d a laneXor identXor) s

/-- SCAN.ADD (R245). -/
def execScanAdd (nw : Bool) (excl : Bool) (d a : Operand) (s : State) : Result :=
  runCard (.scanAdd nw excl d a) (scanCard (fun m => intT m || m == .fp32 || m == .pair) nw excl d a laneAdd identAdd) s

/-- SCAN.MIN (R245). -/
def execScanMin (nw : Bool) (excl : Bool) (d a : Operand) (s : State) : Result :=
  runCard (.scanMin nw excl d a) (scanCard (fun m => intT m || m == .fp32) nw excl d a laneMin identMin) s

/-- SCAN.MAX (R245). -/
def execScanMax (nw : Bool) (excl : Bool) (d a : Operand) (s : State) : Result :=
  runCard (.scanMax nw excl d a) (scanCard (fun m => intT m || m == .fp32) nw excl d a laneMax identMax) s

/-- SCAN.AND (R245). -/
def execScanAnd (nw : Bool) (excl : Bool) (d a : Operand) (s : State) : Result :=
  runCard (.scanAnd nw excl d a) (scanCard bitsT nw excl d a laneAnd identAnd) s

/-- SCAN.OR (R245). -/
def execScanOr (nw : Bool) (excl : Bool) (d a : Operand) (s : State) : Result :=
  runCard (.scanOr nw excl d a) (scanCard bitsT nw excl d a laneOr identOr) s

/-- SCAN.XOR (R245). -/
def execScanXor (nw : Bool) (excl : Bool) (d a : Operand) (s : State) : Result :=
  runCard (.scanXor nw excl d a) (scanCard bitsT nw excl d a laneXor identXor) s

/-- BCAST (R246): lane n of a, 0 where n is out of range or inactive; b is uniform. -/
def execBcast (nw : Bool) (d a b : Operand) (s : State) : Result :=
  runCard (.bcast nw d a b) (fun _ p =>
    let wide := isWide p.mode.type
    crossCard true nw wide (if wide then .group isReg 2 2 d else .group isReg 1 1 d) [.srcOf wide a, .src b] [.src b]
      fun w q _ =>
        let n := (srcUni w q b).toNat
        if h : n < 32 then (if inMask (execMask w q) ⟨n, h⟩ then srcOf wide w q a ⟨n, h⟩ else 0) else 0) s

end Sys2Proof.Machine
end

