-- ==== Sys2Proof/Machine/Issue.lean ====
section
/-! DEFINITION. What issues an instruction: fetching (R261, R134, R166), the pipe's next step (R31, R266, R294), the
combiner engine's, the control core's, and the passing of time. -/

namespace Sys2Proof.Machine

/-! ## Fetching -/

/-- A 32-bit word of a block whose words stand two to a 64-bit register (R123, R166). -/
def State.blockWord (s : State) (base w : Nat) : Word :=
  let r := s.reg (base + 8 * (w / 2))
  if w % 2 = 0 then lo32 r else hi32 r

/-- The word at an address of a launched wave's program (R261). -/
def State.fetchCode (s : State) (w : Wave) (pc : Nat) : Except TrapCode Word :=
  match s.place w pc 1 .x with
  | .error c => .error c
  | .ok pa =>
    match s.homeBytes pa 4 with
    | .ok bs => .ok (wordOfBytes bs)
    | .error e => .error e.trap

/-- The word at the program counter: of the program, of the method store, of the producer slot's code. A word
outside PSCODE is fetched as 0, which is no instruction. [DESIGN CHOICE, log 91, unsafe] -/
def State.fetch (s : State) (w : Wave) (pc : Nat) : Except TrapCode Word :=
  match w.kind with
  | .launched => s.fetchCode w pc
  | .combiner _ => .ok (s.blockWord (Reg.cmbStore 0) (pc / 4))
  | .producer => .ok (if pc / 4 < 1024 then s.blockWord (Reg.ps w.core 0x1000) (pc / 4) else 0)

/-- The state after a fetch: its page translated, the tables and the line of the word read at their homes (R115, R141, R149). -/
def State.fetched (s : State) (w : Wave) (pc : Nat) : State :=
  if w.kind = .launched then
    let s := s.walked w [pc]
    match s.place w pc 1 .x with
    | .ok pa => s.readLines [pa / 128] w.asid w.master
    | .error _ => s
  else s

/-- The home of the word holds its line back (R118, R133). -/
def State.fetchWaits (s : State) (w : Wave) (pc : Nat) : Bool :=
  w.kind == .launched && (match s.place w pc 1 .x with
    | .ok pa => !s.serves (pa / 128)
    | .error _ => false)

/-- The step that a word stands for: an instruction, or a word that is none (R57, R60). -/
def instrOfWord (x : Word) : Instr :=
  match decodeWord x with
  | .ok i => i
  | .error _ => .illegal x

/-! ## The pipe -/

/-- What a pipe does next. -/
inductive Issue where
  /-- No path of the pipe can issue, or the word to fetch is held back at its home. -/
  | idle
  /-- A debugger halt takes effect at this boundary (R329, R341). -/
  | halt (w : Wave)
  /-- An arm arrives at its join (R266). -/
  | arrive (w : Wave) (p : Path)
  /-- The fetch faults (R261). -/
  | fetchFault (w : Wave) (p : Path) (c : TrapCode)
  /-- An instruction executes. -/
  | run (w : Wave) (p : Path) (i : Instr)

/-- The path that holds the pipe, where it can still issue; the pipe's choice otherwise. -/
def State.issuer (s : State) (c : Fin 256) (p : Fin 32) : Option (Wave × Path) :=
  let held := do
    let (id, t) ← SMap.at? s.holders (32 * c.val + p.val)
    let w ← s.wave? id
    let q ← w.path? t
    if s.runnable w q && w.onPipe c p then return (w, q) else none
  match held with
  | some x => some x
  | none => s.choose c p

/-- What a pipe does next. -/
def State.issue (s : State) (c : Fin 256) (p : Fin 32) : Issue :=
  match s.issuer c p with
  | none => .idle
  | some (w, q) =>
    if w.haltReq then .halt w
    else if w.atJoin q then .arrive w q
    else if s.fetchWaits w q.pc then .idle
    else
      match s.fetch w q.pc with
      | .error e => .fetchFault w q e
      | .ok x => .run w q (instrOfWord x)

/-- A path gains its pipe, or keeps it (R38): the cycles held go on across switch points and idle waits after which the
same wave is chosen again. [DEDUCED, log 119, unsafe] -/
def State.gain (s : State) (w : Wave) (p : Path) : State :=
  let k := 32 * w.core.val + w.pipe.val
  let s := match SMap.at? s.holders k with
    | some (id, _) => if id = w.id then s else s.modWave w.id fun x => { x with heldCycles := 0 }
    | none => s.modWave w.id fun x => { x with heldCycles := 0 }
  { s with holders := SMap.insert s.holders k (w.id, p.tag) }

/-- The state in which an instruction executes. -/
def State.running (s : State) (w : Wave) (p : Path) : State := { s.gain w p with cur := some (w.id, p.tag) }

/-- The arm arrives, which is a switch point (R266): the pipe chooses anew, and the arms of a wave count as one for the
time it holds its pipe (R38). [DEDUCED, log 119, unsafe] -/
def State.arrive (s : State) (w : Wave) (p : Path) : State :=
  (s.modWave w.id fun x => x.arriveArm p).count (.core w.core) 0x11 1

/-- The halt takes effect (R341). -/
def State.haltWave (s : State) (w : Wave) : State :=
  (s.modWave w.id fun x => { x with haltReq := false }).freezeWave w 7 0x38

/-- Pipe cycles with an issue (R423): what the instruction added to the wave's held cycles. -/
def State.countIssue (s before : State) (c : Fin 256) (id : Nat) : State :=
  match s.wave? id, before.wave? id with
  | some x, some y => s.count (.core c) 0x10 (if x.clock = y.clock then 0 else x.heldCycles - y.heldCycles)
  | _, _ => s

/-- A pipe's step, given what instructions do. [DESIGN CHOICE, log 1, safe; DESIGN CHOICE, log 8, safe] -/
def pipeStep (exec : Instr → State → Result) (s : State) (c : Fin 256) (p : Fin 32) : Result :=
  match s.issue c p with
  | .idle => .next s
  | .halt w => .next (s.haltWave w)
  | .arrive w q => .next (s.arrive w q)
  | .fetchFault w q e => .next (((s.fetched w q.pc).running w q).trap w q 0 (TrapInfo.mem e q.mask q.pc))
  | .run w q i =>
    let s := (s.fetched w q.pc).running w q
    match s.ofWave w (exec i) with
    | .next s' => .next (s'.countIssue s c w.id)
    | r => r

/-! ## The combiner engine and the control cores -/

/-- The combiner wave of a slice and its path that runs: the one with the lowest lane (R134). -/
def State.methodPath? (s : State) (h : Fin 128) : Option (Wave × Path × Batch) := do
  let b ← (s.home h).batch
  let w ← s.wave? b.wave
  let ready := w.paths.filter (s.runnable w)
  let p ← ready.foldl (fun best q => match best with
    | none => some q
    | some x => if q.low < x.low then some q else some x) (none : Option Path)
  return (w, p, b)

/-- A word of the method's body (R136). -/
def Batch.inBody (b : Batch) (pc : Nat) : Bool := decide (b.start ≤ pc / 4 ∧ pc / 4 < b.start + b.len)

/-- The step of a slice's combiner engine. [DESIGN CHOICE, log 8, safe] -/
def combinerStep (exec : Instr → State → Result) (s : State) (h : Fin 128) : Result :=
  match s.methodPath? h with
  | none => .next s
  | some (w, p, b) =>
    if w.atJoin p then .next (s.modWave w.id fun x => x.arriveArm p)
    else if !b.inBody p.pc then .next (s.abortBatch h 5 0)
    else if 4096 ≤ w.clock then exec (.methodInstructionLimit h) s
    else
      match s.fetch w p.pc with
      | .ok x => exec (instrOfWord x) { s with cur := some (w.id, p.tag) }
      | .error _ => .next (s.abortBatch h 5 0)

/-- A word of the launch extension with another funct3: the illegal-instruction exception (R285). [PRESUMED, log 77, unsafe] -/
def cdmReserved (w : Word) : Bool := w.toNat % 128 == 0x0B && w.toNat / 2 ^ 25 == 0 && decide (2 ≤ w.toNat / 2 ^ 12 % 8)

/-- The step of a control core: the launch extension (R285). [DESIGN CHOICE, log 5, safe; DESIGN CHOICE, log 8, safe; DESIGN CHOICE, log 78, safe] -/
def controlStep (exec : Instr → State → Result) (s : State) (k : Fin 16) : Result :=
  let c := s.control[k]
  if c.held then .next s
  else
    match decodeCdm c.fetch with
    | some i => exec i { s with cur := some (k.val, Tag.root) }
    | none =>
      if cdmReserved c.fetch then .next { s with control := s.control.set k { c with exception := some 2 } }
      else .refused .riscvInstruction

/-! ## Time -/

/-- Event counters that count ticks count `n` more (R422, R423). -/
def State.countTicks (s : State) (n : Nat) : State :=
  (s.regs.filter fun x => decide (0x20400000000 ≤ x.1 ∧ x.1 < 0x20401000000 ∧ x.1 % 0x1000 < 0x100 ∧ x.2.toNat % 512 = 0x101)).foldl
    (fun s x =>
      let c := (s.reg (x.1 + 0x100)).toNat
      let t := c % 2 ^ 48 + n
      let ovf := if c / 2 ^ 48 % 2 = 1 ∨ t ≥ 2 ^ 48 then 2 ^ 48 else 0
      s.setReg (x.1 + 0x100) (BitVec.ofNat 64 (ovf + t % 2 ^ 48))) s

/-- A credit comes back from the other end of a link (R391). [DESIGN CHOICE, log 126, unsafe] -/
def State.creditBack (s : State) : Option Nat → State
  | some n => s.modFabric fun f => { f with owed := f.owed.setIfInBounds n (f.owed.toList.getD n 0 - 1) }
  | none => s

/-- Pod time advances, at a rate that PODADJ corrects and never backwards (R394, R395). [DESIGN CHOICE, log 7, unsafe] -/
def State.passPod (s : State) : State :=
  let (k, s) := s.takeFree
  let raw := Config.podGap k
  let total := s.fabric.podFrac + ((raw : Int) + (raw : Int) * (s.reg Reg.podAdj).toInt / 2 ^ 40).toNat
  (s.modFabric fun f => { f with podTime := f.podTime + total / 2 ^ 40, podFrac := total % 2 ^ 40 }).creditBack (Config.creditReturn k)

/-- ASIDs with a gang resident. -/
def State.residentAsids (s : State) : List (BitVec 8) :=
  ((s.launches.filter fun l => s.gangs.any fun g => g.resident && g.launch == l.slot && g.seq == l.seq).map (·.asid)).eraseDups

/-- Ticks pass beside a step: at least one (R5, R37), and soft errors may come up (R212). [DESIGN CHOICE, log 7, unsafe] -/
def State.passTime (s : State) : State :=
  let (k, s) := s.takeFree
  let n := 1 + Config.tickGap k
  let s := (s.countTicks n).residentAsids.foldl (fun s a => s.chargeTime a n) (s.countTicks n)
  let (k, s) := s.takeFree
  State.passPod ((({ s with tick := s.tick + n } : State)).strikes (Config.strike k))

/-- A step followed by the passing of time; no path is executing between steps. -/
def afterStep (r : Result) : Result :=
  match r with
  | .next s => .next { s.passTime with cur := none }
  | r => r

/-- A step, given what instructions do: the next turn, or the pipe in focus. [DESIGN CHOICE, log 1, safe] -/
def stepWith (exec : Instr → State → Result) (s : State) : Result :=
  afterStep (match s.turns with
    | [] => pipeStep exec s s.focus.1 s.focus.2
    | t :: rest =>
      let s := { s with turns := rest }
      match t with
      | .pipe c p => pipeStep exec s c p
      | .combiner h => combinerStep exec s h
      | .unit i => exec i { s with cur := none }
      | .control k => controlStep exec s k)

end Sys2Proof.Machine
end

