-- ==== Sys2Proof/Machine/Place.lean ====
section
/-! DEFINITION. A program placed from outside the machine: a wave as a placement starts it (R260), and the smallest
context in which its first instruction is fetched (R146 to R148). -/

namespace Sys2Proof.Machine

/-- A wave as it starts, before its launch has filled in what differs (R229, R260). -/
def Wave.fresh (id : Nat) (kind : WaveKind) (asid : BitVec 8) (part : Fin 32) (core : Fin 256) (pipe : Fin 32)
    (slot : Fin 8) (entry : Nat) (mask : Mask) : Wave :=
  { id := id, kind := kind, system := false, asid := asid, part := part, core := core, pipe := pipe, slot := slot,
    block := 0, gang := 0, wg := 0, index := 0, nv := 128, ns := 64, v := Vector.replicate 128 (splat 0),
    s := Vector.replicate 64 0, p := Vector.replicate 8 0,
    special := (Vector.replicate 16 (0 : Word)).set 13 (BitVec.ofNat 32 0xFFFFFFFF), base := entry, prio := 0,
    paths := [{ tag := Tag.root, pc := entry, mask := mask, mode := Mode.initial,
                latches := Vector.replicate 4 Latch.empty, pending := [], jp := none, wj := none, status := .ready,
                stage := .none, swDone := false, swNext := false, late := false,
                halted := false }],
    splits := [], returns := [], inflight := [], combOps := [], reports := [], missed := none, handler := none,
    csr := TrapCsrs.reset, watch := none, wakePending := false, pin := none, task := none, outgrown := false,
    clock := 0, rank := 0, heldCycles := 0, holds := [], frozen := none, again := none, haltReq := false, stopReq := false,
    stopped := false, exited := false, det := none }

/-- Where the placed word stands: one page, mapped one to one for reading, writing and fetching. -/
def placeAddr : Nat := 0x10000

/-- The tables of the placed context: three levels in one page each, the pages after the code's. -/
def placeTables : List (Nat × Nat) :=
  [(0x20000, 0x30000 + 1), (0x30000, 0x40000 + 1), (0x40008, placeAddr + 0x3B)]

/-- The pages of the placed context, fixed and of partition 0, at every controller (R91). [DESIGN CHOICE, log 4, safe] -/
def placePages : SMap PageState :=
  [(1, { state := 1, part := 0 }), (2, { state := 1, part := 0 }), (3, { state := 1, part := 0 }),
   (4, { state := 1, part := 0 })]

/-- The wave whose first instruction is the placed word: every lane live, its switch point behind it. [DESIGN CHOICE, log 4, safe] -/
def placedWave : Wave :=
  let w := Wave.fresh 1 .launched 1 0 0 0 0 placeAddr 0xFFFFFFFF#32
  { w with paths := w.paths.map fun (p : Path) => { p with swDone := true } }

/-- A wave word placed. [DESIGN CHOICE, log 4, safe] -/
def State.placeWord (s : State) (x : Word) : State :=
  let mem := placeTables.foldl (fun m (a, e) => m.writeN a (leBytes 8 e)) (s.mem.writeN placeAddr (wordBytes x))
  { (s.setReg (Reg.trRoot 1) (BitVec.ofNat 64 0x20001)) with
    turns := [], focus := (0, 0), cur := none, nextId := 2, waves := [placedWave], gangs := [], launches := [],
    holders := [], cores := Vector.replicate 256 Core.reset, clusterTlbs := [],
    homes := Vector.replicate 128 Home.reset, messages := [], releases := [], lineWrites := [],
    controllers := Vector.replicate 8 { Controller.reset with pages := placePages }, mem := mem }

/-- A control-core word placed: it is what core 0 fetches next, and the next turn is that core's. [DESIGN CHOICE, log 4, safe] -/
def State.placeControl (s : State) (x : Word) : State :=
  { s with turns := [.control 0], control := s.control.set 0 { s.control[0] with fetch := x, held := false } }

end Sys2Proof.Machine
end

