-- ==== Sys2Proof/Machine/HomeSteps.lean ====
section
/-! DEFINITION. Steps at the home slices: reads and fills, direct writes, write-backs from the L1s, atomics (R115 to R128,
R141 to R145, R176, R178), COMB requests and batches (R130 to R138), and the replies at the cores (R54, R127, R152). -/

namespace Sys2Proof.Machine

/-! ## Messages that can be served -/

/-- A message that its home can serve next: the first of its core at that home (R116), whose line no batch holds (R133);
CLEAN and INVAL leave such a line in place (R156). -/
def State.served? (s : State) (m : Nat) : Option Message :=
  match s.message? m with
  | some x =>
    let free := match x.op with | .clean _ | .inval _ => true | _ => !s.inBatch x.op.line
    if s.isFirst x && free then some x else none
  | none => none

/-- The master that a message names (R102, R340). -/
def State.masterOf (s : State) (q : Requester) : DWord := ((s.wave? q.wave).map Wave.master).getD 0

/-- Lanes of a deferred result that wait for a sector. -/
def Inflight.waitsFor (x : Inflight) (sec : Nat) : List LaneWait := x.waiting.filter fun l => l.pa / 32 == sec

/-- The lanes leave the list of those that wait. -/
def Inflight.stopWaiting (x : Inflight) (sec : Nat) : Inflight :=
  { x with waiting := x.waiting.filter fun l => l.pa / 32 != sec }

/-- Lanes that wait for a sector fail (R112, R178). -/
def Inflight.failSector (x : Inflight) (sec : Nat) (info : LaneWait → TrapInfo) : Inflight :=
  (x.waitsFor sec).foldl (fun x l => x.fail l.lane (info l)) (x.stopWaiting sec)

/-- Lanes that wait for a sector get their values from the fill, under the wave's own bytes (R142, R168). -/
def Inflight.fillSector (x : Inflight) (sec : Nat) (data : Vector Byte 32) : Inflight :=
  (x.waitsFor sec).foldl (fun x l => x.arrive l.lane (l.value fun i => byteAt data ((l.pa + i) % 32))) (x.stopWaiting sec)

/-- A deferred result of a requester changed. -/
def State.toRequester (s : State) (q : Requester) (infl : Option Nat) (f : Inflight → Inflight) : State :=
  match infl with
  | some d => s.modInflight q.wave d f
  | none => s

/-- A sector of a line. -/
def L2Line.sector (l : L2Line) (k : Nat) : Vector Byte 32 := Vector.ofFn fun i => byteAt l.data (32 * k + i.val)

/-- A fill served (R142, R176, R178): the race check first; a racing sector is not sent. A load of a versioned task sees the
bytes that its version has at the home (R186), which no L1 keeps. -/
def State.serveFill (s : State) (q : Requester) (l : L2Line) (sec : Nat) (infl : Option Nat) : State :=
  let t := l.tags[sec % 4]?.getD RaceTag.none
  if infl.isSome && s.races t q.stamp then
    (s.toRequester q infl fun x => x.failSector sec fun _ => raceInfo 1 t (32 * sec)).count (.home (homeOf (32 * sec))) 0x25 1
  else
    let d := l.sector (sec % 4)
    let own := q.ver.bind (s.version? q.part)
    let seen : Vector Byte 32 := Vector.ofFn fun i => ((own.bind (·.byte? (32 * sec + i.val)))).getD (byteAt d i.val)
    (s.fillSector q sec d).toRequester q infl fun x => x.fillSector sec seen

/-- The reply of LDACQ at a scope beyond the workgroup (R141, R154). -/
def State.serveRead (s : State) (q : Requester) (l : L2Line) (infl : Nat) (x : LaneWait) : State :=
  (s.modCore q.core fun k => k.unclean (x.pa / 128)).toRequester q (some infl) fun y =>
    let own := q.ver.bind (s.version? q.part)
    y.arrive x.lane (x.value fun i => ((own.bind (·.byte? (x.pa + i)))).getD (byteAt l.data ((x.pa + i) % 128)))

/-- HOME_READ: a read or a fill. -/
def execHomeRead (m : Nat) (s : State) : Result :=
  match s.served? m with
  | none => notEnabled
  | some x =>
    let s' := s.dropMessage m
    let q := x.req
    match x.op with
    | .fill sec infl =>
      match s'.ensureL2 (sec / 4) q.asid (s.masterOf q) with
      | .ok (l, s) => .next (s.serveFill q l sec infl)
      | .error (.line e) => .next (s'.toRequester q infl fun y => y.failSector sec fun l => lostInfo e l.ea)
      | .error .wait => notEnabled
    | .read infl l =>
      match s'.ensureL2 (l.pa / 128) q.asid (s.masterOf q) with
      | .ok (y, s) => .next (s.serveRead q y infl l)
      | .error (.line e) => .next (s'.toRequester q (some infl) fun y => y.fail l.lane (lostInfo e l.ea))
      | .error .wait => notEnabled
    | _ => notEnabled

/-! ## Writes -/

/-- An uncorrectable line reported to a wave whose write needed it (R112); no address is stated for it. [DESIGN CHOICE, log 22, safe; DESIGN CHOICE, log 29, unsafe] -/
def State.reportLost (s : State) (w : Nat) : State :=
  let (info, s) := s.freeMem .eccUncorr 0
  s.report w info

/-- Waves that wait for a message: in a release, or behind a hold. [DESIGN CHOICE, log 29, unsafe] -/
def State.waiters (s : State) (m : Nat) : List Nat :=
  ((s.releases.filter fun r => r.waits.deps.contains m).map (·.req.wave)
    ++ (s.waves.filter fun w => w.holds.any fun h => h.deps.contains m).map (·.id)).eraseDups

/-- Who is told of a write-back that failed: the wave that wrote the sector, or, where it has ended, those that wait. [DESIGN CHOICE, log 29, unsafe] -/
def State.writersOf (s : State) (x : Message) : List Nat :=
  if (s.wave? x.req.wave).isSome then [x.req.wave] else s.waiters x.id

/-- A write that its home cannot perform: logged where the page is UNBACKED, reported where the line is lost (R97, R112). [DESIGN CHOICE, log 29, unsafe] -/
def State.writeFailed (s : State) (pa : Nat) (who : List Nat) (e : LineErr) : State :=
  match e with
  | .absent => if inLineSpace pa then s.logError (mcOf pa) 2 (lineIndex pa) else s
  | .lost => who.foldl State.reportLost s

/-- CLEAN and INVAL of the line in the L2: INVAL leaves lines with version data and those of a running batch in place (R118,
R156). `master` caused the write-back (R102). [DEDUCED, log 24, safe] -/
def State.cleanL2 (s : State) (line : Nat) (drop : Bool) (master : DWord) : State :=
  match s.l2Line? line with
  | none => s
  | some l =>
    if drop then if s.hasVersionData line || s.inBatch line then s else (s.dropL2 line).sendLine l master
    else
      (s.sendLine l master).modHome (homeOf (line * 128)) fun h =>
        { h with lines := h.lines.map fun x => if x.line = line then { x with dirty := 0 } else x }

/-- HOME_WRITE: a direct write, into its version where it comes from a task in task mode (R143, R186), and what CLEAN and INVAL ask of the home. -/
def execHomeWrite (m : Nat) (s : State) : Result :=
  match s.served? m with
  | none => notEnabled
  | some x =>
    let s' := s.dropMessage m
    let q := x.req
    match x.op with
    | .write pa bs =>
      match q.ver with
      | some v =>
        match s'.ensureL2 (pa / 128) q.asid (s.masterOf q) with
        | .error .wait => notEnabled
        | .error (.line e) => .next (s'.writeFailed pa [q.wave] e)
        | .ok (_, s) => .next ((s.modVersion q.part v fun x => x.write none pa bs).modCore q.core fun k => k.unclean (pa / 128))
      | none =>
        match s'.homeWrite pa bs q.asid (s.masterOf q) with
        | .ok s => .next (s.modCore q.core fun k => k.unclean (pa / 128))
        | .error (.line e) => .next (s'.writeFailed pa [q.wave] e)
        | .error .wait => notEnabled
    | .clean line => .next (s'.cleanL2 line false (s.masterOf q))
    | .inval line => .next (s'.cleanL2 line true (s.masterOf q))
    | _ => notEnabled

/-- The masked bytes of a sector merged into its line. -/
def State.mergeSector (s : State) (l : L2Line) (pa : Nat) (bytes : Vector Byte 32) (mask : BitVec 32) : State :=
  let off := pa % 128
  let d := (List.range 32).foldl (fun (d : Vector Byte 128) i =>
    if mask.getLsbD i then d.setIfInBounds (off + i) (byteAt bytes i) else d) l.data
  (s.touchL2 { l with data := d, dirty := l.dirty ||| sectorBits off 32 }).fireWatches (pa / 128)

/-- The masked bytes of a sector. -/
def maskedRuns (pa : Nat) (bytes : Vector Byte 32) (mask : BitVec 32) : List (Nat × Byte) :=
  ((List.range 32).filter fun i => mask.getLsbD i).map fun i => (pa + i, byteAt bytes i)

/-- SECTOR_WRITEBACK (R143, R176, R178): the race check, the tag of the writer, the merge. Bytes under a version become
version data, held at the way of their line (R118), and are checked, tagged and seen by watches with the commit. An error of
the fill is reported to the writer (R112). [DESIGN CHOICE, log 124, safe] -/
def execSectorWriteback (m : Nat) (s : State) : Result :=
  match s.served? m with
  | none => notEnabled
  | some x =>
    match x.op with
    | .sector pa bytes mask tag =>
      match (s.dropMessage m).ensureL2 (pa / 128) x.req.asid (s.masterOf x.req) with
      | .error .wait => notEnabled
      | .error (.line e) => .next ((s.dropMessage m).writeFailed pa (s.writersOf x) e)
      | .ok (_, s) =>
        match x.req.ver with
        | some v =>
          .next (s.modVersion x.req.part v fun y => (maskedRuns pa bytes mask).foldl (fun y (a, b) => y.write tag a [b]) y)
        | none =>
        let s := match tag with
          | some t => s.tagSector (pa / 32) t
          | none => s
        match s.l2Line? (pa / 128) with
        | some l => .next (s.mergeSector l pa bytes mask)
        | none => .next s
    | _ => notEnabled

/-! ## Fills from the controllers -/

/-- The message that waits for the line at its home. -/
def State.wanted? (s : State) (line : Nat) (asid : BitVec 8) : Option Message :=
  s.messages.find? fun m => m.op.line == line && m.req.asid == asid

/-- A line from its controller installed in its slice, for the oldest message of the ASID that needs it, whose master causes
what the fill evicts (R102, R115, R117). -/
def State.fillL2 (s : State) (line : Nat) (asid : BitVec 8) : Result :=
  match s.wanted? line asid with
  | none => notEnabled
  | some m =>
    if (s.l2Line? line).isSome then notEnabled
    else
      match s.ensureL2 line asid (s.masterOf m.req) with
      | .ok (_, s) => .next s
      | .error _ => notEnabled

/-- L2_FILL (R115). -/
def execL2Fill (line : Nat) (asid : BitVec 8) (s : State) : Result :=
  if inLineSpace (line * 128) then s.fillL2 line asid else notEnabled

/-- EXPANDED_READ (R106): the elements and scales are read as their homes hold them, and the line keeps what it was
filled with (R108). -/
def execExpandedRead (line : Nat) (asid : BitVec 8) (s : State) : Result :=
  if inExpanded (line * 128) then s.fillL2 line asid else notEnabled

/-! ## Atomics -/

/-- An atomic with no destination that its home could not perform: ECC_UNCORR with its lane and address, delivered as a report
of the wave (R112, R128); on an UNBACKED page it is logged (R97). [DEDUCED, log 28, unsafe] -/
def State.atomicFailed (s : State) (q : Requester) (r : AtomicReq) (e : LineErr) : State :=
  match e with
  | .lost => s.report q.wave (TrapInfo.mem .eccUncorr (1#32 <<< r.lane.val) r.ea)
  | .absent => if inLineSpace r.pa then s.logError (mcOf r.pa) 2 (lineIndex r.pa) else s

/-- ATOMIC_REQUEST (R126, R128). It waits while the log record that it may append cannot be written (R121). [DEDUCED, log 28, unsafe] -/
def execAtomicRequest (m : Nat) (s : State) : Result :=
  match s.served? m with
  | none => notEnabled
  | some x =>
    match x.op with
    | .atomic r =>
      let s' := s.dropMessage m
      if r.orderSensitive && ((s.l2Line? (r.pa / 128)).map fun l => s.logBusy l.asid).getD (s.logBusy x.req.asid) then notEnabled
      else
      match s'.atomicAt x.req x.req.stamp r (s.masterOf x.req) with
      | .ok (old, s) =>
        .next ((s.modCore x.req.core fun k => k.unclean (r.pa / 128)).toRequester x.req r.infl fun y => y.arrive r.lane old)
      | .error (.line e) =>
        match r.infl with
        | some _ => .next (s'.toRequester x.req r.infl fun y => y.fail r.lane (lostInfo e r.ea))
        | none => .next (s'.atomicFailed x.req r e)
      | .error .wait => notEnabled
    | _ => notEnabled

/-! ## Replies at the core (R54, R127, R152) -/

/-- A deferred result that has arrived whole is written, its acquire performed; failures stay recorded (R54, R127). -/
def State.settle (s : State) (w d : Nat) (kinds : List DeferKind) : Result :=
  match s.wave? w with
  | none => notEnabled
  | some x =>
    match x.inflight.find? fun y => y.id == d with
    | none => notEnabled
    | some y =>
      if !kinds.contains y.kind || !y.arrived || y.settled then notEnabled
      else
        let s := match y.acquire with
          | some sc => s.acquire x.core sc
          | none => s
        .next (s.modWave w fun x => x.settleInflight y)

/-- LOAD_REPLY (R152). -/
def execLoadReply (w d : Nat) (s : State) : Result := s.settle w d [.load, .loadAcquire, .lds, .qpop, .tkpull]

/-- ATOMIC_REPLY (R126, R127). -/
def execAtomicReply (w d : Nat) (s : State) : Result := s.settle w d [.atomic]

/-- COMB_REPLY (R135, R137): the replies of every lane are written, also into the registers of a saved wave. -/
def execCombReply (w d : Nat) (s : State) : Result := s.settle w d [.comb]

/-! ## COMB (R130 to R138) -/

/-- COMB_REQUEST (R132): a full queue holds the request and those behind it. -/
def execCombRequest (m : Nat) (s : State) : Result :=
  match s.message? m with
  | none => notEnabled
  | some x =>
    match x.op with
    | .comb r =>
      if !s.isFirst x || decide (1024 ≤ (s.home x.home).combQ.length) then notEnabled
      else
        let s := (s.dropMessage m).modHome x.home fun h => { h with combQ := h.combQ ++ [r] }
        .next ((s.modCore r.req.core fun k => k.unclean (r.obj / 128)).count (.home x.home) 0x23 1)
    | _ => notEnabled

/-- An entry of the method directory (R138). -/
structure Method where
  vregs : Nat
  sregs : Nat
  start : Nat
  len : Nat
  deriving DecidableEq, Repr

/-- The lowest directory entry for a class and a partition (R138). [DESIGN CHOICE, log 52, unsafe] -/
def State.method? (s : State) (cls : Nat) (p : Fin 32) : Option Method :=
  (List.range 1024).findSome? fun e =>
    let x := (s.reg (Reg.cmbDir e)).toNat
    if bitsOf x 63 63 = 1 ∧ bitsOf x 55 40 = cls ∧ (bitsOf x 62 62 = 1 ∨ bitsOf x 60 56 = p.val) then
      some { vregs := bitsOf x 39 32, sregs := bitsOf x 31 26, start := bitsOf x 23 9, len := bitsOf x 8 0 }
    else none

/-- The lines of an object that its home reads (R133). [DESIGN CHOICE, log 51, unsafe; DESIGN CHOICE, log 53, safe] -/
def State.objectBytes (s : State) (obj n : Nat) : Except LineErr (List Byte) := s.homeBytes obj (128 * n)

/-- A batch of these requests aborts before a method runs (R136). -/
def State.refuseBatch (s : State) (reqs : List CombReq) (status : Nat) : State :=
  reqs.foldl (fun s r => s.combAbort status 0 r) s

/-- The batch and its staging copy (R133). -/
def combBatch (reqs : List CombReq) (obj : Nat) (header : DWord) (n : Nat) (bytes : List Byte) (wave start len : Nat) : Batch :=
  { obj := obj, reqs := reqs, header := header, nlines := n, staged := Memory.writeN [] 0 bytes, replies := [], wave := wave,
    start := start, len := len }

/-- The counts after each delta of a reference-count batch; none where one is negative or leaves i64 (R138). -/
def runningCounts : Int → List DWord → Option (List Int)
  | _, [] => some []
  | n, d :: l =>
    let n' := n + d.toInt
    if n' < 0 ∨ 2 ^ 63 ≤ n' then none else (runningCounts n' l).map (n' :: ·)

/-- The built-in method of class 0xFFF1 (R138). -/
def State.countBatch (s : State) (h : Fin 128) (reqs : List CombReq) (obj n : Nat) (header : DWord) (bytes : List Byte) :
    State :=
  let old := (BitVec.ofNat 64 (leNat ((bytes.drop 8).take 8))).toInt
  match (if n ≠ 1 then none else runningCounts old (reqs.map (·.arg))) with
  | none => s.refuseBatch reqs 7
  | some l =>
    let b := combBatch reqs obj header n bytes 0 0 0
    let word := fun (x : Int) => (BitVec.ofInt 64 x)
    let b := { b with staged := b.staged.writeN 8 (leBytes 8 (word (l.getLast?.getD old)).toNat),
                      replies := (l.zipIdx).map fun (x, k) => (k, word x) }
    (s.modHome h fun x => { x with batch := some b }).commitBatch h

/-- A combiner wave starts (R134). -/
def State.startMethod (s : State) (h : Fin 128) (reqs : List CombReq) (obj n : Nat) (header : DWord) (bytes : List Byte)
    (m : Method) : State :=
  let (id, s) := s.fresh
  let r := (reqs.head?.map (·.req)).getD { wave := 0, core := 0, asid := 0, part := 0, stamp := RaceTag.none }
  let mask := maskOf fun i => decide (i.val < reqs.length)
  let w := Wave.fresh id (.combiner h) r.asid r.part (Fin.ofNat 256 (2 * h.val)) 0 0 (4 * m.start) mask
  let w := { w with nv := m.vregs, ns := m.sregs, rank := id,
                    special := w.special.set 15 (BitVec.ofNat 32 (s.regBits Reg.devInfo 9 0)) }
  { s.modHome h (fun x => { x with batch := some (combBatch reqs obj header n bytes id m.start m.len) }) with
    waves := s.waves ++ [w] }

/-- The oldest object's batch formed and its method started (R132, R136, R138). A page that has been unbacked since the
requests were checked is treated as an uncorrectable line. [DESIGN CHOICE, log 51, unsafe; DESIGN CHOICE, log 53, safe; DESIGN CHOICE, log 139, unsafe] -/
def State.formBatch (s : State) (h : Fin 128) (first : CombReq) : State :=
  let obj := first.obj
  let reqs := ((s.home h).combQ.filter fun r => r.obj == obj).take 32
  let s := s.modHome h fun x => { x with combQ := x.combQ.filter fun r => !(reqs.contains r) }
  let s := s.count (.home h) 0x22 1
  match s.objectBytes obj 1 with
  | .error _ => s.refuseBatch reqs 6
  | .ok bs =>
    let x := leNat (bs.take 8)
    let cls := bitsOf x 15 0
    let n := bitsOf x 18 16 + 1
    if obj / 1024 * 1024 + 1024 < obj + 128 * n then s.refuseBatch reqs 3
    else if cls = 0xFFF0 ∨ 0xFFF2 ≤ cls then s.refuseBatch reqs 2
    else
      match s.objectBytes obj n with
      | .error _ => s.refuseBatch reqs 6
      | .ok bytes =>
        if cls = 0xFFF1 then s.countBatch h reqs obj n (BitVec.ofNat 64 x) bytes
        else
          match s.method? cls first.req.part with
          | none => s.refuseBatch reqs 2
          | some m => s.startMethod h reqs obj n (BitVec.ofNat 64 x) bytes m

/-- The object's lines belong to no running batch. -/
def State.combFree (s : State) (h : Fin 128) : Bool := (s.home h).batch.isNone && !s.regBit Reg.cmbCtl 0

/-- COMBINER_BATCH (R132). -/
def execCombinerBatch (h : Fin 128) (s : State) : Result :=
  match (s.home h).combQ with
  | r :: _ => if s.combFree h then .next (s.formBatch h r) else notEnabled
  | [] => notEnabled

/-- METHOD_INSTRUCTION_LIMIT (R136): status 4. -/
def execMethodInstructionLimit (h : Fin 128) (s : State) : Result :=
  match (s.home h).batch with
  | none => notEnabled
  | some b =>
    match s.wave? b.wave with
    | some w => if 4096 ≤ w.clock then .next (s.abortBatch h 4 0) else notEnabled
    | none => notEnabled

/-! ## Releases (R144, R171) and barrier arrivals (R162, R163) -/

def State.release? (s : State) (r : Nat) : Option Release := s.releases.find? fun x => x.id == r

/-- A direct access leaves for its home: the core's copy of its line is written back and dropped first (R141). -/
def State.sendDirect (s : State) (q : Requester) (x : Fin 128 × HomeOp) : Nat × State :=
  let s := s.beforeDirect q.core (x.2.line * 128)
  match x.2 with
  | .comb c =>
    let (id, s) := s.fresh
    (id, { s with messages := s.messages ++ [{ id := id, home := x.1, req := c.req, op := .comb { c with msg := id } }] })
  | .atomic a =>
    let stamp := match s.wave? q.wave with | some w => s.stampOf w a.ea | none => q.stamp
    s.post { q with stamp := stamp } x.1 (.atomic a)
  | op => s.post q x.1 op

/-- Something waits for a release or a queued access. -/
def State.awaited (s : State) (r : Nat) : Bool :=
  (s.releases.any fun x => x.waits.deps.contains r) || s.waves.any fun w => w.holds.any fun h => h.deps.contains r

/-- What waits for a release waits for the accesses it sends (R171). -/
def State.substDep (s : State) (r : Nat) (ids : List Nat) : State :=
  let sub := fun (d : List Nat) => d.flatMap fun x => if x = r then ids else [x]
  { s with
    releases := s.releases.map fun (x : Release) => { x with waits := { x.waits with deps := sub x.waits.deps } }
    waves := s.waves.map fun (w : Wave) => { w with holds := w.holds.map fun (h : Hold) => { h with deps := sub h.deps } } }

/-- The lanes of a queued load as its wave sees them now; those that stood behind a PUBLISH resolve through the mapping as it is
now (R182, R205). -/
def State.relane (s : State) (w : Wave) (x : Waits) (l : List LaneWait) : List LaneWait :=
  l.map fun y =>
    let pa := if x.resolve then (match s.place w y.ea 1 .r with | .ok pa => pa | .error _ => y.pa) else y.pa
    { y with pa := pa, own := s.ownBytes w pa y.width }

/-- Queued stores, likewise. -/
def State.restore (s : State) (w : Wave) (x : Waits) (l : Stores) : Stores :=
  if x.resolve then l.map fun y => (y.1, y.2.1, (match s.place w y.2.1 1 .w with | .ok pa => pa | .error _ => y.2.2.1), y.2.2.2)
  else l

/-- Plain stores that waited are performed; where something waits for them, their lines are written back, and it waits for
that (R144, R171). -/
def State.queuedStores (s : State) (r : Release) (l : Stores) : State :=
  let s := s.performStores r.req l
  let lines := (l.map fun y => y.2.2.1 / 128).eraseDups
  let s := if s.awaited r.id then lines.foldl (fun s n => s.writebackL1 r.req.core n) s else s
  s.substDep r.id (lines.flatMap fun n => s.lineWritebacks r.req.core n)

/-- A queued direct access sent; what waits for it waits for its message. -/
def State.queuedSends (s : State) (r : Release) (l : List (Fin 128 × HomeOp)) : State :=
  let (ids, s) := l.foldl (fun (a : List Nat × State) m =>
    let (id, t) := a.2.sendDirect r.req m
    (a.1 ++ [id], t)) ([], s)
  s.substDep r.id ids

/-- A queued access performed, or what follows a release (R144, R154, R155, R171, R205, R327, R408); `s` lists it no more. -/
def State.performQueued (s : State) (r : Release) : State :=
  match s.wave? r.req.wave, r.act with
  | _, .none | _, .arrive .. => s
  | _, .store ms => s.queuedSends r ms
  | some w, .bar m sel => s.barArrive w m sel
  | some w, .load infl l =>
    match w.inflight.find? fun y => y.id == infl with
    | some f =>
      let (f, s) := s.loadL1 w { f with due := 0 } (s.relane w r.waits l)
      s.modInflight w.id infl fun _ => f
    | none => s
  | some w, .reads infl l => s.sendReads w infl (s.relane w r.waits l)
  | some w, .plain l => s.queuedStores r (s.restore w r.waits l)
  | none, .plain l => s.queuedStores r l
  | some w, .lds infl l => s.modInflight w.id infl fun f => s.performLds w { f with due := 0 } l
  | some w, .sts l => s.performSts w.gang l
  | _, .clean scope drop l =>
    let (ids, s) := s.cleanLines r.req scope drop l
    s.substDep r.id ids
  | _, .prefetch l => l.foldl (fun s pa => s.prefetch r.req pa) s
  | _, .net k => s.inject k
  | none, _ => s

/-- RELEASE_COMPLETE (R144, R154, R171): what follows the release happens, or an access that waited in the queue is
performed, behind the acquire of a FENCE that held it (R155). -/
def execReleaseComplete (r : Nat) (s : State) : Result :=
  match s.release? r with
  | none => notEnabled
  | some x =>
    if !s.waitsDone x.req x.waits then notEnabled
    else
      let s := s.settleHolds x.req.wave
      match x.act with
      | .arrive .. =>
        .next { s with releases := s.releases.map fun y => if y.id = r then { y with waits := Waits.none } else y }
      | _ => .next (State.performQueued { s with releases := s.releases.filter fun y => y.id != r } x)

/-- BARRIER_ARRIVAL (R162): the arrival of a release that is complete, at the word's bank. -/
def execBarrierArrival (k : Nat) (s : State) : Result :=
  match s.release? k with
  | none => notEnabled
  | some x =>
    match x.act with
    | .arrive c off n =>
      if s.waitsDone x.req x.waits then
        .next (State.arriveAt { s with releases := s.releases.filter fun y => y.id != k } c off n)
      else notEnabled
    | _ => notEnabled

end Sys2Proof.Machine
end

