-- ==== Sys2Proof/Machine/CopyBlock.lean ====
section
/-! DEFINITION. COPY blocks (R190 to R194): their fields, the elements that a command moves, and what acceptance refuses
in them. -/

namespace Sys2Proof.Machine

/-- A COPY block (R190). -/
structure CopyBlock where
  rotoff : Bool
  gather : Bool
  transp : Bool
  pad24 : Bool
  shadow : Bool
  dspace : Nat
  sspace : Nat
  esize : Nat
  dvec : Nat
  srca : Nat
  dsta : Nat
  e0 : Nat
  e1 : Nat
  e2 : Nat
  e3 : Nat
  ss : Nat → Int
  ds : Nat → Int
  done : Nat

/-- A signed 32-bit field of a block. -/
def strideField (bs : List Byte) (off : Nat) : Int := (BitVec.ofNat 32 (blockField bs off 4)).toInt

def CopyBlock.ofBytes (bs : List Byte) : CopyBlock :=
  let f := blockField bs
  let c := f 0 8
  let e := f 24 8
  let bit := fun i => bitsOf c i i == 1
  { rotoff := bit 60, gather := bit 59, transp := bit 58, pad24 := bit 57, shadow := bit 56, dspace := bitsOf c 55 52,
    sspace := bitsOf c 51 48, esize := bitsOf c 47 45, dvec := bitsOf c 21 0, srca := f 8 8, dsta := f 16 8,
    e0 := bitsOf e 23 0, e1 := bitsOf e 39 24, e2 := bitsOf e 51 40, e3 := bitsOf e 63 52,
    ss := fun k => strideField bs (32 + 4 * k), ds := fun k => strideField bs (44 + 4 * k), done := f 56 8 }

/-- The space that a code names (R192). -/
def spaceOf? (c : Nat) : Option EngSpace :=
  match c with
  | 0 => some .global
  | 1 => some .scratch
  | 2 => some .stacks
  | 3 => some .acc
  | 4 => some .archive
  | 5 => some .remote
  | _ => none

/-- Elements of 4 bits (R190). -/
def CopyBlock.nib (b : CopyBlock) : Bool := b.esize == 4

/-- Bytes of an element; a 4-bit element counts as one byte (R192). -/
def CopyBlock.w (b : CopyBlock) : Nat := if b.nib then 1 else 2 ^ b.esize

/-- n elements as whole bytes' worth: two 4-bit elements stand in a byte (R69). -/
def CopyBlock.units (b : CopyBlock) (n : Nat) : Nat := if b.nib then (n + 1) / 2 else n

/-- The extent of a destination row (R191), and its padded extent. -/
def CopyBlock.rowLen (b : CopyBlock) : Nat := if b.transp then b.e1 else b.e0
def CopyBlock.padded (b : CopyBlock) : Nat := if b.pad24 then 24 * ((b.rowLen + 23) / 24) else b.rowLen

/-- A position in a space (R191): base, `a` elements of the side's unit, and three strides, in 64-bit arithmetic. An
acc side counts pairs, given here in bytes of its store (R192). -/
def position (acc : Bool) (w base : Nat) (str : Nat → Int) (a b c d : Nat) : Nat :=
  let x := ((base : Int) + (a : Int) * (if acc then 1 else (w : Int)) + b * str 0 + c * str 1 + d * str 2) % 2 ^ 64
  x.toNat * (if acc then 8 else 1)

def CopyBlock.srcAt (b : CopyBlock) (i0 i1 i2 i3 : Nat) : Nat := position (b.sspace == 3) b.w b.srca b.ss i0 i1 i2 i3

/-- The destination of the element at column k of destination row r. -/
def CopyBlock.dstAt (b : CopyBlock) (k r i2 i3 : Nat) : Nat := position (b.dspace == 3) b.w b.dsta b.ds k r i2 i3

/-- One element moved, or a padding element (R191). -/
structure Move where
  /-- The source position, where it is not padding; of a gather, its row and the offset in it. -/
  src : Option Nat
  row : Nat
  col : Nat
  dst : Nat
  /-- Only the low half of the byte is an element; the other is padding (R191). -/
  half : Bool
  deriving DecidableEq, Repr

/-- The elements of a block in the order of the loops, then its padding. -/
def CopyBlock.moves (b : CopyBlock) : List Move :=
  (List.range b.e3).flatMap fun i3 => (List.range b.e2).flatMap fun i2 =>
    ((List.range b.e1).flatMap fun i1 => (List.range (b.units b.e0)).map fun i0 =>
      { src := some (b.srcAt i0 i1 i2 i3), row := i1, col := i0,
        dst := if b.transp then b.dstAt i1 i0 i2 i3 else b.dstAt i0 i1 i2 i3,
        half := b.nib && decide (2 * i0 + 1 ≥ b.e0) })
    ++ (List.range (if b.transp then b.e0 else b.e1)).flatMap fun r =>
      ((List.range (b.units b.padded)).drop (b.units b.rowLen)).map fun k =>
        { src := none, row := r, col := k, dst := b.dstAt k r i2 i3, half := false }

/-- Positions that the command reads, and those it writes. -/
def CopyBlock.srcs (b : CopyBlock) : List Nat := b.moves.filterMap (·.src)
def CopyBlock.dsts (b : CopyBlock) : List Nat := b.moves.map (·.dst)

/-- The rows of a side as ranges of bytes (R35): those that the command reads, and those it writes. -/
def CopyBlock.srcRows (b : CopyBlock) : List (Nat × Nat) :=
  (List.range b.e3).flatMap fun i3 => (List.range b.e2).flatMap fun i2 => (List.range b.e1).map fun i1 =>
    (b.srcAt 0 i1 i2 i3, b.units b.e0 * b.w)
def CopyBlock.dstRows (b : CopyBlock) : List (Nat × Nat) :=
  (List.range b.e3).flatMap fun i3 => (List.range b.e2).flatMap fun i2 =>
    (List.range (if b.transp then b.e0 else b.e1)).map fun r => (b.dstAt 0 r i2 i3, b.units b.padded * b.w)

/-- Bytes the command writes, padding included. -/
def CopyBlock.total (b : CopyBlock) : Nat := b.e3 * b.e2 * (if b.transp then b.e0 else b.e1) * b.units b.padded * b.w

/-- An element position that a space does not allow (R192). -/
def badPosition (sp : EngSpace) (w a : Nat) : Bool :=
  match sp with
  | .global | .scratch | .remote => a % w != 0
  | .stacks => decide (2 ^ 24 < a + w)
  | .acc => decide (2 ^ 16 ≤ a / 8) || bitsOf (a / 8) 7 7 != 0
  | .archive => false

/-- The archive side's constraints (R192): `g` is the address of the global side's rows. [DESIGN CHOICE, log 47, safe] -/
def CopyBlock.archiveOk (b : CopyBlock) : Bool :=
  let a := if b.sspace = 4 then b.srca else b.dsta
  let ns := bitsOf a 60 48
  let row := fun i1 i2 i3 => if b.sspace = 4 then b.dstAt 0 i1 i2 i3 else b.srcAt 0 i1 i2 i3
  let size := if Config.wideBlocks (bitsOf a 63 61) ns then 4096 else 512
  (if b.sspace = 4 then b.dspace == 0 else b.sspace == 0) && b.esize == 0 && ns != 0 && b.e0 % 128 == 0
    && b.total % size == 0
    && (List.range b.e3).all fun i3 => (List.range b.e2).all fun i2 => (List.range b.e1).all fun i1 =>
        row i1 i2 i3 % 128 == 0

/-- A side lies in a space. -/
def CopyBlock.either (b : CopyBlock) (c : Nat) : Bool := b.sspace == c || b.dspace == c

/-- What cause 0x01 refuses before any address (R190 to R192, R194). -/
def CopyBlock.badFields (b : CopyBlock) (ctrl : Nat) : Bool :=
  bitsOf ctrl 63 61 != 0 || bitsOf ctrl 44 22 != 0 || decide (4 < b.esize) || decide (5 < b.sspace) || decide (5 < b.dspace)
    || !doneOk b.done || b.e0 == 0 || b.e1 == 0 || b.e2 == 0 || b.e3 == 0
    || (b.sspace == 4 && b.dspace == 4) || (b.sspace == 5 && b.dspace == 5)
    || ((b.pad24 || b.transp) && (b.either 4 || b.either 5)) || (b.transp && b.nib) || (b.nib && b.padded % 2 != 0)
    || (b.shadow && decide (1 < b.dspace)) || (b.gather && (b.sspace != 0 || b.e2 != 1 || b.e3 != 1))
    || (b.either 3 && b.esize != 3) || (b.either 5 && (b.either 3 || b.either 4)) || decide (2 ^ 32 < b.total)

/-- A byte of the reserved shelf region (R36). -/
def inShelf (a : Nat) : Bool := decide (0x1E000 ≤ a % 0x20000)

/-- The cause of ENG_FAULT that a COPY block's fields raise (R189). -/
def copyCause? (bs : List Byte) (system : Bool) : Option Nat :=
  let b := CopyBlock.ofBytes bs
  if b.badFields (blockField bs 0 8) then some 1
  else
  let src := if b.gather then [] else b.srcs
  let bad := fun (code : Nat) (l : List Nat) => match spaceOf? code with
    | some sp => l.any (badPosition sp b.w)
    | none => false
  let shelf := fun (code : Nat) (l : List Nat) => code == 2 && l.any fun a => inShelf a || inShelf (a + b.w - 1)
  if (b.either 4 && !b.archiveOk) || bad b.sspace src || bad b.dspace b.dsts then some 1
  else if shelf b.sspace src || shelf b.dspace b.dsts then some 4
  else if b.either 3 && !system then some 6
  else none

/-! ## Translations at acceptance (R189, R198, R200) -/

/-- The checks of one engine address. -/
def State.placeEngine (s : State) (w : Wave) (hidden : Bool) (acc : Rights) (ea : Nat) : Except TrapCode Nat :=
  match s.translateAs w.core w.asid (!w.system) hidden ea acc with
  | .error e => .error e
  | .ok pa =>
    if acc.wr && inExpanded pa then .error .windowWrite
    else if s.crosses w.part pa then .error .boundary
    else if s.backed pa then .ok pa
    else .error .memFault

/-- The frames of the pages of some addresses, or the trap of the first that fails. [DEDUCED, log 41, unsafe] -/
def State.enginePages (s : State) (w : Wave) (hidden : Nat → Bool) (acc : Rights) (l : List Nat) :
    Except (TrapCode × Nat) (SMap Nat) :=
  l.foldlM (fun m a =>
    if (SMap.at? m (a / 65536)).isSome then .ok m
    else match s.placeEngine w (hidden a) acc a with
      | .ok pa => .ok (SMap.insert m (a / 65536) (pa / 65536))
      | .error c => .error (c, a)) []

/-- The first row of a window side that fails, each checked over every byte it covers (R35, R192). [DEDUCED, log 43, unsafe] -/
def State.engineWindow? (s : State) (gang : Nat) (rows : List (Nat × Nat)) : Option (TrapCode × Nat) :=
  rows.findSome? fun (o, n) => match s.windowCheck gang o n with
    | .error c => some (c, o)
    | .ok _ => none

/-- The pages or windows of one side, checked; the frames of a global side. -/
def State.engineSide (s : State) (w : Wave) (space : Nat) (hidden : Nat → Bool) (acc : Rights) (l : List Nat)
    (rows : List (Nat × Nat)) : Except (TrapCode × Nat) (SMap Nat) :=
  match space with
  | 0 => s.enginePages w hidden acc l
  | 1 => match s.engineWindow? w.gang rows with
    | some e => .error e
    | none => .ok []
  | _ => .ok []

/-- The completion word of a block, checked (R188, R35). -/
def State.doneFault? (s : State) (gang done : Nat) : Option (TrapCode × Nat) :=
  let d := DoneField.ofNat done
  if d.cbv then
    match s.windowAligned gang d.cbw 8 with
    | .error c => some (c, d.cbw)
    | .ok _ => none
  else none

/-- The Δ-base vector's words, where a gather writes them (R194). -/
def CopyBlock.deltas (b : CopyBlock) : List Nat :=
  if b.gather && !b.rotoff then (List.range b.e1).map fun i => b.dvec + 4 * i else []

/-- The Δ-base vector checked as one range (R35). -/
def State.deltaFault? (s : State) (gang : Nat) (l : List Nat) : Option (TrapCode × Nat) :=
  match l with
  | [] => none
  | o :: _ =>
    match s.windowCheck gang o (4 * l.length) with
    | .error c => some (c, o)
    | .ok _ => if o % 4 = 0 then none else some (.memAlign, o)

/-- Both sides of a COPY checked at acceptance: the frames of its source and destination pages. [DEDUCED, log 41, unsafe] -/
def State.copySides (s : State) (w : Wave) (b : CopyBlock) : Except (TrapCode × Nat) (SMap Nat × SMap Nat) := do
  let src ← s.engineSide w b.sspace (fun _ => false) .r (if b.gather then [b.srca] else b.srcs) b.srcRows
  let dst ← s.engineSide w b.dspace (fun _ => b.shadow) .w b.dsts b.dstRows
  match s.deltaFault? w.gang b.deltas with
  | some e => .error e
  | none =>
    match s.doneFault? w.gang b.done with
    | some e => .error e
    | none => return (src, dst)

/-! ## Hidden copies that a command writes (R198, R204) -/

/-- The buffer-map entry of a bmi page (R197). -/
def State.bmiEntry? (s : State) (w : Wave) (ea : Nat) : Option Nat :=
  match s.pageOf w.core w.asid (ea / 65536) with
  | .ok e => if e.bmi then some (e.frame % 1024) else none
  | .error _ => none

/-- Index of the remap entry that decides an offset of an allocation (R160). -/
def Workgroup.remapIndex? (g : Workgroup) (o : Nat) : Option Nat :=
  (List.range 8).find? fun k => match g.remap[k]? with
    | some x => let r := Remap.ofWord x; r.en && (r.inBase (o / 768) || r.inAlt (o / 768))
    | none => false

/-- The entries whose hidden copy a command writes: destination space, the addresses, whether bmi pages are written
hidden. -/
def State.hiddenOf (s : State) (w : Wave) (space n : Nat) (shadow : Bool) (l : List Nat) : List (Bool × Nat × Nat) :=
  match space with
  | 0 => if shadow then (l.filterMap fun a => (s.bmiEntry? w a).map fun m => (false, 0, m)).eraseDups else []
  | 1 =>
    ((l.flatMap fun a => (List.range n).map (a + ·)).filterMap fun o =>
      match s.gang? w.gang with
      | none => none
      | some g =>
        match g.wgs.findIdx? fun x => x.core.val % 4 == o / 2 ^ 20 with
        | none => none
        | some k => ((g.wgs[k]?).bind fun x => x.remapIndex? (o % 2 ^ 20)).map fun e => (true, k, e)).eraseDups
  | _ => []

end Sys2Proof.Machine
end

