-- ==== Sys2Proof/Machine/Maps.lean ====
section
/-! DEFINITION. Geometry and segment layout (R349, R350), link maps and their images (R356, R357), patch blocks (R364),
and the row that a gather reads for a context position (R194). -/

namespace Sys2Proof.Machine

/-! ## Geometry -/

/-- A configuration block (R349). -/
structure MapCfg where
  lm1 : Nat
  hm1 : Nat
  hd24 : Nat
  efmt : Nat
  sfmt : Nat
  player : Nat
  head : Nat
  kmax : Nat
  theta : Word
  seq : Word
  /-- The reserved bytes are 0. -/
  clean : Bool
  deriving DecidableEq, Repr

def MapCfg.ofBytes (bs : List Byte) : MapCfg :=
  let f := blockField bs
  { lm1 := f 0 1, hm1 := f 1 1, hd24 := f 2 1, efmt := f 3 1, sfmt := f 4 1, player := f 5 1, head := f 6 2, kmax := f 8 2,
    theta := BitVec.ofNat 32 (f 12 4), seq := BitVec.ofNat 32 (f 16 4), clean := f 10 2 == 0 && f 20 12 == 0 }

/-- Bytes 0 to 4 form the geometry. -/
def MapCfg.geometry (c : MapCfg) : List Nat := [c.lm1, c.hm1, c.hd24, c.efmt, c.sfmt]

/-- The geometry is valid (R349). -/
def MapCfg.geoOk (c : MapCfg) : Bool :=
  decide (c.hm1 < 64 ∧ 1 ≤ c.hd24 ∧ c.hd24 ≤ 8)
    && ((c.efmt == 10 && c.sfmt == 0) || ((c.efmt == 11 || c.efmt == 12) && (c.sfmt == 15 || c.sfmt == 16)))

/-- The block is valid (R349): θ is finite and not below zero, −0 accepted. -/
def MapCfg.ok (c : MapCfg) : Bool :=
  c.geoOk && c.clean && decide (c.player ≤ c.lm1 ∧ c.head ≤ 1024 ∧ 1 ≤ c.kmax ∧ c.kmax ≤ 4096)
    && !isInfNaN32 c.theta && (c.theta == 0x80000000#32 || !c.theta.getLsbD 31)

/-- Elements of a head, bytes of an element, bytes of a key row (R350). -/
def MapCfg.hd (c : MapCfg) : Nat := 24 * c.hd24
def MapCfg.es (c : MapCfg) : Nat := if c.efmt = 10 then 2 else 1
def MapCfg.kb (c : MapCfg) : Nat := c.hd * c.es + (if c.efmt = 10 then 0 else c.hd / 24)
/-- Key and value tensors of a segment: L · Hkv. -/
def MapCfg.tensors (c : MapCfg) : Nat := (c.lm1 + 1) * (c.hm1 % 64 + 1)
/-- Bytes of a key record (R350). -/
def MapCfg.krec (c : MapCfg) : Nat := 32 * ((c.tensors * c.kb + 31) / 32)
/-- Bytes of a value tensor of n tokens (R350). -/
def MapCfg.vt (c : MapCfg) (n : Nat) : Nat :=
  let n' := 24 * ((n + 23) / 24)
  128 * ((c.hd * n' * c.es + (if c.efmt = 10 then 0 else c.hd * n' / 24) + 127) / 128)
/-- Bytes of a segment of n tokens (R350). -/
def MapCfg.segSize (c : MapCfg) (n : Nat) : Nat := 128 * ((n * c.krec + 127) / 128) + c.tensors * c.vt n

/-! ## Images (R357) -/

def MapEntry.ofBytes (bs : List Byte) : MapEntry :=
  let f := blockField bs
  { call := f 0 16, base := f 16 4, n := f 20 4, idx := f 24 4, iid := f 28 4, data := f 32 8, patch := f 40 8,
    rstate := f 48 1, arec := f 49 1, rgen := f 50 2 }

def MapEntry.bytes (e : MapEntry) : List Byte :=
  leBytes 16 e.call ++ leBytes 4 e.base ++ leBytes 4 e.n ++ leBytes 4 e.idx ++ leBytes 4 e.iid ++ leBytes 8 e.data
    ++ leBytes 8 e.patch ++ leBytes 1 e.rstate ++ leBytes 1 e.arec ++ leBytes 2 e.rgen ++ leBytes 12 0

/-- An image. -/
structure MapImage where
  edition : Nat
  mapVa : Nat
  cfg : List Byte
  entries : List MapEntry
  deriving DecidableEq, Repr

def MapImage.ofBytes (bs : List Byte) : MapImage :=
  let f := blockField bs
  { edition := f 0 4, mapVa := f 8 8, cfg := (bs.drop 16).take 32,
    entries := (List.range (min 15 (f 4 1))).map fun k => MapEntry.ofBytes (bs.drop (64 + 64 * k)) }

/-- The 1,024 bytes of an image. -/
def MapImage.bytes (m : MapImage) : List Byte :=
  let l := leBytes 4 m.edition ++ leBytes 4 m.entries.length ++ leBytes 8 m.mapVa ++ m.cfg ++ leBytes 16 0
    ++ m.entries.flatMap MapEntry.bytes
  l ++ List.replicate (1024 - l.length) 0

/-- Where a slot's image stands in its map (R356). -/
def imageOff (k : Nat) : Nat := 0x400 * (k + 1)

/-- The entry that covers a context position. -/
def MapImage.covering? (m : MapImage) (q : Nat) : Option MapEntry :=
  m.entries.find? fun e => decide (e.base ≤ q ∧ q < e.base + e.n)

/-! ## Reads by a unit on behalf of a context -/

/-- A late cause that a line gives. [DEDUCED, log 42, unsafe] -/
def lineCause : LineErr → Nat
  | .lost => 0x0C
  | .absent => 0x11

/-- Bytes at a virtual address read at their homes, page by page; `bad` is the cause of a failed translation. -/
def State.virtBytes (s : State) (tr : Nat → Except TrapCode Nat) (bad : Nat) : Nat → Nat → Except Nat (List Byte)
  | 0, _ => .ok []
  | n + 1, ea =>
    match tr ea with
    | .error _ => .error bad
    | .ok pa =>
      match s.homeByte pa with
      | .error e => .error (lineCause e)
      | .ok b =>
        match State.virtBytes s tr bad n ((ea + 1) % 2 ^ 64) with
        | .error c => .error c
        | .ok l => .ok (b :: l)

/-- The lines of a range of virtual addresses. -/
def virtLines (tr : Nat → Except TrapCode Nat) (ea n : Nat) : List Nat :=
  (List.range (n / 128 + 2)).filterMap fun k =>
    let a := if k = 0 then ea else (ea / 128 + k) * 128
    if a < ea + n then match tr (a % 2 ^ 64) with | .ok pa => some (pa / 128) | .error _ => none
    else none

/-- Index of token t among the m listed tokens of a patch block or selection list (R364). -/
def State.listed (s : State) (tr : Nat → Except TrapCode Nat) (p t : Nat) : Except Nat (Option Nat × Nat) := do
  let m := leNat (← s.virtBytes tr 8 4 p)
  let l ← s.virtBytes tr 8 (4 * m) (p + 128)
  return ((List.range m).find? fun u => leNat ((l.drop (4 * u)).take 4) == t, m)

/-- The lines that such a search reads. -/
def State.listedLines (s : State) (tr : Nat → Except TrapCode Nat) (p : Nat) : List Nat :=
  virtLines tr p 4 ++ (match s.virtBytes tr 8 4 p with
    | .ok l => virtLines tr (p + 128) (4 * leNat l)
    | .error _ => [])

/-- The row that a gather reads for context position q, as a virtual address before the tensor's offset, and the entry's
base (R194). -/
def State.gatherRow (s : State) (tr : Nat → Except TrapCode Nat) (m : MapImage) (off pitch q : Nat) :
    Except Nat (Nat × Nat) := do
  match m.covering? q with
  | none => .error 7
  | some e =>
    let t := q - e.base
    let krec := (MapCfg.ofBytes m.cfg).krec
    let own := (e.data + off + t * pitch) % 2 ^ 64
    if e.patch = 0 then return (own, e.base)
    else
      let (u, k) ← s.listed tr e.patch t
      match u with
      | none => return (own, e.base)
      | some u => return ((e.patch + 128 + 128 * ((4 * k + 127) / 128) + u * krec + off) % 2 ^ 64, e.base)

end Sys2Proof.Machine
end

