-- ==== Sys2Proof/Machine/Net.lean ====
section
/-! DEFINITION. The network unit of a core (R405 to R411): routes and stamps as packets are injected (R391, R392, R396),
stage queues (R293), and the NET group. -/

namespace Sys2Proof.Machine

/-! ## Routes and injection -/

/-- The output that KLROUTE names for a device; none where the entry is not valid (R392, R404). -/
def State.route? (s : State) (x : Nat) : Option (Fin 17) :=
  let r := s.reg (Reg.klRoute x)
  let v := bitsOf r.toNat 4 0
  if x < 1024 ∧ r.getLsbD 63 ∧ v ≤ 16 then some (Fin.ofNat 17 v) else none

/-- The watermark of an input; that of local injection is max(P, F) (R397). -/
def State.wmOf (s : State) (i : Fin 17) : Nat :=
  if h : i.val < 16 then s.fabric.wmIn[i.val] else max s.fabric.podTime s.fabric.floor

/-- The watermark of local injection, once relied on, binds later stamps: F rises to it (R397). [DEDUCED, log 99, safe] -/
def State.raiseFloor (s : State) : State :=
  let t := max s.fabric.podTime s.fabric.floor
  s.modFabric fun f => { f with floor := t, lastRise := if f.floor < t then f.lastRise.set 16 f.podTime else f.lastRise }

/-- A request of this device, before its class is filled in. -/
def Packet.request (dst : Nat) (part : Fin 32) (op : Nat) (kind : PacketKind) : Packet :=
  { dst := dst, src := 0, ordered := false, period := false, kind := kind, part := part, seq := 0, stamp := 0, wm := 0,
    ref := op }

/-! ## Stage queues (R293) -/

/-- A stage queue: the address of its header and its capacity. -/
structure StageQueue where
  base : Nat
  cap : Nat
  deriving DecidableEq, Repr

/-- Entry q of a partition's table, where it names a queue (R293, R296). -/
def State.stageQueue? (s : State) (p : Fin 32) (q : Nat) : Option StageQueue :=
  let r := (s.reg (Reg.sqBase p)).toNat
  if q < 4096 ∧ bitsOf r 0 0 = 1 then
    match s.lineSpaceBytes (bitsOf r 51 15 * 2 ^ 15 + 8 * q) 8 with
    | .error _ => none
    | .ok bs =>
      let e := leNat bs
      let lcap := bitsOf e 59 56
      if bitsOf e 63 63 = 1 ∧ 1 ≤ lcap ∧ lcap ≤ 12 then some { base := bitsOf e 51 7 * 128, cap := 2 ^ lcap } else none
  else none

/-- The counts of a queue: pushed and popped. -/
def State.queueCounts (s : State) (q : StageQueue) : Except LineErr (Nat × Nat) := do
  let bs ← s.homeBytes q.base 16
  return (leNat (bs.take 8), leNat (bs.drop 8))

/-- Address of record k. -/
def StageQueue.slot (q : StageQueue) (k : Nat) : Nat := q.base + 128 * (1 + k % q.cap)

/-- The queue's lines cannot be touched now: their home holds one back (R118, R133). [DESIGN CHOICE, log 56, safe] -/
def State.queueBusy (s : State) (q : StageQueue) : Bool := !s.servesRange q.base (128 * (q.cap + 1))

/-- What becomes of a push. -/
inductive PushResult where
  | done (s : State)
  | full
  | bad (c : TrapCode)
  | wait

/-- A push of a record (R293). -/
def State.pushStage (s : State) (p : Fin 32) (q : Nat) (asid : BitVec 8) (rec32 : List Word) : PushResult :=
  match s.stageQueue? p q with
  | none => .bad .memFault
  | some x =>
    if s.crosses p x.base then .bad .boundary
    else if s.queueBusy x then .wait
    else
      match s.queueCounts x with
      | .error e => .bad e.trap
      | .ok (n, m) =>
        if (n + 2 ^ 64 - m) % 2 ^ 64 ≥ x.cap then .full
        else
          let s := (s.visit x.base 16 asid).unitWrite (x.slot n) (rec32.flatMap fun w => leBytes 4 w.toNat) asid
          .done (s.unitWriteNat x.base 8 ((n + 1) % 2 ^ 64) asid)

/-- The oldest record of a queue and the state after its pop; none where the queue is empty (R293). -/
def State.popStage (s : State) (x : StageQueue) (asid : BitVec 8) : Except LineErr (Option (Lanes × State)) := do
  let (n, m) ← s.queueCounts x
  if n = m then return none
  else
    let bs ← s.homeBytes (x.slot m) 128
    let r := lanesOf fun i => BitVec.ofNat 32 (leNat ((bs.drop (4 * i.val)).take 4))
    return some (r, ((s.visit x.base 16 asid).visit (x.slot m) 128 asid).unitWriteNat (x.base + 8) 8 ((m + 1) % 2 ^ 64) asid)

/-- The delivery word (R406). -/
def deliveryWord (gap ordered : Bool) (src : Nat) : Word :=
  BitVec.ofNat 32 ((if gap then 2 ^ 31 else 0) + (if ordered then 2 ^ 30 else 0) + src % 1024)

/-! ## NPUT, NGET, NSEND -/

/-- The target registers (R405). -/
structure NetTarget where
  w0 : Word
  w1 : Word
  va : Nat
  deriving DecidableEq, Repr

def NetTarget.of (w : Wave) (a : Operand) : NetTarget :=
  match a with
  | .s r => { w0 := w.s[r], w1 := w.sreg (r.val + 1), va := (join64 (w.sreg (r.val + 2)) (w.sreg (r.val + 3))).toNat }
  | _ => { w0 := 0, w1 := 0, va := 0 }

/-- The destination device. -/
def NetTarget.dst (t : NetTarget) : Nat := bitsOf t.w0.toNat 9 0

/-- The checks at issue (R405). -/
def State.netFault? (s : State) (t : NetTarget) (send ord : Bool) : Option TrapCode :=
  if bitsOf t.w0.toNat 31 10 ≠ 0 ∨ (if send then bitsOf t.w1.toNat 31 12 ≠ 0 else t.w1 ≠ 0) then some .memFault
  else if (s.route? t.dst).isNone then some .memFault
  else if !send && t.va % 4 != 0 then some .memAlign
  else if !send && decide (65536 < t.va % 65536 + 128) then some .memFault
  else if ord && !s.regBit Reg.klCtl 0 then some .memFault
  else none

/-- The trap of a failed check: NSEND names no address (R405, R324). -/
def State.netTrap (s : State) (w : Wave) (p : Path) (i : Instr) (t : NetTarget) (send : Bool) (c : TrapCode) : State :=
  let exec := execMask w p
  if send then
    let (info, s) := s.freeMem c exec
    s.trap w p (wordOfInstr i) info
  else s.trap w p (wordOfInstr i) (TrapInfo.mem c exec (t.va + 4 * ((lowLane exec).map (·.val)).getD 0))

/-- Operations a core's network unit holds (R405). -/
def netLimit : Nat := 128

/-- The unit has a free entry. -/
def State.netRoom (s : State) (c : Fin 256) : Bool := decide ((s.fabric.ops.filter fun o => o.core == c && o.cmd.isNone).length < netLimit)

/-- What an operation of the wave on the network waits for in the memory queue: the holds it stands behind, and its earlier
operations there (R408). [DEDUCED, log 123, safe] -/
def State.netWaits (s : State) (w : Wave) : Waits :=
  let x := (s.holdsOn w [.net] [] []).foldl (fun x h => x.join h.waits) Waits.none
  { x with deps := x.deps ++ (s.releases.filter fun r => r.req.wave == w.id && (match r.act with | .net _ => true | _ => false)).map (·.id) }

/-- A request leaves the wave as an outstanding operation, at once or from the memory queue. -/
def State.sendNet (s : State) (w : Wave) (p : Path) (t : NetTarget) (ord send : Bool) (infl : Option Nat)
    (kind : PacketKind) : State :=
  let (id, s) := s.fresh
  let o : NetOp := { id := id, core := w.core, wave := w.id, infl := infl, cmd := none, dst := t.dst, va := t.va,
                     send := send, ordered := ord, pc := p.pc, reply := none }
  let k := { Packet.request t.dst w.part id kind with ordered := ord, period := ord && w.isDet,
                                                      stamp := if ord && w.isDet then s.periodOf w else 0 }
  let x := s.netWaits w
  let s := s.modFabric fun f => { f with ops := f.ops ++ [o] }
  if x.isNone then s.inject k else (s.enqueue (s.requester w 0) x (.net k)).2

/-- The words of the lanes of EXEC, 0 elsewhere. -/
def netWords (w : Wave) (p : Path) (d : Operand) : List Word :=
  allLanes.map fun i => if inMask (execMask w p) i then srcLane w p d i else 0

/-- The card of NPUT, NGET and NSEND. -/
def netCard (d a : Operand) (body : Wave → Path → State → Result) (w : Wave) (_p : Path) : Card :=
  { pipeCard (onlyLaunched w) [.group isVec 1 1 d, .group isSca 4 4 a] [] body with irrev := true, sync := true }

/-- The body of NPUT, NGET and NSEND: checks, room, and the request. -/
def netBody (i : Instr) (a : Operand) (ord send : Bool) (go : NetTarget → State → State) (w : Wave) (p : Path)
    (s : State) : Result :=
  if execMask w p = 0 then .next (s.advance p 1)
  else
    let t := NetTarget.of w a
    match s.netFault? t send ord with
    | some c => .next (s.netTrap w p i t send c)
    | none =>
      let s := s.settleHolds w.id
      if !s.netRoom w.core then s.stall else .next (go t s)

/-- NPUT and NPUT.ORD (R406). -/
def putBody (i : Instr) (d a : Operand) (ord : Bool) (w : Wave) (p : Path) (s : State) : Result :=
  netBody i a ord false (fun t s =>
    (s.sendNet w p t ord false none (.put t.va (execMask w p) (netWords w p d))).advance p (streamCost (execMask w p))) w p s

/-- NSEND and NSEND.ORD (R406). -/
def sendBody (i : Instr) (d a : Operand) (ord : Bool) (w : Wave) (p : Path) (s : State) : Result :=
  netBody i a ord true (fun t s =>
    (s.sendNet w p t ord true none (.send (bitsOf t.w1.toNat 11 0) (netWords w p d))).advance p
      (streamCost (execMask w p))) w p s

/-- NPUT. -/
def execNput (d a : Operand) (s : State) : Result := runCard (.nput d a) (netCard d a (putBody (.nput d a) d a false)) s

/-- NPUT.ORD. -/
def execNputOrd (d a : Operand) (s : State) : Result :=
  runCard (.nputOrd d a) (netCard d a (putBody (.nputOrd d a) d a true)) s

/-- NSEND. -/
def execNsend (d a : Operand) (s : State) : Result := runCard (.nsend d a) (netCard d a (sendBody (.nsend d a) d a false)) s

/-- NSEND.ORD. -/
def execNsendOrd (d a : Operand) (s : State) : Result :=
  runCard (.nsendOrd d a) (netCard d a (sendBody (.nsendOrd d a) d a true)) s

/-- NGET (R406): a deferred result. -/
def execNget (d a : Operand) (s : State) : Result :=
  runCard (.nget d a) (netCard d a fun w p s =>
    netBody (.nget d a) a false false (fun t s =>
      let exec := execMask w p
      let (id, s) := s.fresh
      let f := { Inflight.new id .nget (dstRegs false d) false exec p.pc with due := exec }
      (s.sendNet w p t false false (some id) (.get t.va exec)).defer w p f (streamCost exec)) w p s) s

/-- NFENCE (R408): a release at pod scope, behind which later accesses wait while the wave goes on. -/
def execNfence (s : State) : Result :=
  runCard .nfence (fun w _ =>
    { pipeCard (onlyLaunched w) [] [] (fun w p s =>
        let (id, s) := s.startRelease w (s.requester w 0) .pod .none
        let h : Hold := { classes := [.load, .store, .net], through := none, deps := [id], loads := [], commands := [], netOps := [],
                          acquire := false }
        .next ((s.addHold w.id h).advance p 1)) with irrev := true, sync := true, race := true }) s

/-- The value of an NRECV delivered: the path retires with an acquire at dev scope (R406, R409). -/
def State.receive (s : State) (w : Wave) (p : Path) (d : Fin 128) (r : Lanes) : State :=
  let (id, s) := (s.acquire w.core .dev).fresh
  let exec := execMask w p
  (s.defer w p { Inflight.new id .nrecv [.v d] false exec p.pc with vals := [r] } (streamCost exec)).modWave w.id fun x =>
    match x.inflight.find? fun y => y.id == id with
    | some y => x.settleInflight y
    | none => x

/-- NRECV (R406). -/
def execNrecv (d a : Operand) (s : State) : Result :=
  runCard (.nrecv d a) (fun w _ =>
    { pipeCard (onlyLaunched w) [.group isVec 1 1 d, .src a] [.src a] (fun w p s =>
        let q := (srcUni w p a).toNat
        let bad := fun (s : State) (c : TrapCode) =>
          let (info, s) := s.freeMem c p.mask
          Host.Outcome.next (s.trap w p (wordOfInstr (.nrecv d a)) info)
        match s.stageQueue? w.part q with
        | none => bad s .memFault
        | some x =>
          if s.crosses w.part x.base then bad s .boundary
          else if s.queueBusy x then s.stall
          else
            let s := s.settleHolds w.id
            if s.held w [.net] [] [] then .next (s.block (.record q))
            else
              match s.popStage x w.asid with
              | .error e => bad s e.trap
              | .ok none => .next (s.block (.record q))
              | .ok (some (r, s)) => .next (s.receive w p (vecReg d) r)) with
      switch := true, blocking := true, irrev := true, sync := true }) s

end Sys2Proof.Machine
end

