-- ==== Sys2Proof/Machine/Quant.lean ====
section
/-! DEFINITION. QUANT2 (R206, R207): its block, the encoding of one block of 24 elements, and what a command writes. -/

namespace Sys2Proof.Machine

/-- A QUANT2 block (R206). -/
structure QuantBlock where
  qsp : Nat
  qdsp : Nat
  useext : Bool
  fold : Bool
  rowon : Bool
  colon : Bool
  elem : Nat
  scl : Nat
  styp : Nat
  nr : Nat
  nc : Nat
  qsrc : Nat
  qspitch : Nat
  qrdp : Nat
  qrdat : Nat
  qrscl : Nat
  qrsp : Nat
  qcdp : Nat
  qcdat : Nat
  qcscl : Nat
  qcsp : Nat
  qamax : Nat
  done : Nat
  deriving DecidableEq, Repr

def QuantBlock.ofBytes (bs : List Byte) : QuantBlock :=
  let f := blockField bs
  let c := f 0 8
  let bit := fun i => bitsOf c i i == 1
  { qsp := bitsOf c 55 52, qdsp := bitsOf c 51 48, useext := bit 47, fold := bit 46, rowon := bit 45, colon := bit 44,
    elem := bitsOf c 43 39, scl := bitsOf c 38 34, styp := bitsOf c 33 32, nr := bitsOf c 31 16, nc := bitsOf c 15 0,
    qsrc := f 8 8, qspitch := f 16 4, qrdp := f 20 4, qrdat := f 24 8, qrscl := f 32 8, qrsp := f 40 4, qcdp := f 44 4,
    qcdat := f 48 8, qcscl := f 56 8, qcsp := f 64 4, qamax := f 72 8, done := f 80 8 }

/-- Bytes of a source element. -/
def QuantBlock.w (q : QuantBlock) : Nat := if q.styp = 0 then 4 else 2

/-- A 64-bit address sum. -/
def at64 (base x : Nat) : Nat := (base + x) % 2 ^ 64

/-- Address of a source element. -/
def QuantBlock.srcAt (q : QuantBlock) (r c : Nat) : Nat := at64 q.qsrc (r * q.qspitch + c * q.w)

/-- The source elements' addresses. -/
def QuantBlock.srcs (q : QuantBlock) : List Nat :=
  (List.range q.nr).flatMap fun r => (List.range q.nc).map fun c => q.srcAt r c

/-- The source rows as ranges of bytes (R35). -/
def QuantBlock.srcRows (q : QuantBlock) : List (Nat × Nat) := (List.range q.nr).map fun r => (q.srcAt r 0, q.nc * q.w)

/-- The amax word is accessed. -/
def QuantBlock.usesAmax (q : QuantBlock) : Bool := q.useext || q.fold

/-- One of the two copies: its number of rows, the elements of a row, and its bases and pitches (R207). -/
structure QuantCopy where
  rows : Nat
  len : Nat
  dat : Nat
  dp : Nat
  scl : Nat
  sp : Nat
  /-- The column-blocked copy: row and column change places. -/
  col : Bool
  deriving DecidableEq, Repr

/-- The copies that a block asks for. -/
def QuantBlock.copies (q : QuantBlock) : List QuantCopy :=
  (if q.rowon then [{ rows := q.nr, len := q.nc, dat := q.qrdat, dp := q.qrdp, scl := q.qrscl, sp := q.qrsp, col := false }]
    else [])
  ++ (if q.colon then [{ rows := q.nc, len := q.nr, dat := q.qcdat, dp := q.qcdp, scl := q.qcscl, sp := q.qcsp, col := true }]
    else [])

/-- Blocks of a row. -/
def QuantCopy.blocks (k : QuantCopy) : Nat := (k.len + 23) / 24

/-- Bytes of 24 elements of a format. -/
def blockBytes (elem : Nat) : Nat := if elem = 13 then 12 else 24

/-- The addresses of a copy's bytes. -/
def QuantCopy.dsts (k : QuantCopy) (elem : Nat) : List Nat :=
  (List.range k.rows).flatMap fun r =>
    ((List.range (k.blocks * blockBytes elem)).map fun j => at64 k.dat (r * k.dp + j))
      ++ (List.range k.blocks).map fun j => at64 k.scl (r * k.sp + j)

/-- A copy's rows as ranges of bytes (R35): data, then scales. -/
def QuantCopy.dstRows (k : QuantCopy) (elem : Nat) : List (Nat × Nat) :=
  (List.range k.rows).flatMap fun r =>
    [(at64 k.dat (r * k.dp), k.blocks * blockBytes elem), (at64 k.scl (r * k.sp), k.blocks)]

/-- The cause of ENG_FAULT that a QUANT2 block's fields raise (R206, R189). -/
def quantCause? (bs : List Byte) : Option Nat :=
  let f := blockField bs
  let q := QuantBlock.ofBytes bs
  let dim := fun n => decide (1 ≤ n ∧ n ≤ 6144)
  if bitsOf (f 0 8) 63 56 ≠ 0 ∨ 1 < q.qsp ∨ 1 < q.qdsp ∨ (!q.rowon && !q.colon) ∨ !(q.elem == 11 || q.elem == 12 || q.elem == 13)
      ∨ !(q.scl == 15 || q.scl == 16) ∨ 1 < q.styp ∨ !(dim q.nr) ∨ !(dim q.nc) ∨ f 68 4 ≠ 0 ∨ f 92 36 ≠ 0 ∨ !(doneOk q.done)
      ∨ (q.usesAmax ∧ q.qamax % 4 ≠ 0) ∨ q.qsrc % q.w ≠ 0 ∨ (1 < q.nr ∧ q.qspitch % q.w ≠ 0) then some 1
  else none

/-- What acceptance yields: frames of the source and of both copies, the amax word, the block. -/
structure QuantSides where
  src : SMap Nat
  dst : SMap Nat
  amaxPa : Nat
  blkPa : Nat

/-- Every translation of a QUANT2 (R200, R206): bmi pages of a global destination are written in the hidden copy. -/
def State.quantSides (s : State) (w : Wave) (blk : Nat) (q : QuantBlock) : Except (TrapCode × Nat) QuantSides := do
  let src ← s.engineSide w q.qsp (fun _ => false) .r q.srcs q.srcRows
  let dst ← s.engineSide w q.qdsp (fun a => (s.bmiEntry? w a).isSome) .w (q.copies.flatMap (·.dsts q.elem)) (q.copies.flatMap (·.dstRows q.elem))
  let one := fun (acc : Rights) (a : Nat) => match s.placeEngine w false acc a with
    | .ok pa => (.ok pa : Except (TrapCode × Nat) Nat)
    | .error c => .error (c, a)
  let amax ← if q.usesAmax then one (if q.fold then .rw else .r) q.qamax else .ok 0
  let b ← one .w blk
  match s.doneFault? w.gang q.done with
  | some e => .error e
  | none => return { src := src, dst := dst, amaxPa := amax, blkPa := b }

/-! ## Encoding (R207) -/

/-- The element format. -/
def quantFmt (elem : Nat) : FloatFmt := if elem = 11 then .fp8e4 else if elem = 12 then .fp8e5 else .fp4
/-- The scale type. -/
def quantScale (scl : Nat) : ElemType := if scl = 15 then .e8m0 else .ue5m3

/-- The greater of two magnitudes; NaN prevails (R207). -/
def amaxJoin (a b : Exact) : Exact := if a.isNaN || b.isNaN then .nan else if a.lt b then b else a

/-- A ≤ F · value(c). -/
def covers (f : FloatFmt) (t : ElemType) (a : Exact) (c : Nat) : Bool :=
  !(((f.maxFinite false).mul (decodeScale t c)).lt a)

/-- The scale code of a block with amax A (R207). -/
def scaleCode (f : FloatFmt) (t : ElemType) (a : Exact) : Nat :=
  if a.isNaN then 255 else ((List.range 255).find? (covers f t a)).getD 254

/-- The code of an element under a scale code, and whether it is counted as saturated (R207). -/
def quantElem (f : FloatFmt) (t : ElemType) (rm : Rounding) (code : Nat) (x : Exact) : Nat × Bool :=
  if code = 255 then (f.nanCode, false)
  else
    let σ := decodeScale t code
    let ovf := match x with
      | .nan => false
      | .inf _ => true
      | x => ((f.maxFinite false).mul σ).lt x.abs
    if x.isNaN then (f.nanCode, false)
    else if σ.isZero then (f.sign x.neg 0, ovf)
    else (f.round rm (f.sat (x.div σ)), ovf)

/-- One block: its scale code, its element codes (padding +0 at the end), and its count. -/
def quantBlock (f : FloatFmt) (t : ElemType) (rm : Rounding) (ext : Option Exact) (xs : List Exact) : Nat × List Nat × Nat :=
  let a := ext.getD (xs.foldl (fun m x => amaxJoin m x.abs) (.zero false))
  let code := scaleCode f t a
  let es := xs.map (quantElem f t rm code)
  (code, es.map (·.1) ++ List.replicate (24 - xs.length) 0, (es.filter (·.2)).length)

/-- The bytes of 24 element codes (R69). -/
def packCodes (elem : Nat) (l : List Nat) : List Byte :=
  if elem = 13 then (List.range 12).map fun j => BitVec.ofNat 8 (l.getD (2 * j) 0 + 16 * l.getD (2 * j + 1) 0)
  else l.map (BitVec.ofNat 8)

/-- One copy: its bytes by address, and its count. A block with an element that cannot be read is not written (R189). -/
def QuantCopy.encode (k : QuantCopy) (q : QuantBlock) (rm : Rounding) (ext : Option Exact)
    (tile : Nat → Nat → Option Exact) :
    List (Nat × Byte) × Nat :=
  let f := quantFmt q.elem
  let t := quantScale q.scl
  let all := (List.range k.rows).flatMap fun r => (List.range k.blocks).map fun j =>
    let xs := ((List.range 24).map (24 * j + ·)).filter (· < k.len)
    match xs.mapM fun i => if k.col then tile i r else tile r i with
    | none => ([], 0)
    | some ys =>
      let (code, es, n) := quantBlock f t rm ext ys
      let data := (packCodes q.elem es).zipIdx.map fun (x : Byte × Nat) =>
        (at64 k.dat (r * k.dp + j * blockBytes q.elem + x.2), x.1)
      (data ++ [(at64 k.scl (r * k.sp + j), BitVec.ofNat 8 code)], n)
  (all.flatMap (·.1), all.foldl (fun n x => n + x.2) 0)

/-- The tile's amax with NaN ignored, as an fp32 word (R207). -/
def tileAmax (q : QuantBlock) (tile : Nat → Nat → Option Exact) : Word :=
  let l := ((List.range q.nr).flatMap fun r => (List.range q.nc).filterMap fun c => (tile r c).map Exact.abs).filter
    (fun x => !x.isNaN)
  toFp32 .rne (l.foldl amaxJoin (.zero false))

end Sys2Proof.Machine
end

