-- ==== Sys2Proof/Machine/Engine.lean ====
section
/-! DEFINITION. The copy engine as waves see it: COPY, COPYM and QUANT2 up to acceptance (R187, R189, R195, R199 to
R201), ENGWAIT, SLEEPUNTIL, PUBLISH (R202 to R205). -/

namespace Sys2Proof.Machine

/-! ## Checks -/

/-- Size and alignment of a block (R199). -/
def blockSize (k : CmdKind) : Nat := if k = .copy then 64 else 128

/-- What acceptance yields for a command. -/
structure EngSides where
  src : SMap Nat
  dst : SMap Nat
  amaxPa : Nat
  blkPa : Nat
  hidden : List (Bool × Nat × Nat)

/-- The fields of a block checked (R200): the cause of ENG_FAULT. -/
def State.engineCause? (s : State) (w : Wave) (p : Path) (kind : CmdKind) (blk : Nat) (bs : List Byte) : Option Nat :=
  match kind with
  | .copy => copyCause? bs w.system
  | .copym =>
    match copyCause? (bs.take 64) w.system with
    | some c => some c
    | none => if (s.mmaFault? w p blk (bs.drop 64)).isSome then some 0x0D else none
  | .quant2 => quantCause? bs

/-- Every translation of a command (R200). -/
def State.engineSides (s : State) (w : Wave) (kind : CmdKind) (blk : Nat) (bs : List Byte) :
    Except (TrapCode × Nat) EngSides :=
  match kind with
  | .quant2 =>
    let q := QuantBlock.ofBytes bs
    (s.quantSides w blk q).map fun x =>
      { src := x.src, dst := x.dst, amaxPa := x.amaxPa, blkPa := x.blkPa,
        hidden := s.hiddenOf w q.qdsp 1 true (q.copies.flatMap (·.dsts q.elem)) }
  | _ =>
    let b := CopyBlock.ofBytes bs
    (s.copySides w b).map fun (src, dst) =>
      { src := src, dst := dst, amaxPa := 0, blkPa := 0,
        hidden := (s.hiddenOf w b.dspace b.w b.shadow b.dsts ++ s.hiddenOf w 1 4 false b.deltas).eraseDups }

/-- The checks of a command (R189, R200): its fields, then its translations. -/
def State.checkCommand (s : State) (w : Wave) (p : Path) (kind : CmdKind) (blk : Nat) (bs : List Byte) :
    Except TrapInfo EngSides :=
  match s.engineCause? w p kind blk bs with
  | some c => .error (engInfo c blk 0)
  | none =>
    match s.engineSides w kind blk bs with
    | .error (c, a) => .error (TrapInfo.mem c p.mask a)
    | .ok x => .ok x

/-- The image of the pinned edition that a gather reads: the wave pins the map that the block names (R194). [DEDUCED, log 41, unsafe] -/
def gatherImage (w : Wave) (kind : CmdKind) (bs : List Byte) : Option Nat :=
  let b := CopyBlock.ofBytes bs
  if kind != .quant2 && b.gather then
    match w.pin with
    | some (va, pa, k) => if va = b.srca then some (pa + imageOff k.val) else none
    | none => none
  else none

/-! ## Acceptance -/

/-- The engine of a core is frozen (R339). -/
def State.engineFrozen (s : State) (c : Fin 256) : Bool := s.frozenMasters.any fun m => m.master == engineMaster c

/-- Commands that an engine has accepted and not landed (R187). -/
def Core.accepted (c : Core) : List EngCmd := c.engine.filter fun x => x.state != .issued

/-- The engine can accept a command: its release is complete, and an entry is free (R187, R200). -/
def State.canAccept (s : State) (core : Fin 256) (c : EngCmd) : Bool :=
  c.state == .issued && !c.det && !s.engineFrozen core && decide ((s.core core).accepted.length < 64)
    && (match c.release with | some r => !(s.releases.any (·.id == r)) | none => true)

/-- The groups of a COPYM's MMA. -/
def followGroups (kind : CmdKind) (bs : List Byte) : List (Fin 16) :=
  if kind = .copym then (MmaBlock.ofBytes (bs.drop 64)).groups else []

/-- The remap entries of a gang's workgroups. -/
def State.remapsOf (s : State) (gang : Nat) : List (Vector Word 8) := ((s.gang? gang).map fun g => g.wgs.map (·.remap)).getD []

/-- A command as it is accepted: its translations, its place in the order, and its promise (R187, R189, R195). -/
def EngCmd.asAccepted (c : EngCmd) (x : EngSides) (order promise : Nat) (remaps : List (Vector Word 8)) : EngCmd :=
  { c with state := .accepted, srcPages := x.src, dstPages := x.dst, amaxPa := x.amaxPa, blkPa := x.blkPa,
           hidden := x.hidden, order := order, promise := promise, remaps := remaps, release := none }

/-- A command is accepted: its promise is delivered and its path goes on, or the instruction traps (R189, R200). [DESIGN CHOICE, log 44, safe] -/
def State.acceptCommand (s : State) (core : Fin 256) (c : EngCmd) : State :=
  match (s.wave? c.req.wave).bind fun w => (w.paths.find? fun p => p.stage == .command c.id).map fun p => (w, p) with
  | none => s.dropCmd core c.id
  | some (w, p) =>
    match s.checkCommand w p c.kind c.blkVa c.blk with
    | .error info =>
      let s := (s.dropCmd core c.id).modPath w.id p.tag fun q => { q with stage := .none }
      s.trap (w.modPath p.tag fun q => { q with stage := .none }) p c.word info
    | .ok x =>
      let (k, s) := s.takeFree
      let (ord, s) := s.fresh
      let promise := s.tick + 1 + Config.promiseSlack k
      let s := s.claimGroups core w.asid (followGroups c.kind c.blk)
      let s := s.modCmd core c.id fun y => y.asAccepted x ord promise (s.remapsOf c.gang)
      let v := BitVec.ofNat 64 promise
      s.modWave w.id fun y =>
        (y.deliver p c.dst.isNone (match c.dst with | some r => .s r | none => .zero) false 0 [splat (lo32 v), splat (hi32 v)]).retire
          p.tag (p.pc + 4) 1

/-- COMMAND_ACCEPT (R200). -/
def execCommandAccept (core : Fin 256) (cmd : Nat) (s : State) : Result :=
  match s.cmd? core cmd with
  | some c => if s.canAccept core c then .next (s.acceptCommand core c) else notEnabled
  | none => notEnabled

/-! ## COPY, COPYM, QUANT2 -/

/-- A release that nothing is left to wait for needs no entry of its own. -/
def State.beginRelease (s : State) (w : Wave) (scope : Scope) : Option Nat × State :=
  if s.releaseReady w scope then (none, (s.releaseDeps w scope).2.2)
  else
    let (id, s) := s.startRelease w (s.requester w 0) scope .none
    (some id, s)

/-- The scalar register of a destination. -/
def scaReg (d : Operand) : Fin 64 := match d with | .s r => r | _ => 0

/-- A checked command as it is issued. -/
def State.newCommand (s : State) (w : Wave) (p : Path) (kind : CmdKind) (word : Word) (nw : Bool) (d : Operand)
    (blk : Nat) (bs : List Byte) (x : EngSides) (release : Option Nat) (id : Nat) : EngCmd :=
  { id := id, kind := kind, word := word, req := { s.requester w 0 with stamp := RaceTag.none }, gang := w.gang, wg := w.wg,
    system := w.system, blkVa := blk, blk := bs, round := p.mode.round, promise := 0, state := .issued,
    srcPages := x.src, dstPages := x.dst, amaxPa := x.amaxPa, blkPa := x.blkPa, image := gatherImage w kind bs,
    hidden := x.hidden, plan := none, det := w.isDet, order := 0, remaps := [], netOps := [], release := release,
    dst := if nw then none else some (scaReg d), pc := p.pc, early := [] }

/-- The virtual addresses that a command names (R205). -/
def cmdEas (kind : CmdKind) (bs : List Byte) : List Nat :=
  match kind with
  | .quant2 =>
    let q := QuantBlock.ofBytes bs
    (if q.qsp = 0 then q.srcs else []) ++ (if q.qdsp = 0 then q.copies.flatMap (·.dsts q.elem) else [])
  | _ =>
    let b := CopyBlock.ofBytes bs
    (if b.sspace = 0 && !b.gather then b.srcs else []) ++ (if b.dspace = 0 then b.dsts else [])

/-- The bytes of some ranges. -/
def rangeBytes (l : List (Nat × Nat)) : List Nat := l.flatMap fun x => (List.range x.2).map (x.1 + ·)

/-- The window offsets that a command names (R205), those of a follow-on MMA among them. -/
def cmdOffs (kind : CmdKind) (bs : List Byte) : List Nat :=
  match kind with
  | .quant2 =>
    let q := QuantBlock.ofBytes bs
    (if q.qsp = 1 then rangeBytes q.srcRows else []) ++ (if q.qdsp = 1 then rangeBytes (q.copies.flatMap (·.dstRows q.elem)) else [])
  | _ =>
    let b := CopyBlock.ofBytes bs
    (if b.sspace = 1 then rangeBytes b.srcRows else []) ++ (if b.dspace = 1 then rangeBytes b.dstRows else []) ++ b.deltas
      ++ (if kind = .copym then mmaOffs (bs.drop 64) else [])

/-- The body of the three (R200). In deterministic mode the command waits for step 5 of its period (R316). [DEDUCED, log 16, unsafe] -/
def engineBody (i : Instr) (kind : CmdKind) (nw : Bool) (d a b : Operand) (w : Wave) (p : Path) (s : State) : Result :=
  match p.stage with
  | .command _ => s.stall
  | _ =>
    let blk := blockEa w p a b
    match blockAddrFault? blk (blockSize kind) with
    | some c => .next (s.trap w p (wordOfInstr i) (TrapInfo.mem c p.mask blk))
    | none =>
      let s := s.settleHolds w.id
      if s.held w [.load] [blk] [] || s.held w [.engine] [] [] then s.stall
      else
        match s.blockSync w blk with
        | some s => s.stall
        | none =>
          let s := s.blockRead w blk
          match s.blockBytes w blk (blockSize kind) with
          | .error c => .next (s.trap w p (wordOfInstr i) (TrapInfo.mem c p.mask blk))
          | .ok bs =>
            match s.checkCommand w p kind blk bs with
            | .error info => .next (s.trap w p (wordOfInstr i) info)
            | .ok x =>
              if s.held w [.engine] (cmdEas kind bs) (cmdOffs kind bs) then s.stall
              else
              let (id, s) := s.fresh
              if w.isDet then
                let c := s.newCommand w p kind (wordOfInstr i) nw d blk bs x none id
                let s := s.claimGroups w.core w.asid (followGroups kind bs)
                let s := s.modCore w.core fun k => { k with engine := k.engine ++ [c] }
                .next (s.result w p nw d false [splat 0, splat 0])
              else
                let (r, s) := s.beginRelease w .dev
                let c := s.newCommand w p kind (wordOfInstr i) nw d blk bs x r id
                let s := s.modCore w.core fun k => { k with engine := k.engine ++ [c] }
                let s := s.modCurPath fun q => { q with stage := .command id, swDone := true }
                .next (if s.canAccept w.core c then s.acceptCommand w.core c else s)

/-- The card of the three (R199). -/
def engineCard (i : Instr) (kind : CmdKind) (nw : Bool) (d a b : Operand) (w : Wave) (_p : Path) : Card :=
  { pipeCard (onlyLaunched w) ((if nw then [] else [.group isSca 2 2 d]) ++ [baseField a, .src b]) [.src b]
      (engineBody i kind nw d a b) with race := true }

/-- COPY. -/
def execCopy (nw : Bool) (d a b : Operand) (s : State) : Result :=
  runCard (.copy nw d a b) (engineCard (.copy nw d a b) .copy nw d a b) s

/-- COPYM. -/
def execCopym (nw : Bool) (d a b : Operand) (s : State) : Result :=
  runCard (.copym nw d a b) (engineCard (.copym nw d a b) .copym nw d a b) s

/-- QUANT2. -/
def execQuant2 (nw : Bool) (d a b : Operand) (s : State) : Result :=
  runCard (.quant2 nw d a b) (engineCard (.quant2 nw d a b) .quant2 nw d a b) s

/-! ## ENGWAIT and SLEEPUNTIL -/

/-- The completion word of a done field is the barrier word at an offset of the window. [DEDUCED, log 40, unsafe] -/
def State.namesWord (s : State) (gang done o : Nat) : Bool :=
  let d := DoneField.ofNat done
  d.cbv && s.windowPlace? gang false d.cbw == s.windowPlace? gang false o

/-- An outstanding command of the wave, or an MMA of it in the array queue, names the word (R203). [DEDUCED, log 39, safe] -/
def State.engineBusy (s : State) (w : Wave) (o : Nat) : Bool :=
  ((s.core w.core).engine.any fun c => c.req.wave == w.id && s.namesWord w.gang c.done o)
    || (s.core w.core).arrayQ.any fun e => e.req.wave == w.id &&
      (match e.op with
        | .mma _ blk _ _ _ => s.namesWord w.gang (MmaBlock.ofBytes blk).done o
        | _ => false)

/-- The wake condition of ENGWAIT (R203). [DEDUCED, log 39, safe] -/
def State.engineIdle (s : State) (w : Wave) (o ph : Nat) : Bool :=
  barPhase (s.barWord w.gang o) != ph && !s.engineBusy w o

/-- ENGWAIT (R203). -/
def execEngwait (a b : Operand) (s : State) : Result :=
  runCard (.engwait a b) (fun w _ =>
    { pipeCard (onlyLaunched w) (uniFields [a, b]) (uniFields [a, b])
      (fun w p s =>
        let o := (srcUni w p a).toNat
        let ph := bitsOf (srcUni w p b).toNat 14 0
        let woken := p.stage == .woken
        if woken && !w.isDet then .next ((s.acquire w.core .dev).advance p 1)
        else if !woken && w.isDet then .next (s.block (.engine o ph))
        else
          match s.barWord? w o with
          | .error c => .next (s.trap w p (wordOfInstr (.engwait a b)) (TrapInfo.mem c p.mask o))
          | .ok _ =>
            if s.engineIdle w o ph || woken then .next ((s.acquire w.core .dev).advance p 1)
            else .next (s.block (.engine o ph))) with
      switch := true, blocking := true }) s

/-- The command with the lowest promise among the wave's outstanding ones promised by T (R202). -/
def State.missed? (s : State) (w : Wave) (t : Nat) : Option EngCmd :=
  ((s.core w.core).accepted.filter fun c => c.req.wave == w.id && decide (c.promise ≤ t)).foldl (fun best c => match best with
    | none => some c
    | some x => if c.promise < x.promise ∨ (c.promise = x.promise ∧ c.order < x.order) then some c else some x) none

/-- PROMISE_MISSED (R202, R324). -/
def missedInfo (c : EngCmd) : TrapInfo :=
  { TrapInfo.plain .promiseMissed with info := BitVec.ofNat 32 (DoneField.ofNat c.done).cbw, addr := BitVec.ofNat 64 c.blkVa,
                                       aux := BitVec.ofNat 64 c.promise }

/-- SLEEPUNTIL (R202). A deterministic wave waits for its commands (R317). -/
def execSleepuntil (a : Operand) (s : State) : Result :=
  runCard (.sleepuntil a) (fun w p =>
    { pipeCard (onlyLaunched w) [.group isSca 2 2 a] []
      (fun w p s =>
        let t := (scalar64 w a).toNat
        if w.isDet then .next (if p.stage = .woken then s.advance p 1 else s.block (.tick t))
        else if s.tick < t ∧ p.stage ≠ .woken then .next (s.block (.tick t))
        else
          match s.missed? w t with
          | some c => .next (s.trap w p (wordOfInstr (.sleepuntil a)) (missedInfo c))
          | none => .next (s.advance p 1)) with
      switch := true, blocking := true
      missed := if w.isDet || (decide (s.tick < (scalar64 w a).toNat) && p.stage != .woken) then none
        else (s.missed? w (scalar64 w a).toNat).map missedInfo }) s

/-! ## PUBLISH -/

/-- The entry that a selector names: a remap entry, its workgroup, its index (R204). -/
def State.pubEntry? (s : State) (w : Wave) (sel : Word) : Option (Bool × Nat × Nat) :=
  let n := sel.toNat
  if bitsOf n 30 10 ≠ 0 then none
  else if bitsOf n 31 31 = 0 then
    if (s.bmapEntry? (s.coreBytes w.core) w.asid (bitsOf n 9 0)).isSome then some (false, 0, bitsOf n 9 0) else none
  else
    match s.wg? w.gang (bitsOf n 4 3) with
    | some g =>
      match g.remap[bitsOf n 2 0]? with
      | some x => if bitsOf n 9 5 = 0 ∧ (Remap.ofWord x).en then some (true, bitsOf n 4 3, bitsOf n 2 0) else none
      | none => none
    | none => none

/-- How `hiddenFailed` names an entry. -/
def pubKey (w : Wave) (e : Bool × Nat × Nat) : Nat × Bool × Nat × Nat := (if e.1 then w.gang else w.asid.toNat, e.1, e.2.1, e.2.2)

/-- The command writes the hidden copy of the entry (R205). -/
def EngCmd.targets (c : EngCmd) (w : Wave) (e : Bool × Nat × Nat) : Bool :=
  c.req.asid == w.asid && (!e.1 || c.gang == w.gang) && c.hidden.contains e

/-- Accepted commands of the context whose destination lies in the entry's hidden copy (R205). -/
def State.hiddenCommands (s : State) (w : Wave) (e : Bool × Nat × Nat) : List (Fin 256 × Nat) :=
  (List.finRange 256).flatMap fun c => ((s.core c).accepted.filter fun x => x.targets w e).map fun x => (c, x.id)

/-- What has failed, and what outstanding commands write, belongs to a later PUBLISH no more (R204). -/
def State.clearHidden (s : State) (w : Wave) (e : Bool × Nat × Nat) : State :=
  let s := { s with hiddenFailed := s.hiddenFailed.filter fun k => k != pubKey w e }
  let g := fun (c : EngCmd) =>
    if c.targets w e && c.state != .issued then { c with hidden := c.hidden.filter fun x => x != e } else c
  { s with cores := s.cores.map fun (k : Core) => { k with engine := k.engine.map g } }

/-- TLB entries of some pages of an ASID dropped in every TLB. -/
def State.dropTlb (s : State) (f : TlbEntry → Bool) : State :=
  { s with cores := s.cores.map fun k => { k with tlb := k.tlb.filter fun e => !f e }
           clusterTlbs := (s.clusterTlbs.map fun (g, l) => (g, l.filter fun e => !f e)).filter fun x => !x.2.isEmpty }

/-- Lines of a physical range dropped, dirty bytes with them. -/
def Core.dropRange (c : Core) (base n : Nat) : Core :=
  let out := fun (l : Nat) => !decide (base / 128 ≤ l ∧ l < (base + n) / 128)
  { c with l1 := c.l1.filter fun l => out l.line, lent := c.lent.filter fun l => out l.line
           fifo := c.fifo.filter fun e => match e with | .line l => out l | .marker _ => true }

/-- Every L1 drops its lines of a physical range (R182). -/
def State.dropLines (s : State) (base n : Nat) : State := { s with cores := s.cores.map fun k => k.dropRange base n }

/-- The mapping flips at one instant (R182, R205). -/
def State.flip (s : State) (asid : BitVec 8) (gang : Nat) (e : Bool × Nat × Nat) : State :=
  if e.1 then
    s.modWg gang e.2.1 fun g =>
      { g with remap := g.remap.mapIdx fun i (x : Word) => if i = e.2.2 then x ^^^ 0x80000000#32 else x }
  else
    match s.bmapAddr? asid e.2.2, s.bmapEntry? s.homeBytes asid e.2.2 with
    | some a, some b =>
      match s.homeByte (a + 7) with
      | .ok x =>
        let s := s.unitWrite (a + 7) [x ^^^ 0x40#8] asid
        let s := s.dropTlb fun t => t.asid == asid && decide (b.vbase ≤ t.page ∧ t.page < b.vbase + b.plen)
        s.dropLines ((if b.cur then b.pa else b.pb) * 65536) (b.plen * 65536)
      | .error _ => s
    | _, _ => s

/-- PUBLISH (R204, R205): the wave goes on, and its later accesses that resolve through the entry wait. In step 4 of a period it takes effect at once (R312). [DESIGN CHOICE, log 22, safe; DEDUCED, log 48, safe] -/
def execPublish (a : Operand) (s : State) : Result :=
  runCard (.publish a) (fun w _ =>
    { pipeCard (onlyLaunched w) (uniFields [a]) (uniFields [a])
      (fun w p s =>
        let refuse := fun (s : State) =>
          let (k, s) := s.takeFree
          let info := { engInfo 0x0E 0 0 with addr := Config.freeDWord k }
          Host.Outcome.next (s.trap w p (wordOfInstr (.publish a)) info)
        match s.pubEntry? w (srcUni w p a) with
        | none => refuse s
        | some e =>
          if s.hiddenFailed.contains (pubKey w e) then refuse s
          else if w.isDet then .next (((s.clearHidden w e).flip w.asid w.gang e).advance p 1)
          else
            let cmds := s.hiddenCommands w e
            let (r, s) := s.startRelease w (s.requester w 0) .dev .none
            let (id, s) := s.fresh
            let x : Publish := { id := id, req := s.requester w 0, gang := w.gang, remap := e.1, wg := e.2.1, entry := e.2.2,
                                 release := r, commands := cmds }
            let s := { s.clearHidden w e with publishes := s.publishes ++ [x] }
            let h : Hold := { classes := [.load, .store, .scratch, .engine], through := some e, deps := [id], loads := [], commands := [], netOps := [], acquire := false }
            .next ((s.addHold w.id h).advance p 1)) with
      race := true, sync := true }) s

/-- Two PUBLISHes of one entry. -/
def Publish.same (x y : Publish) : Bool :=
  x.remap == y.remap && x.wg == y.wg && x.entry == y.entry && (if x.remap then x.gang == y.gang else x.req.asid == y.req.asid)

/-- The home of the entry that the instant writes holds its line back (R118, R133). -/
def State.pubBusy (s : State) (x : Publish) : Bool :=
  !x.remap && (match s.bmapAddr? x.req.asid x.entry with | some a => !s.serves (a / 128) | none => false)

/-- PUBLISH_INSTANT (R205). -/
def execPublishInstant (k : Nat) (s : State) : Result :=
  match s.publishes[k]? with
  | none => notEnabled
  | some x =>
    if (s.releases.any fun r => r.id == x.release) || (x.commands.any fun c => (s.cmd? c.1 c.2).isSome)
        || ((s.publishes.take k).any fun y => x.same y) || s.pubBusy x then notEnabled
    else
      let s := s.flip x.req.asid x.gang (x.remap, x.wg, x.entry)
      .next { s with publishes := s.publishes.eraseIdx k }

end Sys2Proof.Machine
end

