-- ==== Sys2Proof/Machine/Fabric.lean ====
section
/-! DEFINITION. The Kregal fabric (R390 to R404): routers, ports, watermarks, ordered delivery, remote accesses at this
device, stalls and gaps. -/

namespace Sys2Proof.Machine

/-! ## Ports -/

/-- Master id of a Kregal port (R340). -/
def portMaster (n : Nat) : DWord := BitVec.ofNat 64 (6 * 2 ^ 60 + n)

/-- A port carries flits: enabled, up, not frozen (R339, R390, R404). -/
def State.portUp (s : State) (n : Nat) : Bool :=
  s.regBit (Reg.klPort n) 0 && s.regBit (Reg.klPort n) 1 && !(s.frozenMasters.any fun m => m.master == portMaster n)

/-- Bytes of payload of a packet (R391): 4 a lane, the bytes of an engine's transfer. [DESIGN CHOICE, log 102, unsafe] -/
def payloadBytes : PacketKind → Nat
  | .put .. => 128
  | .get .. => 0
  | .send .. => 128
  | .engineWrite _ bs => bs.length
  | .engineRead .. => 0
  | .reply _ d => 4 * d.length
  | .engineData _ bs => bs.length
  | .ack _ => 0
  | .beacon => 0

/-- Flits of a packet (R391). [DESIGN CHOICE, log 102, unsafe] -/
def packetFlits (k : Packet) : Nat := 1 + (payloadBytes k.kind + 63) / 64

/-- The virtual channel of a packet (R391); beacons use none. -/
def packetChannel? (k : Packet) : Option (Fin 3) :=
  match k.kind with
  | .beacon => none
  | .reply .. | .engineData .. | .ack _ => some 1
  | _ => some (if k.ordered then 2 else 0)

/-- The credits of a port for a packet, as an index of `owed`. -/
def creditIndex (n : Nat) (c : Fin 3) : Nat := 3 * n + c.val

/-- The port has a credit for the packet (R391). [DESIGN CHOICE, log 126, unsafe] -/
def State.hasCredit (s : State) (n : Nat) (k : Packet) : Bool :=
  match packetChannel? k with
  | some c => decide (s.fabric.owed.toList.getD (creditIndex n c) 0 < Config.linkDepth + 1)
  | none => true

/-- KLPORT with its up bit and its count of replay failures (R404). -/
def State.setPort (s : State) (n : Fin 16) (up : Bool) (fails : Nat) : State :=
  let r := (s.reg (Reg.klPort n)).toNat
  s.setReg (Reg.klPort n) (BitVec.ofNat 64 (r % 2 + (if up then 2 else 0) + fails % 65536 * 65536))

/-- KLPORT_ENABLE: an enabled port comes up, a disabled one goes down (R390, R404). [DESIGN CHOICE, log 101, unsafe] -/
def execKlportEnable (n : Fin 16) (value : DWord) (s : State) : Result :=
  let on := value.getLsbD 0 && s.device.running
  let fails := s.regBits (Reg.klPort n) 31 16
  let s := s.setReg (Reg.klPort n) (if on then 1 else 0)
  .next ((s.setPort n on fails).modFabric fun f => { f with crcFails := f.crcFails.set n 0 })

/-- A flit has failed its CRC and is replayed; the sixteenth failed replay in a row takes the port down (R390). [DESIGN CHOICE, log 101, unsafe] -/
def State.flitFailed (s : State) (n : Fin 16) : State :=
  let c := s.fabric.crcFails[n] + 1
  let fails := s.regBits (Reg.klPort n) 31 16 + (if 2 ≤ c then 1 else 0)
  let down := decide (17 ≤ c)
  ((s.setPort n (!down) fails).modFabric fun f => { f with crcFails := f.crcFails.set n (if down then 0 else c) }).count
    (.port n) 0x42 1

/-! ## Order and watermarks -/

/-- The key of the total order (R396): the first packet goes before the second. -/
def keyBefore (a b : Packet) : Bool :=
  if a.stamp ≠ b.stamp then decide (a.stamp < b.stamp)
  else if a.src ≠ b.src then decide (a.src < b.src)
  else decide (a.seq < b.seq)

/-- The packet with the least key. -/
def leastKey {α : Type} (l : List (α × Packet)) : Option (α × Packet) :=
  l.foldl (fun best x => match best with
    | none => some x
    | some y => if keyBefore x.2 y.2 then some x else some y) none

/-- in(o) (R392). -/
def State.insOf (s : State) (o : Fin 17) : List (Fin 17) :=
  (List.finRange 17).filter fun i => s.regBit (Reg.klrMask o) i

/-- Ordered packets that an input has queued for an output, in arrival order (R398). -/
def State.queuedFor (s : State) (i o : Fin 17) : List Packet :=
  s.fabric.ordered[i].filter fun k => s.route? k.dst == some o

/-- eff(i, o) (R397). -/
def State.effOf (s : State) (i o : Fin 17) : Nat :=
  (s.queuedFor i o).foldl (fun m k => min m (k.stamp - 1)) (s.wmOf i)

/-- The ordered packet that an output may send, with its input (R398). -/
def State.sendable? (s : State) (o : Fin 17) : Option (Fin 17 × Packet) := do
  let ins := s.insOf o
  let x ← leastKey (ins.filterMap fun i => ((s.queuedFor i o).head?).map fun k => (i, k))
  if ins.all fun i => !(s.queuedFor i o).isEmpty || decide (x.2.stamp ≤ s.wmOf i) then return x else none

/-- W(o) as it stands now; relying on the local watermark raises F (R397). [DESIGN CHOICE, log 98, safe] -/
def State.advertise (s : State) (o : Fin 17) : Nat × State :=
  let ins := s.insOf o
  let s := if ins.contains 16 then s.raiseFloor else s
  match ins.map fun i => s.effOf i o with
  | [] => (s.fabric.wmOut[o], s)
  | x :: xs =>
    let w := max s.fabric.wmOut[o] (xs.foldl min x)
    (w, s.modFabric fun f => { f with wmOut := f.wmOut.set o w })

/-- A packet leaves on a port and takes a credit (R391, R397, R400). -/
def State.emit (s : State) (n : Fin 16) (k : Packet) : State :=
  let (w, s) := s.advertise ⟨n.val, by omega⟩
  (s.modFabric fun f =>
    { f with links := f.links ++ [(n.val, { k with wm := w })], lastSent := f.lastSent.set n f.podTime,
             owed := match packetChannel? k with
               | some c => f.owed.setIfInBounds (creditIndex n c) (f.owed.toList.getD (creditIndex n c) 0 + 1)
               | none => f.owed }).count (.port n) 0x40 (packetFlits k)

/-- BEACON (R400): a port that has sent nothing for 500 ns of pod time. -/
def execBeacon (port : Fin 16) (s : State) : Result :=
  if s.portUp port && decide (s.fabric.lastSent[port] + 500 * 65536 ≤ s.fabric.podTime) then
    .next ((s.emit port { Packet.request 0 0 0 .beacon with src := s.devId }).count (.port port) 0x43 1)
  else notEnabled

/-! ## Arrival and forwarding -/

/-- An answer to a request returns to its source (R391). -/
def State.answer (s : State) (k : Packet) (kind : PacketKind) : State :=
  s.inject (Packet.request k.src k.part k.ref kind)

/-- A watermark received on a port (R397, R404). -/
def State.receiveWm (s : State) (n : Fin 16) (w : Nat) : State :=
  let s := s.modFabric fun f => { f with lastWm := f.lastWm.set n w }
  if s.fabric.wmIn[n] < w then
    s.modFabric fun f =>
      { f with wmIn := f.wmIn.set n w, lastRise := f.lastRise.set n.val f.podTime (by omega) }
  else s

/-- A late ordered packet is discarded and refused (R402). [DESIGN CHOICE, log 104, unsafe] -/
def State.discardLate (s : State) (k : Packet) : State :=
  ((s.setReg Reg.klGapCnt (s.reg Reg.klGapCnt + 1)).modFabric fun f => { f with discarded := f.discarded + 1 }).answer k
    (.ack TrapCode.memFault.code.toNat)

/-- A push waits to be held beyond the 64 that may be (R407). -/
def heldLimit : Nat := 64
def State.pushesFull (s : State) : Bool :=
  decide (heldLimit ≤ (s.fabric.heldPushes.filter fun h => !h.ordered).length)
    && s.fabric.arrived.any fun x => match x.2.kind with | .send .. => true | _ => false

/-- Packets of a channel that came in by an input and have not left the device's buffers. -/
def State.occupancy (s : State) (i : Fin 17) (c : Fin 3) : Nat :=
  let of := fun (l : List (Fin 17 × Packet)) => (l.filter fun x => x.1 == i && packetChannel? x.2 == some c).length
  of s.fabric.unordered + of s.fabric.arrived + (if c = 2 then s.fabric.ordered[i].length else 0)

/-- The other end of the link holds a credit for the packet (R391): there is room for it, and on channel 0 no push waits beyond
those that may be held (R407). [DESIGN CHOICE, log 126, unsafe] -/
def State.grants (s : State) (i : Fin 17) (k : Packet) : Bool :=
  match packetChannel? k with
  | none => true
  | some c => decide (s.occupancy i c < Config.linkDepth + 1) && !(c == 0 && s.pushesFull)

/-- PACKET_ARRIVAL (R390, R392, R397, R402). [DESIGN CHOICE, log 3, safe] -/
def execPacketArrival (port : Fin 16) (pkt : Packet) (crcOk : Bool) (s : State) : Result :=
  if !s.portUp port || (crcOk && !s.grants ⟨port.val, by omega⟩ pkt) then notEnabled
  else if !crcOk then .next (s.flitFailed port)
  else
    let i : Fin 17 := ⟨port.val, by omega⟩
    let s := ((s.modFabric fun f => { f with crcFails := f.crcFails.set port 0 }).receiveWm port pkt.wm).count
      (.port port) 0x41 (packetFlits pkt)
    if pkt.ordered && !pkt.period then
      if pkt.stamp ≤ s.fabric.cut then .next (s.discardLate pkt)
      else .next (s.modFabric fun f => { f with ordered := f.ordered.set i (f.ordered[i] ++ [pkt]) })
    else if pkt.kind = .beacon && !pkt.period then .next s
    else .next (s.modFabric fun f => { f with unordered := f.unordered ++ [(i, pkt)] })

/-- The packets outside the pod-time order that an output may send; those of deterministic operation keep the order in
which their source sent them (R391, R411). [DESIGN CHOICE, log 107, unsafe] -/
def State.looseFor (s : State) (o : Fin 17) : List (Fin 17 × Packet) :=
  (s.fabric.unordered.zipIdx.filter fun (x, n) =>
    s.route? x.2.dst == some o &&
      (!x.2.period || !((s.fabric.unordered.take n).any fun y => y.2.period && y.2.src == x.2.src && y.2.dst == x.2.dst))).map
    (·.1)

/-- A packet outside the pod-time order reaches this device. -/
def State.localArrival (s : State) (i : Fin 17) (k : Packet) : State :=
  let answer := fun (s : State) => s.modFabric fun f =>
    { f with ops := f.ops.map fun o => if o.id = k.ref then { o with reply := some k.kind } else o }
  match k.kind with
  | .reply .. => answer s
  | .engineData .. => answer s
  | .ack _ => answer s
  | .beacon => s.modFabric fun f =>
      let key := 1024 * k.part.val + k.src % 1024
      { f with periodWm := SMap.set 0 f.periodWm key (max (SMap.get 0 f.periodWm key) (k.stamp + 1)) }
  | _ =>
    if k.ordered then s.modFabric fun f => { f with periodQ := f.periodQ ++ [k] }
    else s.modFabric fun f => { f with arrived := f.arrived ++ [(i, k)] }

/-- The ordered packet leaves its input's queue. -/
def State.takeOrdered (s : State) (i : Fin 17) (k : Packet) : State :=
  s.modFabric fun f => { f with ordered := f.ordered.set i (f.ordered[i].erase k) }

/-- PACKET_FORWARD: an output sends one of the packets that it may send (R391, R392, R398). [DESIGN CHOICE, log 57, safe; DEDUCED, log 99, safe] -/
def execPacketForward (output : Fin 17) (s : State) : Result :=
  let loose := s.looseFor output
  if h : output.val < 16 then
    if !s.portUp output then notEnabled
    else
      let all := (loose.map (fun x => (false, x)) ++ ((s.sendable? output).toList.map fun x => (true, x))).filter
        fun x => s.hasCredit output.val x.2.2
      let (n, s) := s.takeFree
      match all[Config.chooseIndex n % all.length]? with
      | none => notEnabled
      | some (true, (i, k)) =>
        .next ((if (s.insOf output).contains 16 then s.raiseFloor else s).takeOrdered i k |>.emit ⟨output.val, h⟩ k)
      | some (false, (i, k)) =>
        .next ((s.modFabric fun f => { f with unordered := f.unordered.erase (i, k) }).emit ⟨output.val, h⟩ k)
  else
    let (n, s) := s.takeFree
    match loose[Config.chooseIndex n % loose.length]? with
    | none => notEnabled
    | some (i, k) => .next ((s.modFabric fun f => { f with unordered := f.unordered.erase (i, k) }).localArrival i k)

/-! ## Accesses of other devices (R393, R406) -/

/-- The ASID of remote accesses of a partition (R393). -/
def State.remoteAsid? (s : State) (p : Fin 32) : Option (BitVec 8) :=
  let r := s.reg (Reg.klAsid p)
  if r.getLsbD 8 then some (r.setWidth 8) else none

/-- The tables that a unit walks are read at their homes (R115, R141). -/
def State.unitWalked (s : State) (asid : BitVec 8) (ea : Nat) : State :=
  s.readLines (s.walkLines s.homeBytes asid ea) asid 0

/-- The checks of an access by a unit that is not a wave (R88, R91, R107, R148, R417). -/
def State.placeUnit (s : State) (p : Fin 32) (asid : BitVec 8) (ea : Nat) (acc : Rights) : Except TrapCode Nat :=
  if 2 ^ 55 ≤ ea then .error .memFault
  else
    match s.walk asid ea with
    | .error e => .error e
    | .ok l =>
      let e := l.entry asid (ea / 65536)
      match (if !acc.within e.rd e.wr e.ex then .error .memProt else s.resolve s.homeBytes asid e ea false) with
      | .error e => .error e
      | .ok pa =>
        if acc.wr && inExpanded pa then .error .windowWrite
        else if s.crosses p pa then .error .boundary
        else if s.backed pa then .ok pa
        else .error .memFault

/-- Runs of consecutive bytes to be written, by address. -/
abbrev Runs := List (Nat × List Byte)

/-- The lanes of a put as writes: one of a whole line where it fills the line, else one a lane (R406). -/
def putRuns (pa : Nat) (mask : Mask) (data : List Word) : Runs :=
  let bytes := fun (i : Fin 32) => leBytes 4 ((data[i.val]?).getD 0).toNat
  if mask = 0xFFFFFFFF#32 ∧ pa % 128 = 0 then [(pa, (allLanes.flatMap bytes))]
  else (lanesIn mask).map fun i => (pa + 4 * i.val, bytes i)

/-- Writes of a remote access performed at their homes, and the code of the first that fails. [DESIGN CHOICE, log 33, unsafe] -/
def State.writeRuns (s : State) (asid : BitVec 8) (master : DWord) (l : Runs) : Nat × State :=
  l.foldl (fun (code, s) (pa, bs) =>
    match s.homeWrite pa bs asid master with
    | .ok s' => (code, s')
    | .error (.line e) => (if code = 0 then e.trap.code.toNat else code, s)
    | .error .wait => (code, if s.inBatch (pa / 128) then s else s.writePast pa bs master)) (0, s)

/-- Bytes cut at the boundaries of their lines. -/
def cutLines : Nat → Nat → List Byte → Runs
  | 0, _, _ => []
  | fuel + 1, pa, bs =>
    if bs.isEmpty then []
    else
      let n := 128 - pa % 128
      (pa, bs.take n) :: cutLines fuel (pa + n) (bs.drop n)

/-- What becomes of a request at this device. -/
inductive RemoteResult where
  /-- Performed or refused: the answer. -/
  | done (s : State) (answer : PacketKind)
  /-- A push that waits for room (R407). -/
  | held
  /-- Not now: a home holds a line back (R118, R133). -/
  | wait
  /-- It crosses a partition boundary (R417). -/
  | boundary

/-- The answer that refuses a request (R410). -/
def refusalOf (k : PacketKind) (n : Nat) : PacketKind :=
  match k with
  | .get .. => .reply n []
  | .engineRead .. => .engineData n []
  | _ => .ack n

/-- A request performed (R393, R406). [DESIGN CHOICE, log 103, safe; DESIGN CHOICE, log 104, unsafe] -/
def State.perform (s : State) (i : Fin 17) (k : Packet) : RemoteResult :=
  let refuse := fun (c : TrapCode) =>
    if c = .boundary then RemoteResult.boundary else RemoteResult.done s (refusalOf k.kind c.code.toNat)
  match s.remoteAsid? k.part with
  | none => refuse .memFault
  | some asid =>
    match k.kind with
    | .put va mask data =>
      match s.placeUnit k.part asid va .w with
      | .error c => refuse c
      | .ok pa =>
        let runs := putRuns pa mask data
        if !s.servesAll (runs.map (·.1 / 128)) then .wait
        else
          let (c, s) := (s.unitWalked asid va).writeRuns asid (portMaster i) runs
          .done s (.ack c)
    | .engineWrite va bs =>
      match s.placeUnit k.part asid va .w with
      | .error c => refuse c
      | .ok pa =>
        let runs := cutLines 4 pa bs
        if !s.servesAll (runs.map (·.1 / 128)) then .wait
        else
          let (c, s) := (s.unitWalked asid va).writeRuns asid (portMaster i) runs
          .done s (.ack c)
    | .get va mask =>
      match s.placeUnit k.part asid va .r with
      | .error c => refuse c
      | .ok pa =>
        if !s.servesRange pa 128 then .wait
        else
          let s := (s.unitWalked asid va).readLines (((lanesIn mask).map fun j => (pa + 4 * j.val) / 128)) asid (portMaster i)
          match (allLanes.mapM fun j => if inMask mask j then s.unitRead (pa + 4 * j.val) 4 else .ok 0) with
          | .ok ws => .done s (.reply 0 (ws.map (BitVec.ofNat 32)))
          | .error e => refuse e.trap
    | .engineRead va n =>
      match s.placeUnit k.part asid va .r with
      | .error c => refuse c
      | .ok pa =>
        if !s.servesRange pa n then .wait
        else
          let s := (s.unitWalked asid va).readLines (linesOf pa n) asid (portMaster i)
          match s.homeBytes pa n with
          | .ok bs => .done s (.engineData 0 bs)
          | .error e => refuse e.trap
    | .send q data =>
      if s.fabric.heldPushes.any fun h => h.part == k.part && h.queue == q then .held
      else
        match s.pushStage k.part q asid ((data.take 31) ++ [deliveryWord false k.ordered k.src]) with
        | .done s => .done s (.ack 0)
        | .full => .held
        | .bad c => refuse c
        | .wait => .wait
    | _ => .done s (.ack 0)

/-- A master whose access crosses a partition boundary is frozen: the port it came in by, or the wave of this device
that sent it (R339, R417). [DESIGN CHOICE, log 105, unsafe] -/
def State.freezeSender (s : State) (i : Fin 17) (k : Packet) : State :=
  if i.val < 16 then s.freezeMaster (portMaster i) 1 0
  else
    match (s.fabric.ops.find? fun o => o.id == k.ref).bind fun o => s.wave? o.wave with
    | some w => s.freezeWave w 1 0
    | none => s

/-- REMOTE_ACCESS: the k-th request that has arrived is applied (R393, R406, R407). -/
def execRemoteAccess (k : Nat) (s : State) : Result :=
  match s.fabric.arrived[k]? with
  | none => notEnabled
  | some (i, p) =>
    let drop := fun (s : State) => s.modFabric fun f => { f with arrived := f.arrived.eraseIdx k }
    match s.perform i p with
    | .done s a => .next ((drop s).answer p a)
    | .wait => notEnabled
    | .boundary => .next (((drop s).freezeSender i p).answer p (refusalOf p.kind TrapCode.memFault.code.toNat))
    | .held =>
      match p.kind with
      | .send q data =>
        if heldLimit ≤ (s.fabric.heldPushes.filter fun h => !h.ordered).length then notEnabled
        else
          let h : HeldPush := { part := p.part, queue := q, ordered := false, ack := some (p.src, p.ref),
                                record := (data.take 31) ++ [deliveryWord false false p.src] }
          .next ((drop s).modFabric fun f => { f with heldPushes := f.heldPushes ++ [h] })
      | _ => notEnabled

/-- HELD_PUSH: the k-th held push is performed, the first of its queue (R407). -/
def execHeldPush (k : Nat) (s : State) : Result :=
  match s.fabric.heldPushes[k]? with
  | none => notEnabled
  | some h =>
    if (s.fabric.heldPushes.take k).any fun x => x.part == h.part && x.queue == h.queue then notEnabled
    else
      let asid := (s.reg (Reg.klAsid h.part)).setWidth 8
      let drop := fun (s : State) => s.modFabric fun f => { f with heldPushes := f.heldPushes.eraseIdx k }
      let tell := fun (s : State) (c : Nat) => match h.ack with
        | some (dst, op) => s.inject (Packet.request dst h.part op (.ack c))
        | none => s
      match s.pushStage h.part h.queue asid h.record with
      | .done s => .next (tell (drop s) 0)
      | .bad c => .next (tell (drop s) c.code.toNat)
      | .full => notEnabled
      | .wait => notEnabled

/-! ## Ordered delivery (R399) -/

/-- An ordered packet applied at this device; none while its queue is full or a line is busy. [DESIGN CHOICE, log 103, safe] -/
def State.deliverOrdered (s : State) (i : Fin 17) (k : Packet) : Option State :=
  match s.perform i k with
  | .done s a => some (s.answer k a)
  | .boundary => some ((s.freezeSender i k).answer k (.ack TrapCode.memFault.code.toNat))
  | _ => none

/-- A held gap record keeps later ordered packets back. [DESIGN CHOICE, log 103, safe] -/
def State.orderedHeld (s : State) : Bool := s.fabric.heldPushes.any (·.ordered)

/-- The next ordered packet delivered, where it can be and its stamp is at most `top`: KLDLAST rises to its stamp (R399, R404). [DEDUCED, log 99, safe] -/
def State.deliverNext? (s : State) (top : Option Nat) : Option State :=
  if s.orderedHeld then none
  else
    match s.sendable? 16 with
    | none => none
    | some (i, k) =>
      if (match top with | some c => decide (c < k.stamp) | none => false) then none
      else match (s.takeOrdered i k).deliverOrdered i k with
      | none => none
      | some t =>
        let t := if (t.insOf 16).contains 16 then t.raiseFloor else t
        let last := (t.reg Reg.klDLast).toNat
        some (t.setReg Reg.klDLast (BitVec.ofNat 64 (max last k.stamp)))

/-! ## Replies (R406, R408, R410) -/

/-- The operation is over. -/
def State.dropOp (s : State) (id : Nat) : State :=
  s.modFabric fun f => { f with ops := f.ops.filter fun o => o.id != id }

/-- The trap code that a remote device reports. -/
def remoteCode (n : Nat) : TrapCode := if n = 0x09 then .memProt else if n = 0x0C then .eccUncorr else .memFault

/-- The words of an NGET, or its failure, at its wave. -/
def State.getReply (s : State) (o : NetOp) (d code : Nat) (ws : List Word) : State :=
  match s.wave? o.wave with
  | none => s
  | some w =>
    match w.inflight.find? fun x => x.id == d with
    | none => s
    | some f =>
      let f := (lanesIn f.due).foldl (fun (f : Inflight) i =>
        if code = 0 then f.arrive i (((ws[i.val]?).getD 0).setWidth 64)
        else f.fail i (TrapInfo.mem (remoteCode code) 0 (o.va + 4 * i.val))) f
      (s.acquire w.core .dev).modWave w.id fun x => x.settleInflight f

/-- NET_REPLY: a reply or acknowledgement reaches the wave's network unit. -/
def execNetReply (op : Nat) (s : State) : Result :=
  match s.fabric.ops.find? fun o => o.id == op with
  | none => notEnabled
  | some o =>
    if o.cmd.isSome then notEnabled
    else
      match o.reply, o.infl with
      | some (.reply code ws), some d => .next ((s.dropOp op).getReply o d code ws)
      | some (.ack 0), _ => .next (s.dropOp op)
      | some (.ack _), _ => .next ((s.dropOp op).report o.wave (engInfo 9 (if o.send then 0 else o.va) o.dst))
      | _, _ => notEnabled

/-! ## Stalls and gaps (R401 to R403) -/

/-- 50 µs of pod time. -/
def stallTime : Nat := 50000 * 65536

/-- An ordered packet waits for an output that the input feeds. [DEDUCED, log 100, safe] -/
def State.waitsOn (s : State) (i : Fin 17) : Bool :=
  (List.finRange 17).any fun o => (s.insOf o).contains i && (s.insOf o).any fun j => !(s.queuedFor j o).isEmpty

/-- WATERMARK_STALL (R401). [DEDUCED, log 100, safe] -/
def execWatermarkStall (input : Fin 17) (s : State) : Result :=
  let rising := input.val = 16 && decide (s.fabric.floor ≤ s.fabric.podTime)
  if !s.regBit Reg.klCtl 1 && s.waitsOn input && !rising
      && decide (s.fabric.lastRise[input] + stallTime ≤ s.fabric.podTime) then
    let r := (s.reg Reg.klCtl).toNat % 2
    .next ((s.setReg Reg.klCtl (BitVec.ofNat 64 (r + 2 + 4 * input.val))).interrupt (.watermarkStall input))
  else notEnabled

/-- One queued ordered packet with a stamp up to the cut goes on, the least key first (R402). -/
def State.flushOne? (s : State) (cut : Nat) : Option State :=
  let ready := (List.finRange 17).filterMap fun o =>
    match s.sendable? o with
    | some (i, k) => if k.stamp ≤ cut ∧ (o.val = 16 ∨ (s.portUp o ∧ s.hasCredit o k)) then some ((o, i), k) else none
    | none => none
  match leastKey ready with
  | none => none
  | some ((o, i), k) =>
    if h : o.val < 16 then some ((s.takeOrdered i k).emit ⟨o.val, h⟩ k) else s.deliverNext? (some cut)

/-- Queued packets up to the cut, in key order; `n` bounds them. -/
def State.flush (s : State) (cut : Nat) : Nat → State
  | 0 => s
  | n + 1 => match s.flushOne? cut with
    | some t => State.flush t cut n
    | none => s

/-- A gap record (R403). -/
def gapRecord (cut discarded input src : Nat) : List Word :=
  [BitVec.ofNat 32 cut, BitVec.ofNat 32 (cut / 2 ^ 32), BitVec.ofNat 32 discarded, BitVec.ofNat 32 input]
    ++ List.replicate 27 0 ++ [deliveryWord true true src]

/-- The gap record pushed into every valid stage queue; where a queue is full it waits (R402, R407). [DESIGN CHOICE, log 103, safe] -/
def State.pushGaps (s : State) (r : List Word) : State :=
  (List.finRange 32).foldl (fun (s : State) (p : Fin 32) =>
    if s.regBit (Reg.sqBase p) 0 then
      (List.range 4096).foldl (fun s q =>
        match s.stageQueue? p q with
        | none => s
        | some _ =>
          match s.pushStage p q ((s.reg (Reg.klAsid p)).setWidth 8) r with
          | .done t => t
          | _ =>
            let h : HeldPush := { part := p, queue := q, record := r, ordered := true, ack := none }
            s.modFabric fun f => { f with heldPushes := f.heldPushes ++ [h] }) s
    else s) s

/-- An ordered packet with a stamp up to the cut still waits to be delivered at this device. -/
def State.owesDelivery (s : State) (cut : Nat) : Bool :=
  (List.finRange 17).any fun i => (s.queuedFor i 16).any fun k => decide (k.stamp ≤ cut)

/-- A resume ends once every packet up to its cut has been delivered: the gap records are pushed, and delivery goes on above the
cut (R402). -/
def State.endResume (s : State) : State :=
  match s.fabric.resume with
  | none => s
  | some (c, input) =>
    if s.owesDelivery c then s
    else
      let s := s.pushGaps (gapRecord c s.fabric.discarded input s.devId)
      (s.setReg Reg.klCtl (s.reg Reg.klCtl &&& 1)).modFabric fun f => { f with discarded := 0, resume := none }

/-- ORDERED_DELIVERY (R399): none while the device is stalled (R401), but for the packets up to the cut of a resume (R402). -/
def execOrderedDelivery (s : State) : Result :=
  match s.fabric.resume with
  | some (c, _) =>
    match s.deliverNext? (some c) with
    | some t => .next t.endResume
    | none => notEnabled
  | none =>
    if s.regBit Reg.klCtl 1 then notEnabled
    else
      match s.deliverNext? none with
      | some t => .next t
      | none => notEnabled

/-- KLRESUME (R402): the queued packets up to the cut go on at once as far as they can, the others as their queues and links
let them. -/
def execKlresume (cut : DWord) (s : State) : Result :=
  let c := max s.fabric.cut cut.toNat
  let input := match s.fabric.resume with
    | some (_, i) => i
    | none => if s.regBit Reg.klCtl 1 then s.regBits Reg.klCtl 6 2 else 0x1F
  let s := s.modFabric fun f => { f with floor := max f.floor c, wmIn := f.wmIn.map fun w => max w c, cut := c,
                                         resume := some (c, input)
                                         lastRise := Vector.ofFn fun i =>
                                           if s.wmOf i < c then f.podTime else f.lastRise[i] }
  let n := (List.finRange 17).foldl (fun n i => n + s.fabric.ordered[i].length) 0
  .next (s.flush c n).endResume

/-! ## Pod time (R394, R395) -/

/-- PODSET: dropped while the ordered class is on (R395). [DESIGN CHOICE, log 106, safe] -/
def execPodset (value : DWord) (s : State) : Result :=
  if s.regBit Reg.klCtl 0 then .next s
  else .next (s.modFabric fun f => { f with podTime := value.toNat, podFrac := 0 })

/-- PTP_EVENT_MESSAGE: timestamped in pod-time units at the port's PCS (R394). -/
def execPtpEventMessage (port : Fin 16) (correction : Int) (s : State) : Result :=
  if s.portUp port then
    .next (s.modFabric fun f => { f with eventStamp := f.eventStamp.set port f.podTime, correction := correction })
  else notEnabled

end Sys2Proof.Machine
end

