-- ==== Sys2Proof/Machine/EngRun.lean ====
section
/-! DEFINITION. What accepted copy-engine commands do (R187, R188, R189, R191 to R194, R201, R207): the bytes they read and
write, their remote and archive transfers, landing and failing. -/

namespace Sys2Proof.Machine

/-! ## Reading -/

/-- Where a window offset stands for a command: through the remap entries as they were at acceptance (R160, R205). [DEDUCED, log 38, unsafe] -/
def State.enginePlace? (s : State) (c : EngCmd) (hidden : Bool) (o : Nat) : Option (Fin 256 × Nat) := do
  let g ← s.gang? c.gang
  let k ← g.wgs.findIdx? fun x => x.core.val % 4 == o / 2 ^ 20 % 4
  let x ← g.wgs[k]?
  let y := { x with remap := c.remaps[k]?.getD x.remap }
  return (x.core, x.base + y.remapped hidden (o % 2 ^ 20))

/-- One byte of the accumulator store: 8 bytes a pair, position 8 · (256 · row + column) (R192). -/
def Core.accByte (k : Core) (a : Nat) : Byte :=
  ((SMap.get 0 k.acc (128 * (a / 2048) + a / 8 % 128)).toNat >>> (8 * (a % 8))).toUInt8.toBitVec

/-- What a command has been sent from another device: the byte at an address of its remote side. -/
def State.remoteByte? (s : State) (c : EngCmd) (a : Nat) : Option Byte :=
  s.fabric.ops.findSome? fun o =>
    if o.cmd = some c.id ∧ o.va ≤ a then
      match o.reply with
      | some (.engineData 0 bs) => bs[a - o.va]?
      | _ => none
    else none

/-- One source byte of a command: its space, its address, its place in the order of the elements. -/
def State.engineByte (s : State) (core : Fin 256) (c : EngCmd) (sp : Nat) (arch : List Byte) (a n : Nat) : Except Nat Byte :=
  match sp with
  | 0 =>
    match s.homeByte (SMap.get 0 c.srcPages (a / 65536) * 65536 + a % 65536) with
    | .ok b => .ok b
    | .error e => .error (lineCause e)
  | 1 =>
    match s.enginePlace? c false a with
    | some (k, q) => .ok ((s.core k).scratch.read q)
    | none => .ok 0
  | 2 => if s.lostIn core .stacks a 1 then .error 0x0C else .ok ((s.core core).stackMem.read a)
  | 3 => .ok ((s.core core).accByte a)
  | 4 => .ok (arch.getD n 0)
  | _ =>
    match s.remoteByte? c a with
    | some b => .ok b
    | none => .error 9

/-- The space that a code names; global where it names none. -/
def spaceCode (n : Nat) : EngSpace := (spaceOf? n).getD .global

/-- The place of a destination byte: physical in a global side, else as it stands. -/
def EngCmd.dstAddr (c : EngCmd) (sp : Nat) (a : Nat) : Nat :=
  if sp = 0 then SMap.get 0 c.dstPages (a / 65536) * 65536 + a % 65536 else a

/-! ## Plans -/

/-- The empty plan. -/
def EngPlan.empty : EngPlan := { writes := [], causes := [], fold := none, crosses := false, status := 0 }

/-- A byte written, or the cause for which it is not. [DESIGN CHOICE, log 45, safe] -/
def EngPlan.put (p : EngPlan) (sp : EngSpace) (a : Nat) (r : Except Nat Byte) : EngPlan :=
  match r with
  | .ok b => { p with writes := p.writes ++ [{ space := sp, addr := a, byte := b }] }
  | .error e => if p.causes.contains e then p else { p with causes := p.causes ++ [e] }

/-- Translation of a gather's rows as its command runs (R189, R194). -/
def State.gatherTr (s : State) (core : Fin 256) (c : EngCmd) (ea : Nat) : Except TrapCode Nat :=
  match s.translateAs core c.req.asid (!c.system) false ea .r with
  | .error e => .error e
  | .ok pa => if s.crosses c.req.part pa then .error .boundary else .ok pa

/-- The row of every position of a gather: its address and its entry's base, or its cause (R194). [DEDUCED, log 114, safe] -/
def State.gatherRows (s : State) (core : Fin 256) (c : EngCmd) (b : CopyBlock) : List (Except Nat (Nat × Nat)) :=
  match c.image with
  | none => List.replicate b.e1 (.error 7)
  | some pa =>
    match s.homeBytes pa 1024 with
    | .error e => List.replicate b.e1 (.error (lineCause e))
    | .ok bs =>
      let img := MapImage.ofBytes bs
      let u := fun (off : Nat) => blockField c.blk off 4
      (List.range b.e1).map fun i => s.gatherRow (s.gatherTr core c) img (u 32) (u 36) (u 40 + i)

/-- The lines that a gather reads: the image, what its patches list, and its rows. -/
def State.gatherLines (s : State) (core : Fin 256) (c : EngCmd) (b : CopyBlock) : List Nat :=
  let tr := s.gatherTr core c
  match c.image with
  | none => []
  | some pa =>
    let patches := match s.homeBytes pa 1024 with
      | .error _ => []
      | .ok bs => ((MapImage.ofBytes bs).entries.filter fun e => e.patch != 0).flatMap fun e => s.listedLines tr e.patch
    linesOf pa 1024 ++ patches ++ (s.gatherRows core c b).flatMap fun r => match r with
      | .ok (va, _) => virtLines tr va (b.e0 * b.w)
      | .error _ => []

/-- One byte of a gathered row. [DEDUCED, log 42, unsafe] -/
def State.gatherByte (s : State) (core : Fin 256) (c : EngCmd) (row : Except Nat (Nat × Nat)) (k : Nat) : Except Nat Byte :=
  match row with
  | .error e => .error e
  | .ok (va, _) => (s.virtBytes (s.gatherTr core c) 8 1 ((va + k) % 2 ^ 64)).map fun l => l.headD 0

/-- A row of the gather lies in another partition's page. -/
def State.gatherCrosses (s : State) (core : Fin 256) (c : EngCmd) (b : CopyBlock) (rows : List (Except Nat (Nat × Nat))) : Bool :=
  rows.any fun r => match r with
    | .ok (va, _) => (List.range b.e0).any fun k =>
        match s.gatherTr core c ((va + k * b.w) % 2 ^ 64) with | .error .boundary => true | _ => false
    | .error _ => false

/-- What a COPY writes as its sources stand (R191, R194). [DEDUCED, log 38, unsafe] -/
def State.copyPlan (s : State) (core : Fin 256) (c : EngCmd) (arch : List Byte) : EngPlan :=
  let b := CopyBlock.ofBytes c.blk
  let rows := if b.gather then s.gatherRows core c b else []
  let sp := spaceCode b.dspace
  let trim := fun (m : Move) (x : Except Nat Byte) => if m.half then x.map (· &&& 0x0F#8) else x
  let plan := (b.moves.zipIdx).foldl (fun (p : EngPlan) (m, n) =>
    (List.range b.w).foldl (fun (p : EngPlan) k =>
      let x : Except Nat Byte := match m.src with
        | none => .ok 0
        | some a =>
          if b.gather then s.gatherByte core c (rows.getD m.row (.error 7)) (m.col * b.w + k)
          else s.engineByte core c b.sspace arch (a + k) (n * b.w + k)
      p.put sp (c.dstAddr b.dspace (m.dst + k)) (trim m x)) p) EngPlan.empty
  let plan := (b.deltas.zip rows).foldl (fun (p : EngPlan) (o, r) =>
    match r with
    | .ok (_, base) => ((leBytes 4 base).zipIdx o).foldl (fun (p : EngPlan) (x, a) => p.put .scratch a (.ok x)) p
    | .error e => p.put .scratch 0 (.error e)) plan
  { plan with crosses := s.gatherCrosses core c b rows }

/-- What a QUANT2 writes as its sources stand (R207); the count is written into the block. -/
def State.quantPlan (s : State) (core : Fin 256) (c : EngCmd) : EngPlan :=
  let q := QuantBlock.ofBytes c.blk
  let src := fun (r k : Nat) => (List.range q.w).mapM fun j => s.engineByte core c q.qsp [] (at64 (q.srcAt r k) j) 0
  let tile := fun (r k : Nat) => match src r k with
    | .ok bs => some (if q.styp = 0 then ofFp32 (BitVec.ofNat 32 (leNat bs)) else ofFp32 (BitVec.ofNat 32 (leNat bs * 65536)))
    | .error _ => none
  let amax := if q.usesAmax then (s.unitRead c.amaxPa 4).map fun x => ofFp32 (BitVec.ofNat 32 x) else .ok (.zero false)
  let bad := (List.range q.nr).flatMap fun r => (List.range q.nc).filterMap fun k =>
    match src r k with | .error e => some e | .ok _ => none
  let p : EngPlan := { EngPlan.empty with causes := bad.eraseDups }
  match amax with
  | .error e => p.put .global 0 (.error (lineCause e))
  | .ok x =>
    let outs := q.copies.map fun k => k.encode q c.round (if q.useext then some x else none) tile
    let n := outs.foldl (fun n o => n + o.2) 0
    let sp := spaceCode q.qdsp
    let ws := outs.flatMap fun o => o.1.map fun (a, b) => ({ space := sp, addr := c.dstAddr q.qdsp a, byte := b } : EngWrite)
    let sat := (leBytes 4 n).zipIdx.map fun (b, k) => ({ space := .global, addr := c.blkPa + 88 + k, byte := b } : EngWrite)
    { p with writes := ws ++ sat, fold := if q.fold then some (tileAmax q tile) else none }

/-- What a command writes as its sources stand. -/
def State.planOf (s : State) (core : Fin 256) (c : EngCmd) (arch : List Byte) : EngPlan :=
  match c.kind with
  | .quant2 => s.quantPlan core c
  | _ => s.copyPlan core c arch

/-- The lines that a command reads at their homes (R141, R187). -/
def State.readsOf (s : State) (core : Fin 256) (c : EngCmd) : List Nat :=
  let src := fun (l : List Nat) => l.map fun a => (SMap.get 0 c.srcPages (a / 65536) * 65536 + a % 65536) / 128
  match c.kind with
  | .quant2 =>
    let q := QuantBlock.ofBytes c.blk
    ((if q.qsp = 0 then src q.srcs else []) ++ (if q.usesAmax then [c.amaxPa / 128] else [])).eraseDups
  | _ =>
    let b := CopyBlock.ofBytes c.blk
    (if b.gather then s.gatherLines core c b else if b.sspace = 0 then src b.srcs else []).eraseDups

/-- The lines that a plan writes at their homes. -/
def EngPlan.lines (p : EngPlan) (c : EngCmd) : List Nat :=
  ((p.writes.filterMap fun (w : EngWrite) => if w.space = .global then some (w.addr / 128) else none)
    ++ (if p.fold.isSome then [c.amaxPa / 128] else [])).eraseDups

/-! ## Writing -/

/-- Bytes by address, where two of one address are settled freely (R191). -/
def State.settleBytes (s : State) (l : List (Nat × Byte)) : SMap Byte × State :=
  l.foldl (fun (m, s) (a, b) =>
    match SMap.at? m a with
    | none => (SMap.insert m a b, s)
    | some x =>
      if x = b then (m, s)
      else
        let (k, s) := s.takeFree
        (if Config.chooseByte k then SMap.insert m a b else m, s)) ([], s)

/-- Consecutive bytes joined. -/
def runsOf (m : SMap Byte) : Runs :=
  (m.foldl (fun (acc : Runs) (a, b) => match acc with
    | (base, bs) :: rest => if base + bs.length = a then (base, bs ++ [b]) :: rest else (a, [b]) :: acc
    | [] => [(a, [b])]) []).reverse

/-- The bytes of a plan in one space. -/
def EngPlan.inSpace (p : EngPlan) (sp : EngSpace) : List (Nat × Byte) :=
  p.writes.filterMap fun w => if w.space = sp then some (w.addr, w.byte) else none

/-- One byte of the accumulator store replaced. -/
def Core.setAccByte (k : Core) (a : Nat) (b : Byte) : Core :=
  let key := 128 * (a / 2048) + a / 8 % 128
  let x := SMap.get 0 k.acc key
  let sh := 8 * (a % 8)
  let y := (x &&& ~~~(0xFF#64 <<< sh)) ||| (b.setWidth 64 <<< sh)
  { k with acc := SMap.set 0 k.acc key y }

/-- Whole lines written back to their controllers past the homes, whose copies they replace (R110). -/
def State.writeLines (s : State) (master : DWord) : Nat → Nat → List Byte → State
  | 0, _, _ => s
  | n + 1, line, bs =>
    if bs.isEmpty then s
    else
      let w : LineWrite := { line := line, data := vecOf 128 (bs.take 128), master := master, held := false }
      State.writeLines ({ (s.dropL2 line) with lineWrites := s.lineWrites ++ [w] }.fireWatches line) master n (line + 1) (bs.drop 128)

/-- The writes of a plan performed (R187): at the homes, from an archive at the controllers as whole lines (R110), in the hidden or
plain halves of scratchpads, in the slices, in the accumulator store. The core's copies of the lines go (R141). [DESIGN CHOICE, log 33, unsafe]
 -/
def State.applyWrites (s : State) (core : Fin 256) (c : EngCmd) (p : EngPlan) : State :=
  let (g, s) := s.settleBytes (p.inSpace .global)
  let s := (runsOf g).foldl (fun (s : State) (pa, bs) =>
    let s := s.dropCopies core (linesOf pa bs.length)
    if c.kind != .quant2 && (CopyBlock.ofBytes c.blk).sspace == 4 && pa % 128 == 0 && bs.length % 128 == 0 then
      s.writeLines (engineMaster core) (bs.length / 128 + 1) (pa / 128) bs
    else s.homeWriteMany c.req.asid (engineMaster core) (bs.length / 128 + 2) pa bs) s
  let (w, s) := s.settleBytes (p.inSpace .scratch)
  let s := w.foldl (fun (s : State) (o, b) =>
    match s.enginePlace? c true o with
    | some (k, q) => (s.modCore k fun x => { x with scratch := x.scratch.write q b }).heal k .scratch q 1
    | none => s) s
  let (t, s) := s.settleBytes (p.inSpace .stacks)
  let s := t.foldl (fun s x => s.heal core .stacks x.1 1)
    (s.modCore core fun k => { k with stackMem := t.foldl (fun m x => m.write x.1 x.2) k.stackMem })
  let (a, s) := s.settleBytes (p.inSpace .acc)
  s.modCore core fun k => a.foldl (fun k x => k.setAccByte x.1 x.2) k

/-- The fold of an amax word at its home (R207). -/
def State.applyFold (s : State) (core : Fin 256) (c : EngCmd) (p : EngPlan) : State :=
  match p.fold with
  | none => s
  | some x =>
    let r : AtomicReq := { op := .max, type := .fp32, round := .rne, sat := false, pa := c.amaxPa, ea := 0, lane := 0,
                           val := x.setWidth 64, cmp := 0, infl := none }
    match s.atomicAt c.req RaceTag.none r (engineMaster core) with
    | .ok (_, s) => s
    | .error _ => s

/-- The bytes of a plan that the command has not written yet (R181). -/
def EngPlan.rest (p : EngPlan) (c : EngCmd) : EngPlan :=
  { p with writes := p.writes.filter fun w => !c.early.contains (w.space, w.addr) }

/-- A command that has failed has written some of its bytes (R189). -/
def State.someWrites (s : State) (p : EngPlan) : EngPlan × State :=
  let (ws, s) := p.writes.foldl (fun (ws, s) w =>
    let (k, s) := s.takeFree
    (if Config.chooseByte k then ws ++ [w] else ws, s)) (([] : List EngWrite), s)
  let (k, s) := s.takeFree
  ({ p with writes := ws, fold := if Config.chooseByte k then p.fold else none }, s)

/-! ## Landing -/

/-- A side of a command lies in a space (R192). -/
def EngCmd.sided (c : EngCmd) (code : Nat) : Bool := c.kind != .quant2 && (CopyBlock.ofBytes c.blk).either code

/-- The follow-on MMA of a COPYM enters the array queue (R201). -/
def State.followOn (s : State) (core : Fin 256) (c : EngCmd) : State :=
  let (id, s) := s.fresh
  let e : ArrayEntry := { id := id, req := c.req, gang := c.gang, wg := c.wg, op := .mma c.blkVa (c.blk.drop 64) 0 none (some c.id),
                          pc := c.pc, issued := false, order := c.order }
  (s.modCore core fun k => { k with arrayQ := k.arrayQ ++ [e] }).modCmd core c.id fun x => { x with state := .follow id }

/-- Room in the array queue for a COPYM's MMA. -/
def State.followRoom (s : State) (core : Fin 256) (c : EngCmd) : Bool :=
  c.kind != .copym || decide ((s.core core).arrayQ.length < 16)

/-- The bytes of a command performed; a COPYM goes on with its MMA (R188, R201). [DESIGN CHOICE, log 36, unsafe] -/
def State.landCmd (s : State) (core : Fin 256) (c : EngCmd) (p : EngPlan) : State :=
  let s := (s.applyWrites core c p).applyFold core c p
  if c.kind = .copym then s.followOn core c else s.endCmd core c none

/-- A command fails (R189). -/
def State.failCmd (s : State) (core : Fin 256) (c : EngCmd) (p : EngPlan) (cause status : Nat) : State :=
  let (p, s) := s.someWrites p
  ((s.applyWrites core c p).applyFold core c p).endCmd core c (some (cause, status))

/-- The results of a command that has come due become visible (R316); the MMA of a COPYM follows at once. -/
def State.applyDue (s : State) (core : Fin 256) (c : EngCmd) : State :=
  match c.plan with
  | none => s
  | some p =>
    if p.crosses then s.freezeMaster (engineMaster core) 1 0
    else
    match p.causes with
    | [] =>
      let s := (s.applyWrites core c p).applyFold core c p
      if c.kind = .copym then
        let (f, s) := s.mmaWhole core c.gang (c.blk.drop 64)
        let s := s.doneArrival c.gang (MmaBlock.ofBytes (c.blk.drop 64)).done
        s.endCmd core c (f.map fun x => (x, 0))
      else s.endCmd core c none
    | cs =>
      let (k, s) := s.takeFree
      let cause := (cs[Config.chooseIndex k % cs.length]?).getD 0
      s.failCmd core c p cause (if cause = 0x0A then p.status else 0)

/-! ## Remote sides (R192, R405) -/

/-- The requests of a command to its other device, as runs of bytes: addresses, and data where it writes. -/
def EngCmd.remoteRuns (c : EngCmd) (p : EngPlan) (m : SMap Byte) : List PacketKind :=
  let b := CopyBlock.ofBytes c.blk
  if b.dspace = 5 then
    let _ := p
    (runsOf m).flatMap fun (a, bs) => (cutLines (bs.length / 128 + 2) a bs).map fun r => .engineWrite r.1 r.2
  else
    let as := b.srcs.flatMap fun a => (List.range b.w).map fun k => (a + k, (0 : Byte))
    (runsOf (as.foldl (fun m x => SMap.insert m x.1 x.2) [])).flatMap fun (a, bs) =>
      (cutLines (bs.length / 128 + 2) a bs).map fun r => .engineRead r.1 r.2.length

/-- The address that a request of an engine names. -/
def requestVa : PacketKind → Nat
  | .engineWrite va _ => va
  | .engineRead va _ => va
  | _ => 0

/-- The requests of a command leave for its other device. -/
def State.sendRuns (s : State) (core : Fin 256) (c : EngCmd) (p : EngPlan) : State :=
  let dst := (DoneField.ofNat c.done).rdev
  let (m, s) := s.settleBytes (p.inSpace .remote)
  let (ids, s) := (c.remoteRuns p m).foldl (fun (ids, s) k =>
    let (id, s) := s.fresh
    let o : NetOp := { id := id, core := core, wave := c.req.wave, infl := none, cmd := some c.id, dst := dst, va := requestVa k,
                       send := false, ordered := false, pc := c.pc, reply := none }
    (ids ++ [id], (s.modFabric fun f => { f with ops := f.ops ++ [o] }).inject (Packet.request dst c.req.part id k)))
    (([] : List Nat), s)
  s.modCmd core c.id fun x => { x with state := .sent, netOps := ids, plan := some p }

/-- The operations of a command that are outstanding. -/
def State.cmdOps (s : State) (c : EngCmd) : List NetOp := s.fabric.ops.filter fun o => c.netOps.contains o.id

/-- A reply without a refusal. -/
def goodReply : Option PacketKind → Bool
  | some (.ack 0) => true
  | some (.engineData 0 _) => true
  | _ => false

/-- Every operation of a command has been answered. -/
def State.answered (s : State) (c : EngCmd) : Bool := (s.cmdOps c).all fun o => o.reply.isSome

/-- The operations of a command are over. -/
def State.dropCmdOps (s : State) (c : EngCmd) : State :=
  s.modFabric fun f => { f with ops := f.ops.filter fun o => !c.netOps.contains o.id }

/-- The plan of a command whose transfers are complete: none while they are not (R188, R189). -/
def State.readyPlan? (s : State) (core : Fin 256) (c : EngCmd) : Option EngPlan :=
  let noRoute := c.sided 5 && (s.route? (DoneField.ofNat c.done).rdev).isNone
  match c.state with
  | .accepted =>
    if noRoute then some { EngPlan.empty with causes := [9] }
    else if c.sided 5 then none
    else some (c.plan.getD (s.planOf core c []))
  | .sent =>
    if !s.answered c then none
    else
      let bad := (s.cmdOps c).any fun o => !goodReply o.reply
      let p := if (CopyBlock.ofBytes c.blk).dspace = 5 then { (c.plan.getD EngPlan.empty) with writes := [] }
        else s.planOf core c []
      some (if bad && !p.causes.contains 9 then { p with causes := p.causes ++ [9] } else p)
  | _ => none

/-- A command whose source is on this device reads it as it sends (R187); one that fails there sends nothing. -/
def State.sendPlan (s : State) (core : Fin 256) (c : EngCmd) : EngPlan :=
  match c.plan with
  | some p => p
  | none => if (CopyBlock.ofBytes c.blk).dspace = 5 then s.planOf core c [] else EngPlan.empty

/-- The command can go on. -/
def State.engineGoes (s : State) (core : Fin 256) (c : EngCmd) : Bool := !s.engineFrozen core && !c.sided 4

/-- A deterministic command's plan is complete, and waits until it is due (R316). -/
def State.holdPlan (s : State) (core : Fin 256) (c : EngCmd) (p : EngPlan) : State :=
  (s.dropCmdOps c).modCmd core c.id fun x => { x with plan := some p, state := .done, netOps := [] }

/-- The lines that a command's next step reads and writes at their homes. -/
def State.linesOfCmd (s : State) (core : Fin 256) (c : EngCmd) : List Nat :=
  s.readsOf core c ++ (if c.det then [] else match s.readyPlan? core c with | some p => (p.rest c).lines c | none => [])

/-- A byte of a destination written before the command lands, where a reader may see it already (R181); a QUANT2 reads its tile
once (R207). None where there is no such byte, and on the way from an archive (R110). [DESIGN CHOICE, log 36, unsafe] -/
def State.writeEarly? (s : State) (core : Fin 256) (c : EngCmd) (p : EngPlan) (n : Nat) : Option State :=
  match (p.rest c).writes[n]? with
  | none => none
  | some w =>
    if c.det || p.crosses || c.sided 4 || w.space == .remote then none
    else some ((s.applyWrites core c { EngPlan.empty with writes := [w] }).modCmd core c.id fun x =>
      { x with early := x.early ++ [(w.space, w.addr)], plan := if c.kind = .quant2 then some p else x.plan })

/-- A step of a command's, in its domain where it belongs to one (R303). [DESIGN CHOICE, log 130, unsafe] -/
def State.ofCommand (s : State) (c : EngCmd) (go : State → Result) : Result :=
  match (if c.det then s.wave? c.req.wave else none) with
  | none => go s
  | some w =>
    match s.launchOf? w with
    | none => go s
    | some l =>
      let n := ((s.core w.core).engine.filter fun x => x.req.wave == w.id && decide (x.order < c.order)).length
      s.inDomain (l.record.key ++ [1, s.waveId w, c.pc, c.blkVa, n]) go

/-- COMMAND_LANDED (R188): the transfers of a remote command start, or a command's bytes are all performed; with `early`, one of
them is, ahead of the landing (R181). [DESIGN CHOICE, log 36, unsafe; DESIGN CHOICE, log 37, safe] -/
def execCommandLanded (core : Fin 256) (what : Landing) (s : State) : Result :=
  match s.cmd? core what.cmd with
  | none => notEnabled
  | some c =>
    if !s.engineGoes core c then notEnabled
    else s.atHomes core (s.linesOfCmd core c) c.req.asid fun s =>
      match s.readyPlan? core c, what.early with
      | some p, some n =>
        match s.writeEarly? core c p n with
        | some s => .next s
        | none => notEnabled
      | some p, none =>
        if c.det then .next (s.holdPlan core c p)
        else if p.crosses then .next (s.freezeMaster (engineMaster core) 1 0)
        else if !p.causes.isEmpty || !s.followRoom core c then notEnabled
        else .next ((s.dropCmdOps c).landCmd core c (p.rest c))
      | none, none =>
        if c.state = .accepted && c.sided 5 then
          let p := s.sendPlan core c
          if p.crosses then .next (s.freezeMaster (engineMaster core) 1 0)
          else if p.causes.isEmpty then s.ofCommand c fun s => .next (s.sendRuns core c p)
          else if c.det then .next (s.holdPlan core c p)
          else notEnabled
        else notEnabled
      | none, some _ => notEnabled

/-- COMMAND_FAILED (R189): for a cause that the command's sources, rows or other device give. -/
def execCommandFailed (core : Fin 256) (cmd : Nat) (cause : BitVec 8) (status : Nat) (s : State) : Result :=
  match s.cmd? core cmd with
  | none => notEnabled
  | some c =>
    if s.engineFrozen core || c.det || status ≠ 0 then notEnabled
    else
      let p? := if c.sided 4 ∧ c.state = .accepted then some (s.planOf core c [])
        else match s.readyPlan? core c with
          | some p => some p
          | none => if c.state = .accepted then some (s.sendPlan core c) else none
      match p? with
      | none => notEnabled
      | some p =>
        if p.causes.contains cause.toNat && !p.crosses then
          s.atHomes core (s.readsOf core c ++ (p.rest c).lines c) c.req.asid fun s =>
            .next ((s.dropCmdOps c).failCmd core c (p.rest c) cause.toNat 0)
        else notEnabled

/-- NVME_COMPLETION (R110, R193): the drive's completion entry for an archive command. [DESIGN CHOICE, log 3, safe] -/
def execNvmeCompletion (core : Fin 256) (cmd status : Nat) (data : List Byte) (s : State) : Result :=
  match s.cmd? core cmd with
  | none => notEnabled
  | some c =>
    let b := CopyBlock.ofBytes c.blk
    if s.engineFrozen core || c.state ≠ .accepted || !c.sided 4 || (b.sspace == 4 && data.length != b.total) then notEnabled
    else
      let p := if b.dspace = 4 then c.plan.getD (s.planOf core c data) else s.planOf core c data
      let p := { p with writes := p.writes.filter fun w => w.space != .archive }
      if c.det then
        .next (s.holdPlan core c (if status = 0 then p else { p with causes := p.causes ++ [0x0A], status := status }))
      else if status = 0 && (!p.causes.isEmpty || !s.followRoom core c) then notEnabled
      else s.atHomes core (s.readsOf core c ++ p.lines c) c.req.asid fun s =>
        .next (if status ≠ 0 then s.failCmd core c p 0x0A status else s.landCmd core c p)

end Sys2Proof.Machine
end

