-- ==== Sys2Proof/Machine/Segs.lean ====
section
/-! DEFINITION. The catalogue and the SEG group (R351 to R355), the patch release ring (R353). -/

namespace Sys2Proof.Machine

/-! ## The catalogue (R351, R352) -/

/-- A catalogue entry. -/
structure CatEntry where
  call : Nat
  st : Nat
  data : Nat
  arch : Nat
  n : Nat
  geo : Nat
  size : Nat
  deriving DecidableEq, Repr

def CatEntry.ofBytes (bs : List Byte) : CatEntry :=
  let f := blockField bs
  { call := f 0 16, st := f 16 8, data := f 24 8, arch := f 32 8, n := f 40 4, geo := f 44 5, size := f 56 8 }

def CatEntry.bytes (e : CatEntry) : List Byte :=
  leBytes 16 e.call ++ leBytes 8 e.st ++ leBytes 8 e.data ++ leBytes 8 e.arch ++ leBytes 4 e.n ++ leBytes 5 e.geo
    ++ leBytes 7 0 ++ leBytes 8 e.size

/-- Fields of the state word. -/
def CatEntry.state (e : CatEntry) : Nat := bitsOf e.st 63 62
def CatEntry.opener (e : CatEntry) : Nat := bitsOf e.st 55 48
def CatEntry.refc (e : CatEntry) : Nat := bitsOf e.st 31 0
/-- The entry with another count of references. -/
def CatEntry.setRefc (e : CatEntry) (n : Nat) : CatEntry := { e with st := e.st / 2 ^ 32 * 2 ^ 32 + n % 2 ^ 32 }
/-- The entry in another state. -/
def CatEntry.setState (e : CatEntry) (n : Nat) : CatEntry := { e with st := e.st % 2 ^ 62 + n * 2 ^ 62 }
/-- The free entry. -/
def CatEntry.free : CatEntry := { call := 0, st := 0, data := 0, arch := 0, n := 0, geo := 0, size := 0 }

/-- A partition's catalogue: its address and k (R351, R353). -/
structure Catalogue where
  base : Nat
  k : Nat
  deriving DecidableEq, Repr

def State.catalogue? (s : State) (p : Fin 32) : Option Catalogue :=
  let r := (s.reg (Reg.catBase p)).toNat
  if r = 0 then none else some { base := bitsOf r 51 12 * 4096, k := bitsOf r 4 0 }

/-- The unit is stopped (R353). -/
def State.catStopped (s : State) : Bool := s.regBit Reg.catCtl 0

def State.catRead (s : State) (c : Catalogue) (i : Nat) : Except LineErr CatEntry :=
  (s.homeBytes (c.base + 64 * i) 64).map CatEntry.ofBytes

def State.catWrite (s : State) (c : Catalogue) (asid : BitVec 8) (i : Nat) (e : CatEntry) : State :=
  s.unitWrite (c.base + 64 * i) e.bytes asid

/-- The home of an entry holds its line back (R118, R133). [DESIGN CHOICE, log 56, safe] -/
def State.catBusy (s : State) (c : Catalogue) (i : Nat) : Bool := !s.serves ((c.base + 64 * i) / 128)

/-- Entries read at their homes (R115). -/
def State.catVisit (s : State) (c : Catalogue) (l : List Nat) : State := s.readLines (l.map fun i => (c.base + 64 * i) / 128) 0 0

/-- The 64 places of a call number. -/
def Catalogue.places (c : Catalogue) (call : Nat) : List Nat := (List.range 64).map fun j => (call % 2 ^ c.k + j) % 2 ^ c.k

/-- The entry of a call number and the first free place, among the 64 (R352). -/
def State.catFind (s : State) (c : Catalogue) (call : Nat) : Except LineErr (Option (Nat × CatEntry) × Option Nat) := do
  let es ← (c.places call).mapM fun i => (s.catRead c i).map fun e => (i, e)
  return (es.find? fun x => x.2.state != 0 && x.2.call == call, (es.find? fun x => x.2.state == 0).map (·.1))

/-- A reference dropped by a retirement: an entry that is not sealed with refc ≥ 1 stays as it is (R359). -/
def State.dropRef (s : State) (p : Fin 32) (i : Nat) : State :=
  match s.catalogue? p with
  | none => s
  | some c =>
    if 2 ^ c.k ≤ i then s
    else
      match s.catRead c i with
      | .error _ => s
      | .ok e => if e.state = 2 ∧ 1 ≤ e.refc then (s.catVisit c [i]).catWrite c 0 i (e.setRefc (e.refc - 1)) else s

/-- The same, or kept until the unit runs again (R353): the retirement at the end of a wave that held a pin, which no wave is left
to wait for. [DESIGN CHOICE, log 64, safe] -/
def State.retireRef (s : State) (p : Fin 32) (i : Nat) : State :=
  if s.catStopped then { s with catDrops := s.catDrops ++ [(p, i)] } else s.dropRef p i

/-- CATCTL_STOP. -/
def execCatctlStop (s : State) : Result := .next (s.setReg Reg.catCtl 1)

/-- CATCTL_RESUME: what has waited proceeds (R353). [DESIGN CHOICE, log 64, safe] -/
def execCatctlResume (s : State) : Result :=
  let s := s.setReg Reg.catCtl 0
  .next { s.catDrops.foldl (fun s x => s.dropRef x.1 x.2) s with catDrops := [] }

/-! ## The patch release ring (R353) -/

/-- A ring of records of some bytes each: base, size in records, written, consumed. -/
structure Ring where
  base : Nat
  size : Nat
  wr : Nat
  rd : Nat
  deriving DecidableEq, Repr

/-- A ring with [51:12] pa and [3:0] log2 records − 8; none where the register is 0. -/
def State.ring? (s : State) (base wr rd : Nat) : Option Ring :=
  let r := (s.reg base).toNat
  if r = 0 then none
  else some { base := bitsOf r 51 12 * 4096, size := 2 ^ (bitsOf r 3 0 + 8), wr := (s.reg wr).toNat, rd := (s.reg rd).toNat }

/-- A record has room. -/
def Ring.room (r : Ring) : Bool := decide ((r.wr + 2 ^ 64 - r.rd) % 2 ^ 64 < r.size)

/-- Address of the next record of n bytes. -/
def Ring.next (r : Ring) (n : Nat) : Nat := r.base + n * (r.wr % r.size)

/-- A record written, the counter of records advanced. -/
def State.ringWrite (s : State) (r : Ring) (wr : Nat) (bs : List Byte) : State :=
  (s.unitWrite (r.next bs.length) bs 0).setReg wr (BitVec.ofNat 64 (r.wr + 1))

/-- The release ring of a partition. -/
def State.releaseRing? (s : State) (p : Fin 32) : Option Ring := s.ring? (Reg.prelBase p) (Reg.prelWr p) (Reg.prelRd p)

/-- A release record: appended, waiting where the ring is full, discarded where there is none (R353). -/
def State.postRelease (s : State) (p : Fin 32) (va : Nat) : State :=
  match s.releaseRing? p with
  | none => s
  | some r =>
    if r.room && !(s.releaseRecords.any fun x => x.1 == p) && s.serves (r.next 8 / 128) then
      s.ringWrite r (Reg.prelWr p) (leBytes 8 va)
    else { s with releaseRecords := s.releaseRecords ++ [(p, va)] }

/-- RELEASE_RECORD_APPEND (R353). -/
def execReleaseRecordAppend (p : Fin 32) (s : State) : Result :=
  match s.releaseRecords.find? fun x => x.1 == p with
  | none => notEnabled
  | some x =>
    let s' := { s with releaseRecords := s.releaseRecords.erase x }
    match s.releaseRing? p with
    | none => .next s'
    | some r =>
      if r.room && s.serves (r.next 8 / 128) then .next (s'.ringWrite r (Reg.prelWr p) (leBytes 8 x.2)) else notEnabled

/-! ## The SEG group (R354, R355) -/

/-- LINK_STATE (R324). -/
def linkState : TrapInfo := TrapInfo.plain .linkState

/-- A result word (R354). -/
def segResult (outcome status i : Nat) : Word := BitVec.ofNat 32 (outcome * 2 ^ 30 + status * 2 ^ 24 + i)

/-- The release that comes first is complete; in step 4 of a period it is (R310, R312). -/
def State.releasedFor (s : State) (w : Wave) : Bool := w.isDet || s.releaseReady w .dev

/-- The pipe is held while the release completes. [DEDUCED, log 58, safe] -/
def State.awaitRelease (s : State) (w : Wave) : Result := ((s.releaseDeps w .dev).2.2).stall

/-- What a SEG operation needs of the unit: a catalogue, running, and the entries' lines readable. -/
def State.withCatalogue (s : State) (w : Wave) (p : Path) (i : Instr) (go : Catalogue → Result) : Result :=
  match s.catalogue? w.part with
  | none => .next (s.trap w p (wordOfInstr i) linkState)
  | some c => if s.catStopped then s.stall else go c

/-- A catalogue line that cannot be read: no address is stated for it. [DESIGN CHOICE, log 22, safe] -/
def State.catError (s : State) (w : Wave) (p : Path) (i : Instr) (e : LineErr) : Result :=
  let (info, s) := s.freeMem e.trap p.mask
  .next (s.trap w p (wordOfInstr i) info)

/-- A reference taken on a sealed entry, and what the others answer (R355). -/
def State.segFound (s : State) (w : Wave) (p : Path) (nw : Bool) (d : Operand) (c : Catalogue) (x : Nat) (e : CatEntry) : Result :=
  if s.catBusy c x then s.stall
  else if e.state = 2 then
    .next (((s.catWrite c w.asid x (e.setRefc (e.refc + 1))).acquire w.core .dev).result w p nw d false [splat (segResult 1 0 x)])
  else if e.state = 1 then .next (s.result w p nw d false [splat (segResult 2 0 x)])
  else .next (s.result w p nw d false [splat (segResult 3 3 x)])

/-- An open block (R355). -/
structure OpenBlock where
  call : Nat
  data : Nat
  n : Nat
  geo : Nat
  cfg : MapCfg

def OpenBlock.ofBytes (bs : List Byte) : OpenBlock :=
  let f := blockField bs
  { call := f 0 16, data := f 16 8, n := f 24 4, geo := f 32 5, cfg := MapCfg.ofBytes ((bs.drop 32).take 32) }

/-- The block names a segment that can stand in the partition's pool (R355). -/
def State.openOk (s : State) (p : Fin 32) (b : OpenBlock) : Bool :=
  let pool := s.regBits (Reg.segPoolB p) 38 0 * 65536
  b.call != 0 && decide (1 ≤ b.n ∧ b.n ≤ 2 ^ 20) && b.cfg.geoOk && b.data % 128 == 0
    && decide (pool ≤ b.data ∧ b.data + b.cfg.segSize b.n ≤ pool + (s.reg (Reg.segPoolL p)).toNat)

/-- The entry of an opened segment (R355). -/
def OpenBlock.entry (b : OpenBlock) (asid : BitVec 8) : CatEntry :=
  { call := b.call, st := 2 ^ 62 + asid.toNat * 2 ^ 48 + 1, data := b.data, arch := 0, n := b.n, geo := b.geo,
    size := b.cfg.segSize b.n }

/-- SEGOPEN at the catalogue. -/
def State.segOpen (s : State) (w : Wave) (p : Path) (i : Instr) (nw : Bool) (d : Operand) (c : Catalogue) (b : OpenBlock) : Result :=
  if !s.openOk w.part b then .next (s.trap w p (wordOfInstr i) linkState)
  else
    if (c.places b.call).any (s.catBusy c) then s.stall
    else
    let s := s.catVisit c (c.places b.call)
    match s.catFind c b.call with
    | .error e => s.catError w p i e
    | .ok (some (x, e), _) =>
      if e.state = 2 ∧ (e.geo ≠ b.geo ∨ e.n ≠ b.n) then .next (s.trap w p (wordOfInstr i) linkState)
      else s.segFound w p nw d c x e
    | .ok (none, none) => .next (s.result w p nw d false [splat (segResult 3 1 0)])
    | .ok (none, some f) =>
      if s.catBusy c f then s.stall
      else .next ((s.catWrite c w.asid f (b.entry w.asid)).result w p nw d false [splat (segResult 0 0 f)])

/-- SEGOPEN (R355). -/
def execSegopen (nw : Bool) (d a : Operand) (s : State) : Result :=
  runCard (.segopen nw d a) (fun w _ =>
    { pipeCard (onlyLaunched w) ((if nw then [] else [.group isSca 1 1 d]) ++ [baseField a]) [] (fun w p s =>
        let i := Instr.segopen nw d a
        let ea := (scalar64 w a).toNat
        match blockAddrFault? ea 64 with
        | some c => .next (s.trap w p (wordOfInstr i) (TrapInfo.mem c p.mask ea))
        | none =>
          let s := s.settleHolds w.id
          if s.held w [.load] [ea] [] then s.stall
          else
            match s.blockSync w ea with
            | some s => s.stall
            | none =>
              let s := s.blockRead w ea
              match s.blockBytes w ea 64 with
              | .error c => .next (s.trap w p (wordOfInstr i) (TrapInfo.mem c p.mask ea))
              | .ok bs => s.withCatalogue w p i fun c => s.segOpen w p i nw d c (OpenBlock.ofBytes bs)) with
      sync := true }) s

/-- An entry named by its index; beyond the catalogue LINK_STATE (R355). -/
def State.segIndex (s : State) (w : Wave) (p : Path) (i : Instr) (x : Nat) (go : Catalogue → CatEntry → Result) : Result :=
  s.withCatalogue w p i fun c =>
    if 2 ^ c.k ≤ x then .next (s.trap w p (wordOfInstr i) linkState)
    else if s.catBusy c x then s.stall
    else
      match s.catRead c x with
      | .error e => s.catError w p i e
      | .ok e => go c e

/-- Commands of the wave that have not landed. [DEDUCED, log 39, safe] -/
def State.commandsOut (s : State) (w : Wave) : Bool := (s.core w.core).engine.any fun c => c.req.wave == w.id

/-- The instruction waits for engine commands of its wave; a deterministic wave's come due at the end of its period (R316). [DEDUCED, log 109, unsafe] -/
def State.awaitCommands (s : State) (w : Wave) : Result := if w.isDet then .next (s.block .period) else s.stall

/-- SEGSEAL (R355). -/
def execSegseal (a : Operand) (s : State) : Result :=
  runCard (.segseal a) (fun w _ =>
    { pipeCard (onlyLaunched w) (uniFields [a]) (uniFields [a]) (fun w p s =>
        let i := Instr.segseal a
        let x := (srcUni w p a).toNat
        if !s.releasedFor w then s.awaitRelease w
        else if s.commandsOut w then s.awaitCommands w
        else s.segIndex w p i x fun c e =>
          if e.state = 1 ∧ e.opener = w.asid.toNat then .next ((s.catWrite c w.asid x (e.setState 2)).advance p 1)
          else .next (s.trap w p (wordOfInstr i) linkState)) with
      race := true, drains := true, sync := true }) s

/-- The call number that SEGREF names. -/
def callOf (w : Wave) (a : Operand) : Nat :=
  match a with
  | .s r => (join64 w.s[r] (w.sreg (r.val + 1))).toNat + 2 ^ 64 * (join64 (w.sreg (r.val + 2)) (w.sreg (r.val + 3))).toNat
  | _ => 0

/-- SEGREF (R355). -/
def execSegref (nw : Bool) (d a : Operand) (s : State) : Result :=
  runCard (.segref nw d a) (fun w _ =>
    { pipeCard (onlyLaunched w) ((if nw then [] else [.group isSca 1 1 d]) ++ [.group isSca 4 4 a]) [] (fun w p s =>
        let i := Instr.segref nw d a
        s.withCatalogue w p i fun c =>
          if (c.places (callOf w a)).any (s.catBusy c) then s.stall
          else
          let s := s.catVisit c (c.places (callOf w a))
          match s.catFind c (callOf w a) with
          | .error e => s.catError w p i e
          | .ok (some (x, e), _) => s.segFound w p nw d c x e
          | .ok (none, _) => .next (s.result w p nw d false [splat (segResult 3 2 0)])) with
      sync := true }) s

/-- SEGDROP (R355). -/
def execSegdrop (a : Operand) (s : State) : Result :=
  runCard (.segdrop a) (fun w _ =>
    { pipeCard (onlyLaunched w) (uniFields [a]) (uniFields [a]) (fun w p s =>
        let i := Instr.segdrop a
        let x := (srcUni w p a).toNat
        if !s.releasedFor w then s.awaitRelease w
        else s.segIndex w p i x fun c e =>
          if e.state = 1 ∧ e.opener = w.asid.toNat ∧ e.refc = 1 then .next ((s.catWrite c w.asid x CatEntry.free).advance p 1)
          else if e.state = 2 ∧ 1 ≤ e.refc then .next ((s.catWrite c w.asid x (e.setRefc (e.refc - 1))).advance p 1)
          else .next (s.trap w p (wordOfInstr i) linkState)) with
      race := true, drains := true, sync := true }) s

end Sys2Proof.Machine
end

