-- ==== Sys2Proof/Machine/Links.lean ====
section
/-! DEFINITION. The link unit (R356 to R362, R381, R386): maps, argument records, editions, retirement; LINK and UNLINK; the
CTX group (R365). -/

namespace Sys2Proof.Machine

/-! ## The task table, as the link unit and TKPOST use it (R368, R380, R381) -/

/-- Entries that a partition holds (R380). -/
def State.taskUsed (s : State) (p : Fin 32) : Nat := (s.tasks.filter fun x => s.partOf x.2.asid == p).length

/-- n more entries fit into the table and the quota of a partition (R380). -/
def State.taskRoom (s : State) (p : Fin 32) (n : Nat) : Bool :=
  let q := s.regBits (Reg.tkQuota p) 17 0
  decide (s.tasks.length + n ≤ taskCount) && (q == 0 || decide (s.taskUsed p + n ≤ q))

/-- The lowest free index. -/
def State.freeTaskIndex (s : State) : Nat := s.tasks.foldl (fun n x => if x.1 = n then n + 1 else n) 0

/-- A task posted at the lowest free index (R374). -/
def State.postTask (s : State) (e : TaskEntry) : Nat × State :=
  let x := s.freeTaskIndex
  if e.dep = 0 then (x, (s.setTask x e).readyTask x) else (x, s.setTask x { e with state := .waiting })

/-- A PROBE or ERRATA task (R381). -/
def linkTask (type : Nat) (rec : Nat) (cfg : MapCfg) (asid : BitVec 8) : TaskEntry :=
  { TaskEntry.empty with arg := BitVec.ofNat 52 (rec / 8), seq := cfg.seq, layer := BitVec.ofNat 16 cfg.player, vt := true,
                         type := BitVec.ofNat 4 type, asid := asid, state := .ready }

/-! ## Maps (R356, R358) -/

/-- The header of a map. -/
structure MapHead where
  ed : Nat
  cur : Nat
  nextid : Nat
  pins : List Nat
  cfg : List Byte
  deriving DecidableEq, Repr

def ArgRec.ofBytes (bs : List Byte) : ArgRec :=
  let f := blockField bs
  { va := f 0 8, iid := f 8 4, rgen := f 12 2, state := f 14 1, probe := f 16 4, errata := f 20 4, sel := f 24 8 }
def ArgRec.bytes (r : ArgRec) : List Byte :=
  leBytes 8 r.va ++ leBytes 4 r.iid ++ leBytes 2 r.rgen ++ leBytes 1 r.state ++ leBytes 1 0 ++ leBytes 4 r.probe
    ++ leBytes 4 r.errata ++ leBytes 8 r.sel

/-- No task (R358). -/
def noTask : Nat := 0xFFFFFFFF

/-- A map as its home holds it. -/
structure LinkMap where
  pa : Nat
  va : Nat
  head : MapHead
  img : MapImage
  recs : List ArgRec

/-- Where a record stands in its map. -/
def recOff (r : Nat) : Nat := 0x80 + 32 * r

/-- The header of a map, checked (R361). [DEDUCED, log 35, safe] -/
def State.mapHead (s : State) (pa : Nat) (part : Fin 32) : Except TrapCode MapHead :=
  match s.homeBytes pa 128 with
  | .error e => .error e.trap
  | .ok bs =>
    let f := blockField bs
    let cfg := (bs.drop 64).take 32
    if f 0 8 = 0xFFF0 ∧ f 12 1 ≤ 7 ∧ (MapCfg.ofBytes cfg).ok ∧ (s.pageState pa).part = part then
      .ok { ed := f 8 4, cur := f 12 1, nextid := f 16 4, pins := (List.range 8).map fun k => f (24 + 2 * k) 2, cfg := cfg }
    else .error .linkState

/-- The image in a slot. -/
def State.mapImage (s : State) (pa k : Nat) : Except TrapCode MapImage :=
  match s.homeBytes (pa + imageOff k) 1024 with
  | .error e => .error e.trap
  | .ok bs => .ok (MapImage.ofBytes bs)

/-- A map read whole. -/
def State.linkMap (s : State) (pa va : Nat) (part : Fin 32) : Except TrapCode LinkMap := do
  let h ← s.mapHead pa part
  let img ← s.mapImage pa h.cur
  let recs ← match s.homeBytes (pa + 0x80) 512 with
    | .error e => .error e.trap
    | .ok bs => .ok ((List.range 16).map fun r => ArgRec.ofBytes (bs.drop (32 * r)))
  return { pa := pa, va := va, head := h, img := img, recs := recs }

/-- The home of the map holds one of its lines back (R118, R133). [DESIGN CHOICE, log 56, safe] -/
def State.mapBusy (s : State) (pa : Nat) : Bool := !s.servesRange pa 16384

/-- Pins of a slot. -/
def MapHead.pinsOf (h : MapHead) (k : Nat) : Nat := h.pins.getD k 0
/-- A slot is live (R359). -/
def MapHead.live (h : MapHead) (k : Nat) : Bool := k == h.cur || h.pinsOf k != 0

/-- The image of every live slot but one. -/
def State.liveImages (s : State) (pa : Nat) (h : MapHead) (but : Nat) : List MapImage :=
  ((List.range 8).filter fun k => k != but && h.live k).filterMap fun k => (s.mapImage pa k).toOption

/-- The instances of a slot that no live image names beside it. -/
def State.goneInstances (s : State) (pa : Nat) (h : MapHead) (k : Nat) : List MapEntry :=
  match s.mapImage pa k with
  | .error _ => []
  | .ok img =>
    let live := (s.liveImages pa h k).flatMap (·.entries)
    img.entries.filter fun x => !(live.any fun e => e.iid == x.iid)

/-- The retirement of a slot waits for the catalogue (R353). -/
def State.retireWaits (s : State) (pa : Nat) (h : MapHead) (part : Fin 32) (k : Nat) : Bool :=
  let gone := s.goneInstances pa h k
  !gone.isEmpty && (s.catStopped || (match s.catalogue? part with | some c => gone.any fun e => s.catBusy c e.idx | none => false))

/-- A slot retired: patch blocks and instances that no live image names are released (R359). -/
def State.retireSlot (s : State) (pa : Nat) (h : MapHead) (part : Fin 32) (k : Nat) : State :=
  match s.mapImage pa k with
  | .error _ => s
  | .ok img =>
    let live := (s.liveImages pa h k).flatMap (·.entries)
    let patches := ((img.entries.map (·.patch)).filter fun x => x != 0 && !(live.any fun e => e.patch == x)).eraseDups
    let gone := s.goneInstances pa h k
    let s := patches.foldl (fun s x => s.postRelease part x) s
    gone.foldl (fun s x => s.retireRef part x.idx) s

/-! ## Argument records (R358) -/

/-- A task that is still posted for a record; never the one that is completing (R358, R386). -/
def State.posted (s : State) (x rec : Nat) (own : Option Nat) : Bool :=
  let e := s.task x
  x != noTask && some x != own && e.state != .free && e.arg == BitVec.ofNat 52 (rec / 8)
    && (e.type == 6#4 || e.type == 7#4)

/-- A task of a record cancelled where it is still posted. -/
def State.unpost (s : State) (x rec : Nat) (own : Option Nat) : State := if s.posted x rec own then (s.cancelTask x).2 else s

/-- A map operation under way: the machine, the map's entries and records. -/
structure LinkWork where
  s : State
  entries : List MapEntry
  recs : List ArgRec
  /-- Records to which probes are to be posted. -/
  probes : List Nat

/-- The record of an entry whose repair is pending, where it holds one. -/
def LinkWork.recOf? (k : LinkWork) (e : MapEntry) : Option ArgRec :=
  match k.recs[e.arec]? with
  | some r => if e.rstate = 1 ∧ r.state ≠ 0 ∧ r.iid = e.iid then some r else none
  | none => none

/-- A record's tasks cancelled, and the record freed (R358). -/
def LinkWork.cancel (k : LinkWork) (va : Nat) (own : Option Nat) (e : MapEntry) : LinkWork :=
  match k.recOf? e with
  | none => k
  | some r =>
    let a := va + recOff e.arec
    { k with s := (k.s.unpost r.probe a own).unpost r.errata a own, recs := k.recs.set e.arec { r with state := 0 } }

/-- One entry marked (R361). -/
def LinkWork.markOne (va : Nat) (own : Option Nat) (k : LinkWork) (i : Nat) : LinkWork :=
  match k.entries[i]? with
  | none => k
  | some e =>
    let k := k.cancel va own e
    let e := { e with patch := 0, rgen := (e.rgen + 1) % 65536 }
    if e.base = 0 then { k with entries := k.entries.set i { e with rstate := 0 } }
    else
      let r := (k.recs.findIdx? fun x => x.state == 0).getD 0
      let a : ArgRec := { va := va, iid := e.iid, rgen := e.rgen, state := 1, probe := 0, errata := noTask, sel := 0 }
      { k with entries := k.entries.set i { e with rstate := 1, arec := r }, recs := k.recs.set r a, probes := k.probes ++ [r] }

/-- mark(N, from p) (R361). -/
def LinkWork.mark (k : LinkWork) (va : Nat) (own : Option Nat) (p : Nat) : LinkWork :=
  ((List.range k.entries.length).drop p).foldl (LinkWork.markOne va own) k

/-- The records written back. -/
def State.writeRecs (s : State) (pa : Nat) (asid : BitVec 8) (l : List ArgRec) : State :=
  s.unitWrite (pa + 0x80) (l.flatMap ArgRec.bytes) asid

/-! ## Operations (R361, R362) -/

/-- What becomes of an operation at its map's home. -/
inductive LinkOutcome where
  | trap (c : TrapCode)
  /-- It waits for the map's home or for the catalogue. -/
  | wait
  /-- It is done, with its status and the resulting edition. -/
  | done (s : State) (status ed : Nat)
  /-- Records are cancelled, and the new edition waits to be committed. -/
  | build (s : State) (b : LinkBuild)

/-- What has been worked out, to be committed. -/
def LinkWork.build (k : LinkWork) (nextid : Nat) : LinkOutcome :=
  .build k.s { entries := k.entries, recs := k.recs, probes := k.probes, nextid := nextid, errata := none }

/-- Commit (R361): the new image, then ed and cur; the probes; the retirement of the slot that was current. It waits for a slot,
for room in the task table, and for the catalogue where the retirement needs it (R353). -/
def State.commitEdition (s : State) (m : LinkMap) (r : LinkReq) (b : LinkBuild) : Option (State × Nat) :=
  match (List.range 8).find? fun x => x != m.head.cur && m.head.pinsOf x == 0 with
  | none => none
  | some slot =>
    let cfg := MapCfg.ofBytes m.head.cfg
    let ed := (m.head.ed + 1) % 2 ^ 32
    let img : MapImage := { edition := ed, mapVa := m.va, cfg := m.head.cfg, entries := b.entries }
    let t := s.unitWrite (m.pa + imageOff slot) img.bytes r.asid
    let h := { m.head with cur := slot }
    let retire := decide (m.head.pinsOf m.head.cur = 0)
    if !s.taskRoom r.part b.probes.length || (retire && t.retireWaits m.pa h r.part m.head.cur) then none
    else
      let (recs, t) := b.probes.foldl (fun (x : List ArgRec × State) i =>
        let (k, u) := x.2.postTask (linkTask 6 (m.va + recOff i) cfg r.asid)
        (match x.1[i]? with | some a => x.1.set i { a with probe := k } | none => x.1, u)) (b.recs, t)
      let t := t.writeRecs m.pa r.asid recs
      let t := t.unitWrite (m.pa + 8) (leBytes 4 ed ++ leBytes 1 slot) r.asid
      let t := t.unitWriteNat (m.pa + 16) 4 b.nextid r.asid
      some (if retire then t.retireSlot m.pa h r.part m.head.cur else t, ed)

/-- The end of a select: an ERRATA task posted for its record, once there is room for it (R362). -/
def State.commitSelect (s : State) (m : LinkMap) (r : LinkReq) (b : LinkBuild) (i : Nat) : Option (State × Nat) :=
  if !s.taskRoom r.part 1 then none
  else
    let (t, s) := s.postTask (linkTask 7 (m.va + recOff i) (MapCfg.ofBytes m.head.cfg) r.asid)
    let recs := match b.recs[i]? with | some a => b.recs.set i { a with errata := t } | none => b.recs
    some (s.writeRecs m.pa r.asid recs, m.head.ed)

/-- What an operation has built is committed at the map, as it stands now; none while it waits. -/
def State.linkCommit (s : State) (r : LinkReq) (b : LinkBuild) : Option (State × Nat) :=
  if s.mapBusy r.mapPa then none
  else
    match s.linkMap r.mapPa r.mapVa r.part with
    | .error _ => none
    | .ok m =>
      match b.errata with
      | none => s.commitEdition m r b
      | some i => s.commitSelect m r b i

/-- End of a map's last entry. -/
def MapImage.finish (m : MapImage) : Nat := ((m.entries.getLast?).map fun e => e.base + e.n).getD 0

/-- insert (R361). [DEDUCED, log 59, unsafe] -/
def State.linkInsert (s : State) (m : LinkMap) (r : LinkReq) (own : Option Nat) (c : Catalogue) : LinkOutcome :=
  let slot := bitsOf r.w0.toNat 27 24
  let x := bitsOf r.w0.toNat 23 0
  if s.catStopped then .wait
  else if 2 ^ c.k ≤ x then .trap .linkState
  else if s.catBusy c x then .wait
  else
    let s := s.catVisit c [x]
    match s.catRead c x with
    | .error e => .trap e.trap
    | .ok g =>
      let es := m.img.entries
      if g.state ≠ 2 ∨ leBytes 5 g.geo ≠ m.head.cfg.take 5 then .trap .linkState
      else if es.length = 15 then .done s 1 m.head.ed
      else if es.length < slot then .done s 2 m.head.ed
      else if 2 ^ 24 < m.img.finish + g.n then .done s 4 m.head.ed
      else
        let base := match es[slot - 1]? with | some e => if slot = 0 then 0 else e.base + e.n | none => 0
        let new : MapEntry := { call := g.call, base := base, n := g.n, idx := x, iid := m.head.nextid, data := g.data,
                                patch := 0, rstate := 0, arec := 0, rgen := 0 }
        let later := (es.drop slot).map fun (e : MapEntry) => { e with base := e.base + g.n }
        let k : LinkWork := { s := s, entries := es.take slot ++ new :: later, recs := m.recs, probes := [] }
        (k.mark m.va own slot).build ((m.head.nextid + 1) % 2 ^ 32)

/-- unlink (R361). -/
def State.linkRemove (s : State) (m : LinkMap) (r : LinkReq) (own : Option Nat) : LinkOutcome :=
  let es := m.img.entries
  match es.findIdx? fun e => e.iid == r.w0.toNat with
  | none => .done s 3 m.head.ed
  | some i =>
    match es[i]? with
    | none => .done s 3 m.head.ed
    | some e =>
      let k : LinkWork := { s := s, entries := es, recs := m.recs, probes := [] }
      let k := k.cancel m.va own e
      let later := (es.drop (i + 1)).map fun (x : MapEntry) => { x with base := x.base - e.n }
      let k := { k with entries := es.take i ++ later }
      (k.mark m.va own i).build m.head.nextid

/-- P's m, iid and rgen, as its home holds them in the caller's address space (R364). -/
def State.patchHead? (s : State) (r : LinkReq) (va : Nat) : Option (Nat × Nat × Nat) :=
  match s.virtBytes (fun ea => s.placeUnit r.part r.asid ea .r) 8 10 va with
  | .ok bs => some (blockField bs 0 4, blockField bs 4 4, blockField bs 8 2)
  | .error _ => none

/-- The patch block goes with the record's selection list and the entry (R362). [DESIGN CHOICE, log 61, unsafe] -/
def State.patchAgrees (s : State) (r : LinkReq) (e : MapEntry) (a : ArgRec) : Bool :=
  match s.patchHead? r r.w2.toNat, s.patchHead? r a.sel with
  | some (m, iid, rgen), some (n, _, _) => m == n && iid == e.iid && rgen == e.rgen
  | _, _ => false

/-- select and patch (R362). [DESIGN CHOICE, log 61, unsafe] -/
def State.linkRepair (s : State) (m : LinkMap) (r : LinkReq) (own : Option Nat) : LinkOutcome :=
  let patch := bitsOf r.w0.toNat 31 30 == 2
  let stale := LinkOutcome.done (s.postRelease r.part r.w2.toNat) 5 m.head.ed
  match m.img.entries.findIdx? fun e => e.iid == r.w1.toNat with
  | none => stale
  | some i =>
    match m.img.entries[i]? with
    | none => stale
    | some e =>
      match m.recs[e.arec]? with
      | none => stale
      | some a =>
        let k : LinkWork := { s := s, entries := m.img.entries, recs := m.recs, probes := [] }
        if e.rgen ≠ bitsOf r.w0.toNat 15 0 ∨ e.rstate ≠ 1 ∨ a.iid ≠ e.iid then stale
        else if patch then
          if a.state ≠ 2 ∨ !s.patchAgrees r e a then stale
          else
            LinkWork.build { k with entries := k.entries.set i { e with patch := r.w2.toNat, rstate := 2 },
                                    recs := k.recs.set e.arec { a with state := 0 } } m.head.nextid
        else if a.state ≠ 1 then stale
        else
          .build (s.unpost a.probe (m.va + recOff e.arec) own)
            { entries := [], recs := m.recs.set e.arec { a with sel := r.w2.toNat, state := 2 }, probes := [],
              nextid := m.head.nextid, errata := some e.arec }

/-- An operation at its map's home (R361, R362); `own` is the task that is completing (R386). [DEDUCED, log 60, unsafe] -/
def State.linkRun (s : State) (r : LinkReq) (own : Option Nat) : LinkOutcome :=
  match s.catalogue? r.part with
  | none => .trap .linkState
  | some c =>
    if s.mapBusy r.mapPa then .wait
    else
      let s := s.visit r.mapPa 16384 r.asid
      match s.linkMap r.mapPa r.mapVa r.part with
      | .error e => .trap e
      | .ok m =>
        if r.unlink then s.linkRemove m r own
        else if bitsOf r.w0.toNat 31 30 = 0 then s.linkInsert m r own c
        else s.linkRepair m r own

/-- Fields of a LINK request that must be 0, and op 3 (R360). -/
def linkBad (w0 w1 : Word) (w2 : DWord) : Bool :=
  let op := bitsOf w0.toNat 31 30
  op == 3 || bitsOf w0.toNat 29 28 != 0 || (op == 0 && (w1 != 0 || w2 != 0)) || (op != 0 && bitsOf w0.toNat 23 16 != 0)

/-! ## LINK and UNLINK (R360) -/

/-- The operation has reached its map's home. -/
def State.linkArrived (s : State) (o : LinkOp) : Bool :=
  match o.release with | some r => !(s.releases.any (·.id == r)) | none => true

/-- An earlier operation on the same map waits there (R361). -/
def State.linkBehind (s : State) (l : List LinkOp) (pa : Nat) : Bool := l.any fun o => o.req.mapPa == pa && s.linkArrived o

/-- The reply at the path that waits for it: status and edition, or a trap (R360). [DEDUCED, log 60, unsafe; DEDUCED, log 115, safe] -/
def State.linkReply (s : State) (o : LinkOp) (r : Except TrapCode (Nat × Nat)) : State :=
  match o.wave.bind fun id => (s.wave? id).bind fun w => (w.paths.find? fun p => p.stage == .link o.id).map fun p => (w, p) with
  | none => s
  | some (w, p) =>
    match r with
    | .error c =>
      let s := s.modPath w.id p.tag fun q => { q with stage := .none }
      let w := w.modPath p.tag fun q => { q with stage := .none }
      if c = .linkState then s.trap w p o.word linkState
      else
        let (info, s) := s.freeMem c p.mask
        s.trap w p o.word info
    | .ok (st, ed) =>
      let s := s.acquire w.core .dev
      s.modWave w.id fun x =>
        (x.deliver p o.dst.isNone (match o.dst with | some r => .s r | none => .zero) false 0
          [splat (BitVec.ofNat 32 st), splat (BitVec.ofNat 32 ed)]).retire p.tag (p.pc + 4) 1

/-- The operation leaves the list. -/
def State.dropLink (s : State) (o : LinkOp) : State := { s with linkOps := s.linkOps.filter fun x => x.id != o.id }
/-- What an operation has built stands with it. -/
def State.keepWork (s : State) (o : LinkOp) (b : LinkBuild) : State :=
  { s with linkOps := s.linkOps.map fun (x : LinkOp) => if x.id = o.id then { x with work := some b } else x }

/-- What an operation has built is committed, and it is over; else it keeps that and waits (R361). -/
def State.linkEnd (s : State) (o : LinkOp) (b : LinkBuild) : State :=
  match (s.dropLink o).linkCommit o.req b with
  | some (t, ed) => t.linkReply o (.ok (0, ed))
  | none => s.keepWork o b

/-- An operation at its map's home goes as far as it can (R361, R362). -/
def State.linkGo (s : State) (o : LinkOp) (own : Option Nat) : State :=
  match o.work with
  | some b => s.linkEnd o b
  | none =>
    match s.linkRun o.req own with
    | .wait => s
    | .trap c => (s.dropLink o).linkReply o (.error c)
    | .done t st ed => (t.dropLink o).linkReply o (.ok (st, ed))
    | .build t b => t.linkEnd o b

/-- The request of LINK or UNLINK, checked at the core: the map's place, and what is refused there (R360). -/
def State.linkCheck (s : State) (w : Wave) (p : Path) (va : Nat) : Except TrapInfo Nat :=
  if va % 16384 ≠ 0 then .error (TrapInfo.mem .memAlign p.mask va)
  else
    match s.place w va 1 .rw with
    | .error c => .error (TrapInfo.mem c p.mask va)
    | .ok pa => .ok pa

/-- The body of LINK and UNLINK. [DEDUCED, log 58, safe] -/
def linkBody (i : Instr) (unlink nw : Bool) (d a : Operand) (w0 w1 : Word) (w2 : DWord) (w : Wave) (p : Path) (s : State) : Result :=
  match p.stage with
  | .link _ => s.stall
  | _ =>
    let va := (scalar64 w a).toNat
    match s.linkCheck w p va with
    | .error info => .next (s.trap w p (wordOfInstr i) info)
    | .ok pa =>
      if (s.catalogue? w.part).isNone || (!unlink && linkBad w0 w1 w2) then .next (s.trap w p (wordOfInstr i) linkState)
      else
        let r : LinkReq := { unlink := unlink, mapVa := va, mapPa := pa, w0 := w0, w1 := w1, w2 := w2, asid := w.asid, part := w.part }
        match (if !unlink && nw then s.versionOf? w else none) with
        | some v => .next ((s.modVersion v.part v.ver fun v => { v with links := v.links ++ [r] }).result w p nw d false [splat 0, splat 0])
        | none =>
          let (rel, s) := if w.isDet then (none, s) else s.beginRelease w .dev
          let (id, s) := s.fresh
          let o : LinkOp := { id := id, wave := some w.id, req := r, release := rel, work := none,
                              dst := if nw then none else some (scaReg d), word := wordOfInstr i }
          let behind := s.linkBehind s.linkOps pa
          let s := { s with linkOps := s.linkOps ++ [o] }
          let s := s.modCurPath fun q => { q with stage := .link id, swDone := true }
          .next (if !s.linkArrived o || behind then s else s.linkGo o none)

/-- The words of a LINK request. -/
def linkWords (w : Wave) (b : Operand) : Word × Word × DWord :=
  match b with
  | .s r => (w.s[r], w.sreg (r.val + 1), join64 (w.sreg (r.val + 2)) (w.sreg (r.val + 3)))
  | _ => (0, 0, 0)

/-- LINK (R360 to R362). -/
def execLink (nw : Bool) (d a b : Operand) (s : State) : Result :=
  runCard (.link nw d a b) (fun w _ =>
    { pipeCard (onlyLaunched w) ((if nw then [] else [.group isSca 2 2 d]) ++ [baseField a, .group isSca 4 4 b]) []
      (fun w p s =>
        let (w0, w1, w2) := linkWords w b
        linkBody (.link nw d a b) false nw d a w0 w1 w2 w p s) with
      race := true, irrev := !nw, sync := true }) s

/-- UNLINK (R360, R361). [DEDUCED, log 62, safe] -/
def execUnlink (nw : Bool) (d a b : Operand) (s : State) : Result :=
  runCard (.unlink nw d a b) (fun w _ =>
    { pipeCard (onlyLaunched w) ((if nw then [] else [.group isSca 2 2 d]) ++ [baseField a, .src b]) [.src b]
      (fun w p s => linkBody (.unlink nw d a b) true nw d a (srcUni w p b) 0 0 w p s) with
      race := true, irrev := true, sync := true }) s

/-- The k-th operation, where it stands at its map's home behind no other. -/
def State.linkAt? (s : State) (k : Nat) : Option LinkOp :=
  match s.linkOps[k]? with
  | some o => if s.linkArrived o && !s.linkBehind (s.linkOps.take k) o.req.mapPa then some o else none
  | none => none

/-- The operation makes no edition: a select (R362). -/
def LinkReq.isSelect (r : LinkReq) : Bool := !r.unlink && bitsOf r.w0.toNat 31 30 == 1

/-- LINK_METHOD: the method checks the request at the map's home; refusals, statuses and selects end there, and of an edition
the records are cancelled (R361, R362). -/
def execLinkMethod (k : Nat) (s : State) : Result :=
  match s.linkAt? k with
  | none => notEnabled
  | some o =>
    if o.work.isSome then notEnabled
    else
      match s.linkRun o.req none with
      | .wait => notEnabled
      | .build t b => .next (if o.req.isSelect then t.linkEnd o b else t.keepWork o b)
      | _ => .next (s.linkGo o none)

/-- EDITION_COMMIT (R361). -/
def execEditionCommit (k : Nat) (s : State) : Result :=
  match s.linkAt? k with
  | none => notEnabled
  | some o =>
    match o.work with
    | none => notEnabled
    | some b =>
      match (s.dropLink o).linkCommit o.req b with
      | some (t, ed) => .next (t.linkReply o (.ok (0, ed)))
      | none => notEnabled

/-- A LINK that a version held, performed as its task completes; one that has to wait does so at the map (R362, R386). [DESIGN CHOICE, log 63, safe] -/
def State.heldLink (s : State) (own : Nat) (r : LinkReq) : State :=
  let (id, s) := s.fresh
  let o : LinkOp := { id := id, wave := none, req := r, release := none, work := none, dst := none, word := 0 }
  let t := { s with linkOps := s.linkOps ++ [o] }
  if s.linkBehind s.linkOps r.mapPa then t else t.linkGo o (some own)

/-! ## Pins (R365) -/

/-- A slot's pin count written. -/
def State.setPins (s : State) (pa k n : Nat) (asid : BitVec 8) : State := s.unitWriteNat (pa + 24 + 2 * k) 2 n asid

/-- CTXPIN. -/
def execCtxpin (nw : Bool) (d a : Operand) (s : State) : Result :=
  runCard (.ctxpin nw d a) (fun w _ =>
    { pipeCard (onlyLaunched w) ((if nw then [] else [.group isSca 2 2 d]) ++ [baseField a]) [] (fun w p s =>
        let i := Instr.ctxpin nw d a
        let va := (scalar64 w a).toNat
        match s.linkCheck w p va with
        | .error info => .next (s.trap w p (wordOfInstr i) info)
        | .ok pa =>
          if w.pin.isSome then .next (s.trap w p (wordOfInstr i) linkState)
          else if s.mapBusy pa then s.stall
          else
            match s.mapHead pa w.part with
            | .error .linkState => .next (s.trap w p (wordOfInstr i) linkState)
            | .error c => .next (s.trap w p (wordOfInstr i) (TrapInfo.mem c p.mask va))
            | .ok h =>
              let s := (s.visit pa 128 w.asid).acquire w.core .dev
              if 65535 ≤ h.pinsOf h.cur then .next (s.result w p nw d false [splat 0, splat 0])
              else
                let s := s.setPins pa h.cur (h.pinsOf h.cur + 1) w.asid
                let s := s.modWave w.id fun x => { x with pin := some (va, pa, Fin.ofNat 8 h.cur) }
                let r := BitVec.ofNat 64 (va + imageOff h.cur)
                .next (s.result w p nw d false [splat (lo32 r), splat (hi32 r)])) with
      sync := true }) s

/-- A pin released: the slot loses it, and is retired where nothing keeps it live (R365, R359). -/
def State.unpin (s : State) (w : Wave) : Except TrapCode State :=
  match w.pin with
  | none => .error .linkState
  | some (_, pa, k) =>
    match s.mapHead pa w.part with
    | .error c => .error c
    | .ok h =>
      let s := s.visit pa 128 w.asid
      let n := h.pinsOf k.val - 1
      let s := s.setPins pa k.val n w.asid
      let h' := { h with pins := h.pins.set k.val n }
      let s := s.modWave w.id fun x => { x with pin := none }
      .ok (if h'.live k.val then s else s.retireSlot pa h' w.part k.val)

/-- The retirement that the release of the wave's pin brings with it waits for the catalogue (R353). -/
def State.unpinWaits (s : State) (w : Wave) : Bool :=
  match w.pin with
  | none => false
  | some (_, pa, k) =>
    match s.mapHead pa w.part with
    | .error _ => false
    | .ok h =>
      let h' := { h with pins := h.pins.set k.val (h.pinsOf k.val - 1) }
      !h'.live k.val && s.retireWaits pa h' w.part k.val

/-- What CTXUNPIN waits for: earlier loads, and commands that gather through the pin (R365). -/
def State.pinLoads (_ : State) (w : Wave) : Bool :=
  w.inflight.any fun x => (x.kind == .load || x.kind == .loadAcquire) && !x.settled
def State.pinCommands (s : State) (w : Wave) : Bool :=
  (s.core w.core).engine.any fun c => c.req.wave == w.id && c.image.isSome

/-- CTXUNPIN. -/
def execCtxunpin (s : State) : Result :=
  runCard .ctxunpin (fun w _ =>
    { pipeCard (onlyLaunched w) [] [] (fun w p s =>
        match w.pin with
        | none => .next (s.trap w p (wordOfInstr .ctxunpin) linkState)
        | some (va, pa, _) =>
          if s.pinLoads w then s.stall
          else if s.pinCommands w then s.awaitCommands w
          else if s.mapBusy pa || s.unpinWaits w then s.stall
          else
            match s.unpin w with
            | .error .linkState => .next (s.trap w p (wordOfInstr .ctxunpin) linkState)
            | .error c => .next (s.trap w p (wordOfInstr .ctxunpin) (TrapInfo.mem c p.mask va))
            | .ok s => .next (s.advance p 1)) with
      sync := true }) s

end Sys2Proof.Machine
end

