-- ==== Sys2Proof/Machine/TaskOps.lean ====
section
/-! DEFINITION. The TASK group and the task unit (R371 to R382), irrevocability (R327). -/

namespace Sys2Proof.Machine

/-! ## Handing out (R371, R375) -/

/-- A running irrevocable task of the sequence (R327, R371). -/
def State.irrevocableSeq (s : State) (asid : BitVec 8) (seq : BitVec 32) : Bool :=
  s.waves.any fun w => w.asid == asid && (match w.task with
    | some h => h.mode == .irrevocable && (s.task h.index).seq == seq
    | none => false)

/-- The task that a TKPULL of an ASID takes (R371). -/
def State.pickTask? (s : State) (asid : BitVec 8) (part : Fin 32) (mask : BitVec 8) : Option Nat :=
  s.readyOrder.find? fun x =>
    let e := s.task x
    e.asid == asid && mask.getLsbD e.type.toNat && (!e.vt || (s.freeVersion? part).isSome) && !s.irrevocableSeq asid e.seq

/-- A fresh version. -/
def Version.fresh (part : Fin 32) (ver : Nat) : Version :=
  { part := part, ver := ver, bytes := [], written := [], stamps := [], claimed := [], atomics := [], links := [] }

/-- The task becomes the wave's (R375); `pull` is the pull point (R325). -/
def State.takeTask (s : State) (w : Wave) (x pull : Nat) : State :=
  let e := s.task x
  let v := (s.freeVersion? w.part).getD 0
  let s := { s with readyOrder := s.readyOrder.filter (· != x) }
  let s := s.setTask x { e with state := .running, ver := if e.vt then BitVec.ofNat 12 v else 0 }
  let s := if e.vt then { s with versions := s.versions ++ [Version.fresh w.part v] } else s
  let h : TaskHold := { index := x, mode := if e.vt then .versioned v else .plain, pull := pull }
  s.modWave w.id fun y => { y with task := some h, special := y.special.set 13 (BitVec.ofNat 32 x) }

/-- A TKPULL answered: the path retires, its destination pending until it is next named; an acquire at dev scope (R372,
R375). -/
def State.handOut (s : State) (w : Wave) (p : Path) (d : Fin 64) (x : Nat) : State :=
  let arg := BitVec.ofNat 64 ((s.task x).arg.toNat * 8)
  let s := s.takeTask w x p.pc
  let (id, s) := (s.acquire w.core .dev).fresh
  let f := { Inflight.new id .tkpull [.s d, .s (d + 1)] true p.mask p.pc with vals := [splat (lo32 arg), splat (hi32 arg)] }
  s.defer w p f 1

/-- TKPULL (R375). -/
def execTkpull (d a : Operand) (s : State) : Result :=
  runCard (.tkpull d a) (fun w _ =>
    { pipeCard (onlyLaunched w && w.task.isNone) [.group isSca 2 2 d, .src a] [.src a] (fun w p s =>
        let mask := (srcUni w p a).setWidth 8
        if !s.releasedFor w then s.awaitRelease w
        else
          match s.pickTask? w.asid w.part mask with
          | some x => .next (s.handOut w p (scaReg d) x)
          | none => .next (s.block (.task mask (scaReg d)))) with
      switch := true, blocking := true, race := true, drains := true, sync := true }) s

/-- The path of a wave that waits in TKPULL. -/
def Wave.pulling? (w : Wave) : Option (Path × BitVec 8 × Fin 64) :=
  w.paths.findSome? fun p => match p.status with
    | .blocked (.task m d) => some (p, m, d)
    | _ => none

/-- TASK_HANDOUT: a waiting TKPULL is given its task (R371, R375). -/
def execTaskHandout (w : Nat) (s : State) : Result :=
  match s.wave? w with
  | none => notEnabled
  | some x =>
    if x.frozen.isSome || x.stopped || x.stopReq || x.isDet then notEnabled
    else
      match x.pulling? with
      | none => notEnabled
      | some (p, m, d) =>
        match s.pickTask? x.asid x.part m with
        | some t => .next (s.handOut x p d t)
        | none => notEnabled

/-! ## The other functions (R373, R374) -/

/-- Fields of a function with a scalar result. -/
def taskFields (nw : Bool) (d : Operand) (src : Field) : List Field := (if nw then [] else [.group isSca 1 1 d]) ++ [src]

/-- A reply: a scalar result, with an acquire at dev scope (R372, R373). [DEDUCED, log 115, safe] -/
def State.taskReply (s : State) (w : Wave) (p : Path) (nw : Bool) (d : Operand) (x : Word) : Result :=
  .next ((s.acquire w.core .dev).result w p nw d false [splat x])

/-- A post block (R374). -/
structure PostBlock where
  arg : Nat
  succ : Nat
  seq : Nat
  iter : Nat
  layer : Nat
  lin : Nat
  type : Nat
  vt : Bool
  dep : Nat
  /-- No reserved bit is set, the type is none of the reserved ones, the pointers are aligned (R373). -/
  ok : Bool
  deriving DecidableEq, Repr

/-- The fields of a post block (R373). [DEDUCED, log 65, unsafe] -/
def PostBlock.ofBytes (bs : List Byte) : PostBlock :=
  let f := blockField bs
  { arg := f 0 8, succ := f 8 8, seq := f 16 4, iter := f 20 4, layer := f 24 2, lin := f 26 2, type := f 28 1 % 16,
    vt := f 29 1 % 2 == 1, dep := f 30 2,
    ok := decide (f 28 1 < 8 ∧ f 29 1 < 2) && f 0 8 % 8 == 0 && f 8 8 % 8 == 0 && decide (f 0 8 < 2 ^ 55 ∧ f 8 8 < 2 ^ 55) }

/-- The entry of a posted task. -/
def PostBlock.entry (b : PostBlock) (asid : BitVec 8) : TaskEntry :=
  { TaskEntry.empty with succ := BitVec.ofNat 52 (b.succ / 8), arg := BitVec.ofNat 52 (b.arg / 8), seq := BitVec.ofNat 32 b.seq,
                         iter := BitVec.ofNat 32 b.iter, layer := BitVec.ofNat 16 b.layer, lin := BitVec.ofNat 16 b.lin, vt := b.vt,
                         dep := BitVec.ofNat 16 b.dep, type := BitVec.ofNat 4 b.type, asid := asid, state := .waiting }

/-- TKPOST at the task unit. With a nonzero status there is no index to report: a free value. [DEDUCED, log 65, unsafe; DESIGN CHOICE, log 67, safe] -/
def State.taskPost (s : State) (w : Wave) (b : PostBlock) : Word × State :=
  let fail := fun (st : Nat) =>
    let (k, s) := s.takeFree
    (BitVec.ofNat 32 (st * 2 ^ 29 + (Config.freeWord k).toNat % 2 ^ 18), s)
  if !b.ok then fail 2
  else if !s.taskRoom w.part 1 then fail 1
  else
    let (x, s) := s.postTask (b.entry w.asid)
    (BitVec.ofNat 32 x, s)

/-- TKPOST. -/
def execTkpost (nw : Bool) (d a : Operand) (s : State) : Result :=
  runCard (.tkpost nw d a) (fun w _ =>
    { pipeCard (onlyLaunched w) (taskFields nw d (baseField a)) [] (fun w p s =>
        let i := Instr.tkpost nw d a
        let ea := (scalar64 w a).toNat
        match blockAddrFault? ea 32 with
        | some c => .next (s.trap w p (wordOfInstr i) (TrapInfo.mem c p.mask ea))
        | none =>
          let s := s.settleHolds w.id
          if s.held w [.load] [ea] [] then s.stall
          else
            match s.blockSync w ea with
            | some s => s.stall
            | none =>
              let s := s.blockRead w ea
              match s.blockBytes w ea 32 with
              | .error c => .next (s.trap w p (wordOfInstr i) (TrapInfo.mem c p.mask ea))
              | .ok bs =>
                if !s.releasedFor w then s.awaitRelease w
                else
                  let (x, s) := s.taskPost w (PostBlock.ofBytes bs)
                  s.taskReply w p nw d x) with
      race := true, drains := true, sync := true }) s

/-- TKCANCEL (R377). -/
def execTkcancel (nw : Bool) (d a : Operand) (s : State) : Result :=
  runCard (.tkcancel nw d a) (fun w _ =>
    { pipeCard (onlyLaunched w) (taskFields nw d (.group isSca 2 2 a)) [] (fun w p s =>
        let x := scalar64 w a
        if !s.releasedFor w then s.awaitRelease w
        else
          let (n, s) := s.cancelSeq w.asid (lo32 x) (hi32 x).toNat none
          s.taskReply w p nw d (BitVec.ofNat 32 n)) with
      race := true, drains := true, sync := true }) s

/-- The index names an entry of the ASID (R373). -/
def State.ownsTask (s : State) (asid : BitVec 8) (x : Nat) : Bool :=
  decide (x < taskCount) && (s.task x).state != .free && (s.task x).asid == asid

/-- The resume ring of a partition (R380). -/
def State.resumeRing? (s : State) (p : Fin 32) : Option Ring := s.ring? (Reg.tkRqBase p) (Reg.tkRqWr p) (Reg.tkRqRd p)

/-- A resume record (R380). -/
def resumeRecord (x : Nat) (e : TaskEntry) (va : Nat) : List Byte :=
  leBytes 4 x ++ leBytes 4 e.seq.toNat ++ leBytes 2 e.layer.toNat ++ leBytes 2 e.lin.toNat ++ leBytes 4 e.iter.toNat
    ++ leBytes 8 va ++ leBytes 8 0

/-- TKPARK at the task unit: its status and the state after, or none while the ring is full (R374, R380). [DESIGN CHOICE, log 66, unsafe] -/
def State.park? (s : State) (asid : BitVec 8) (part : Fin 32) (x va : Nat) : Option (Nat × State) :=
  if !s.ownsTask asid x then some (3, s)
  else if (s.task x).state ≠ .faulted then some (4, s)
  else
    match s.resumeRing? part with
    | none => some (4, s)
    | some r =>
      if !r.room || !s.serves (r.next 32 / 128) then none
      else
        let e := s.task x
        some (0, (s.ringWrite r (Reg.tkRqWr part) (resumeRecord x e va)).setTask x { e with state := .parked })

/-- TKPARK. [DEDUCED, log 58, safe; DESIGN CHOICE, log 66, unsafe] -/
def execTkpark (nw : Bool) (d a : Operand) (s : State) : Result :=
  runCard (.tkpark nw d a) (fun w _ =>
    { pipeCard (onlyLaunched w) (taskFields nw d (.group isSca 4 4 a)) [] (fun w p s =>
        match p.stage with
        | .park _ => s.stall
        | _ =>
          let (x, z, va) := linkWords w a
          if !s.releasedFor w then s.awaitRelease w
          else if z ≠ 0 then s.taskReply w p nw d 2
          else
            match s.park? w.asid w.part x.toNat va.toNat with
            | some (st, s) => s.taskReply w p nw d (BitVec.ofNat 32 st)
            | none =>
              let (id, s) := s.fresh
              let h : HeldPark := { id := id, wave := w.id, part := w.part, asid := w.asid, index := x.toNat, va := va.toNat,
                                    dst := if nw then none else some (scaReg d) }
              let s := { s with heldParks := s.heldParks ++ [h] }
              .next (s.modCurPath fun q => { q with stage := .park id, swDone := true })) with
      race := true, drains := true, sync := true }) s

/-- RESUME_RECORD_APPEND: the held TKPARK of a partition that has waited longest is performed (R374). -/
def execResumeRecordAppend (p : Fin 32) (s : State) : Result :=
  match s.heldParks.find? fun h => h.part == p with
  | none => notEnabled
  | some h =>
    match s.park? h.asid h.part h.index h.va with
    | none => notEnabled
    | some (st, s) =>
      let s := { s with heldParks := s.heldParks.filter fun x => x.id != h.id }
      match (s.wave? h.wave).bind fun w => (w.paths.find? fun q => q.stage == .park h.id).map fun q => (w, q) with
      | none => .next s
      | some (w, q) =>
        .next ((s.acquire w.core .dev).modWave w.id fun x =>
          (x.deliver q h.dst.isNone (match h.dst with | some r => .s r | none => .zero) false 0 [splat (BitVec.ofNat 32 st)]).retire
            q.tag (q.pc + 4) 1)

/-- The new iteration is later (R374). -/
def laterIter (new old : Word) : Bool := let d := (new - old).toNat; decide (1 ≤ d ∧ d < 2 ^ 31)

/-- TKRESUME. [DESIGN CHOICE, log 66, unsafe] -/
def execTkresume (nw : Bool) (d a : Operand) (s : State) : Result :=
  runCard (.tkresume nw d a) (fun w _ =>
    { pipeCard (onlyLaunched w) (taskFields nw d (.group isSca 2 2 a)) [] (fun w p s =>
        let v := scalar64 w a
        let x := (lo32 v).toNat
        let e := s.task x
        if !s.releasedFor w then s.awaitRelease w
        else if !s.ownsTask w.asid x then s.taskReply w p nw d 3
        else if e.state ≠ .faulted ∧ e.state ≠ .parked then s.taskReply w p nw d 4
        else if !laterIter (hi32 v) e.iter then s.taskReply w p nw d 2
        else ((s.setTask x { e with iter := hi32 v }).readyTask x).taskReply w p nw d 0) with
      race := true, drains := true, sync := true }) s

/-! ## TKDONE (R376) -/

/-- Bytes at a virtual address as the wave reads them from the homes, its own writes first. -/
def State.taskBytes (s : State) (w : Wave) : Nat → Nat → Except (TrapCode × Nat) (List Byte)
  | 0, _ => .ok []
  | n + 1, ea =>
    match s.place w ea 1 .r with
    | .error c => .error (c, ea)
    | .ok pa =>
      match (match s.ownBytes w pa 1 with | [some b] => Except.ok b | _ => s.homeByte pa) with
      | .error e => .error (e.trap, ea)
      | .ok b =>
        match State.taskBytes s w n (ea + 1) with
        | .error e => .error e
        | .ok l => .ok (b :: l)

/-- The virtual addresses of the words of an entry's successor list. -/
def State.succEas (s : State) (w : Wave) (e : TaskEntry) : List Nat :=
  if e.succ = 0 then []
  else
    let va := e.succ.toNat * 8
    let c := match s.taskBytes w 4 va with | .ok bs => min 64 (leNat bs) | .error _ => 0
    (List.range (c + 1)).map fun k => va + 4 * k

/-- The lines that hold the words. -/
def State.succLines (s : State) (w : Wave) (e : TaskEntry) : List Nat :=
  ((s.succEas w e).filterMap fun ea => match s.place w ea 1 .r with | .ok pa => some (pa / 128) | .error _ => none).eraseDups

/-- The successors that an entry lists; a count above 64 is read as 64. -/
def State.successors (s : State) (w : Wave) (e : TaskEntry) : Except (TrapCode × Nat) (List Nat) :=
  if e.succ = 0 then .ok []
  else do
    let va := e.succ.toNat * 8
    let c := min 64 (leNat (← s.taskBytes w 4 va))
    let l ← s.taskBytes w (4 * c) (va + 4)
    return (List.range c).map fun k => leNat ((l.drop (4 * k)).take 4)

/-- One successor's count of predecessors falls (R376). -/
def State.releaseSucc (s : State) (asid : BitVec 8) (y : Nat) : State :=
  let e := s.task y
  if y < taskCount ∧ e.state = .waiting ∧ e.asid = asid then
    let d := e.dep - 1
    if d = 0 then (s.setTask y { e with dep := 0 }).readyTask y else s.setTask y { e with dep := d }
  else s

/-- A version committed: its bytes at one instant, then its atomics, then its LINKs (R186, R129, R362, R376). -/
def State.commitVersion (s : State) (w : Wave) (v : Version) (own : Nat) : State :=
  let s := (s.commitBytes v w.core w.asid w.master).unversion w.part v.ver
  v.links.foldl (fun s r => s.heldLink own r) s

/-- The end of a task whose successors are known (R376). -/
def State.finishTask (s : State) (w : Wave) (h : TaskHold) (succ : List Nat) : State :=
  let e := s.task h.index
  let s := match h.mode with
    | .versioned v => match s.version? w.part v with
      | some x => (s.commitVersion w x h.index).dropVersion w.part v
      | none => s
    | .irrevocable => s.dropVersion w.part e.ver.toNat
    | .plain => s
  let s := succ.foldl (fun s y => s.releaseSucc w.asid y) s
  (s.freeTask h.index).modWave w.id Wave.leaveTask

/-- TKDONE. [DEDUCED, log 21, safe] -/
def execTkdone (s : State) : Result :=
  runCard .tkdone (fun w _ =>
    { pipeCard (onlyLaunched w && w.task.isSome) [] [] (fun w p s =>
        match w.task with
        | none => .next (s.advance p 1)
        | some h =>
          if s.cancelPending w then .next (s.trap w p (wordOfInstr .tkdone) (s.cancelInfo h.index))
          else
            match s.successors w (s.task h.index) with
            | .error (c, ea) => .next (s.trap w p (wordOfInstr .tkdone) (TrapInfo.mem c p.mask ea))
            | .ok succ =>
              let e := s.task h.index
              let busy := !s.servesAll (s.succLines w e) || match s.versionOf? w with | some v => !s.commitReady v | none => false
              if !s.releasedFor w then s.awaitRelease w
              else if busy then s.stall
              else
                let s := (s.walked w (s.succEas w e)).readLines (s.succLines w e) w.asid w.master
                .next (((s.finishTask w h succ).acquire w.core .dev).advance p 1)) with
      race := true, cancels := true, drains := true, sync := true }) s

/-! ## Irrevocability (R327) -/

/-- Another task of the sequence holds a version. -/
def State.seqVersions (s : State) (w : Wave) (seq : BitVec 32) : Bool :=
  s.waves.any fun x => x.id != w.id && x.asid == w.asid && (match x.task with
    | some { index := i, mode := .versioned _, .. } => (s.task i).seq == seq
    | _ => false)

/-- The wave waits for irrevocability. -/
def Wave.awaitsIrrevocable (w : Wave) : Bool := w.paths.any fun p => p.status == .blocked .irrevocable

/-- The deferred result that a queued access replies to. -/
def ReleaseAct.infl? : ReleaseAct → Option Nat
  | .load d _ | .reads d _ | .lds d _ => some d
  | _ => Option.none

/-- What of the wave stands in its memory queue until its task is irrevocable, itself or behind such an access: the names of
the accesses and of the results they reply to (R327). -/
def State.behindCommit (s : State) (w : Nat) : List Nat × List Nat :=
  (s.releases.filter fun r => r.req.wave == w).foldl (fun (a : List Nat × List Nat) r =>
    if r.waits.irrevocable || r.waits.deps.any a.1.contains || r.waits.loads.any a.2.contains then
      (a.1 ++ [r.id], a.2 ++ r.act.infl?.toList)
    else a) ([], [])

/-- The release at dev scope that goes before the commit has nothing left to wait for but what the commit itself lets go (R186,
R327). -/
def State.commitDrained (s : State) (w : Wave) : Bool :=
  let (deps, _, s') := s.releaseDeps w .dev
  deps.all fun i => (s.behindCommit w.id).1.contains i || s'.performed i

/-- The wave's task can become irrevocable: no other task of its sequence holds a version, it is not cancelled, and every line
of its version can be written (R327, R377). -/
def State.canIrrevocable (s : State) (w : Wave) : Bool :=
  w.awaitsIrrevocable && w.frozen.isNone && !w.stopped && !w.stopReq && match w.task with
    | some { index := i, mode := .versioned v, .. } =>
      !(s.task i).cp && !s.seqVersions w (s.task i).seq && (match s.version? w.part v with | some x => s.commitReady x | none => true)
        && (w.isDet || s.commitDrained w)
    | _ => false

/-- The accesses that waited for the commit wait for the one before them only: they are performed in program order (R327). -/
def State.letGo (s : State) (w : Nat) : State :=
  let ids := (s.releases.filter fun r => r.req.wave == w && r.waits.irrevocable).map (·.id)
  { s with releases := s.releases.map fun r =>
      if r.req.wave = w ∧ r.waits.irrevocable then
        let before := (ids.takeWhile (· != r.id)).getLast?.toList
        { r with waits := { r.waits with irrevocable := false, deps := r.waits.deps ++ before } }
      else r }

/-- The task becomes irrevocable: its version is committed, and its accesses are no longer versioned. [DESIGN CHOICE, log 68, unsafe] -/
def State.makeIrrevocable (s : State) (w : Wave) : State :=
  let s := match w.task with
    | some { index := i, mode := .versioned v, .. } =>
      let s := match s.version? w.part v with
        | some x => s.commitVersion w x i
        | none => s
      s.modVersion w.part v fun _ => Version.fresh w.part v
    | _ => s
  (s.letGo w.id).modWave w.id fun x =>
    { x with outgrown := false, task := x.task.map (fun (h : TaskHold) => { h with mode := match h.mode with
                                                                              | .versioned _ => .irrevocable
                                                                              | m => m }) }

/-- The wave's global accesses of the queue, the held ones among them, have been performed. -/
def State.heldDone (s : State) (w : Nat) : Bool := !(s.releases.any fun r => r.req.wave == w && !r.act.lines.isEmpty)

/-- A wave whose task is irrevocable, and whose held accesses have been performed, wakes (R327). -/
def State.wakeCommitted (s : State) (w : Nat) : State :=
  s.modWave w fun x =>
    { x with paths := x.paths.map fun (p : Path) => if p.status = .blocked .irrevocable then { p with status := .ready } else p }

/-- TASK_IRREVOCABLE (R327): the release at dev scope starts, the task becomes irrevocable, and the wave wakes behind the accesses
that were held. -/
def execTaskIrrevocable (w : Nat) (s : State) : Result :=
  match s.wave? w with
  | none => notEnabled
  | some x =>
    if x.isDet || !x.awaitsIrrevocable || x.frozen.isSome || x.stopped || x.stopReq then notEnabled
    else if x.ver?.isNone then if s.heldDone w then .next (s.wakeCommitted w) else notEnabled
    else if s.canIrrevocable x then .next (s.makeIrrevocable x)
    else if !(s.core x.core).fifoLines.isEmpty then .next (s.drainFifo x.core)
    else notEnabled

end Sys2Proof.Machine
end

