-- ==== Sys2Proof/Machine/Launches.lean ====
section
/-! DEFINITION. Launch records (R281, R282), LAUNCH and the control cores' launch extension (R283 to R285), placement
and its rounds (R286 to R292), retirement (R290). -/

namespace Sys2Proof.Machine

/-! ## The record (R281, R282) -/

/-- The reserved bits of the record are 0, and every field lies in its range (R282). -/
def recordFields (f : Nat → Nat → Nat) : Bool :=
  let shape := f 8 8
  let res := f 16 8
  let q := f 24 4
  bitsOf (f 0 8) 63 55 == 0 && f 0 8 % 4 == 0 && bitsOf shape 63 51 == 0 && bitsOf res 63 50 == 0 && f 28 4 == 0
    && decide (1 ≤ bitsOf shape 47 32 ∧ 1 ≤ bitsOf shape 31 16 ∧ 1 ≤ bitsOf shape 15 0)
    && decide (bitsOf res 29 19 ≤ 1024 ∧ 1 ≤ bitsOf res 18 12 ∧ bitsOf res 18 12 ≤ 64 ∧ 1 ≤ bitsOf res 11 7
        ∧ bitsOf res 11 7 ≤ 16)
    && decide (q = 0 ∨ (256 ≤ q ∧ q ≤ 65536))
    && decide (f 64 8 % 8 = 0 ∧ f 80 8 % 8 = 0 ∧ f 96 8 % 8 = 0)

/-- A remap entry of the record (R160, R282). -/
def remapOk (scr : Nat) (w : Word) : Bool :=
  let r := Remap.ofWord w
  !r.flip && (!r.en || (decide (1 ≤ r.len) && decide (r.base + r.len ≤ scr ∧ r.alt + r.len ≤ scr)
    && decide (r.base + r.len ≤ r.alt ∨ r.alt + r.len ≤ r.base)))

/-- The record that 128 bytes hold. -/
def LaunchRec.ofBytes (bs : List Byte) : LaunchRec :=
  let f := blockField bs
  let shape := f 8 8
  let res := f 16 8
  let win := fun (o : Nat) =>
    let x := f o 8
    if bitsOf x 63 50 = 0 then [] else [({ base := 32 * bitsOf x 49 0, len := 32 * bitsOf x 63 50 } : Window)]
  { entry := f 0 8, dimx := bitsOf shape 15 0, dimy := bitsOf shape 31 16, dimz := bitsOf shape 47 32,
    stages := bitsOf shape 50 48 + 1, persist := bitsOf res 49 49 == 1, det := bitsOf res 48 48 == 1,
    prio := Fin.ofNat 4 (bitsOf res 47 46), qmask := BitVec.ofNat 16 (bitsOf res 45 30), scratch := 768 * bitsOf res 29 19,
    sregs := bitsOf res 18 12, vblk := bitsOf res 11 7, nwg := bitsOf res 6 5 + 1, nwv := bitsOf res 4 0 + 1,
    quantum := if f 24 4 = 0 then 2048 else f 24 4,
    remap := Vector.ofFn fun i => BitVec.ofNat 32 (f (32 + 4 * i.val) 4),
    deps := [(f 64 8, f 72 8), (f 80 8, f 88 8)], done := f 96 8,
    windows := win 104 ++ win 112 ++ win 120 }

/-- Grid points and gangs. -/
def LaunchRec.points (l : LaunchRec) : Nat := l.dimx * l.dimy * l.dimz
def LaunchRec.gangs (l : LaunchRec) : Nat := l.points * l.stages

/-- The checks of R282 that need no translation. -/
def LaunchRec.shapeOk (l : LaunchRec) (bs : List Byte) : Bool :=
  recordFields (blockField bs) && l.remap.toList.all (remapOk (l.scratch / 768))
    && l.windows.all (fun x => decide (x.base + x.len ≤ 2 ^ 55)) && decide (l.gangs * l.nwg ≤ 2 ^ 32)

/-- The launching context is a system context (R148). -/
def State.systemCtx (s : State) (asid : BitVec 8) : Bool := s.systemAsids.contains asid

/-- A translation in a context that no wave makes (R148, R282). [DESIGN CHOICE, log 73, unsafe] -/
def State.ctxTranslate (s : State) (asid : BitVec 8) (ea : Nat) (acc : Rights) : Except TrapCode Nat :=
  if 2 ^ 55 ≤ ea then .error .memFault
  else
    match s.walk asid ea with
    | .error e => .error e
    | .ok l =>
      let e := l.entry asid (ea / 65536)
      if (e.sys && !s.systemCtx asid) || !acc.within e.rd e.wr e.ex then .error .memProt
      else s.resolve s.homeBytes asid e ea false

/-- The lines of the tables that such a translation reads. -/
def State.ctxLines (s : State) (asid : BitVec 8) (ea : Nat) : List Nat :=
  s.walkLines s.homeBytes asid ea ++ (match s.walk asid ea with
    | .ok l =>
      let e := l.entry asid (ea / 65536)
      if e.bmi && e.names then (s.bmapAddr? asid e.frame).toList.map (· / 128) else []
    | .error _ => [])

/-- The lines that the acceptance of a record reads: those of the tables for its addresses. -/
def State.launchLines (s : State) (asid : BitVec 8) (l : LaunchRec) : List Nat :=
  ((l.deps.map (·.1) ++ [l.done]).filter (· != 0)).flatMap (s.ctxLines asid)

/-- The dependence words by physical address, and the completion counter; none where one does not translate (R282). [DESIGN CHOICE, log 73, unsafe] -/
def State.launchPas (s : State) (asid : BitVec 8) (l : LaunchRec) : Option (List (Nat × Nat) × Option Nat) := do
  let tr := fun (a : Nat) (acc : Rights) => (s.ctxTranslate asid a acc).toOption
  let deps ← (l.deps.filter fun d => d.1 != 0).mapM fun d => (tr d.1 .r).map fun pa => (pa, d.2)
  let done ← if l.done = 0 then some none else (tr l.done .rw).map some
  return (deps, done)

/-! ## Placement units (R286, R288) -/

/-- Clusters of a partition (R417): pair i of PARTCL is clusters 2i and 2i + 1. -/
def State.clustersOf (s : State) (p : Fin 32) : List (Fin 64) :=
  (List.finRange 64).filter fun c => s.regBit (Reg.partCl p.val) (c.val / 2)

/-- The launch is placed, saved and resumed as one set (R286, R287, R301). -/
def LaunchRec.whole (l : LaunchRec) : Bool := l.persist || l.det

/-- Placement units of a launch (R286). -/
def LaunchRec.unitCount (l : LaunchRec) : Nat := if l.whole then 1 else l.points
/-- Gangs of a unit. -/
def LaunchRec.unitGangs (l : LaunchRec) : Nat := if l.whole then l.gangs else l.stages
/-- cores(unit), charged at most 64 (R291). -/
def LaunchRec.unitCost (l : LaunchRec) : Nat := min 64 (l.unitGangs * l.nwg)

/-- Workgroups that an empty core holds (R27, R28, R164, R288); as many as there are where nothing bounds them. -/
def LaunchRec.perCore (l : LaunchRec) : Nat :=
  let waves := 31 * min 8 (16 / l.vblk) + min 7 (16 / l.vblk)
  let byWaves := waves / l.nwv
  let byScratch := if l.scratch = 0 then byWaves else min byWaves (786432 / l.scratch)
  if l.qmask = 0 then byScratch else min 1 byScratch

/-- Gangs that an empty cluster holds. -/
def LaunchRec.perCluster (l : LaunchRec) : Nat := 4 / l.nwg * l.perCore

/-- One placement unit exceeds the partition (R284). -/
def State.exceeds (s : State) (p : Fin 32) (l : LaunchRec) : Bool :=
  decide ((s.clustersOf p).length * l.perCluster < l.unitGangs)

/-! ## LAUNCH -/

/-- A launch is ready: each dependence word is at or above its count; a word that cannot be read is below it (R286). [DESIGN CHOICE, log 69, unsafe] -/
def State.depsMet (s : State) (l : Launch) : Bool :=
  l.depPas.all fun (pa, n) =>
    match s.unitRead pa 8 with
    | .ok x => decide (n ≤ x)
    | .error _ => false

/-- Free launch slots (R284). -/
def State.freeLaunchSlots (s : State) : List (Fin 256) := (List.finRange 256).filter fun k => (s.launch? k).isNone

/-- A record that is well formed and fits its partition is entered; the handle, and a status where no slot is free (R284).
Which free slot is taken the spec leaves open. [DESIGN CHOICE, log 12, unsafe; DESIGN CHOICE, log 57, safe] -/
def State.enterLaunch (s : State) (asid : BitVec 8) (part : Fin 32) (l : LaunchRec) (deps : List (Nat × Nat))
    (done : Option Nat) : DWord × State :=
  if s.exceeds part l then (BitVec.ofNat 64 (2 * 2 ^ 62), s)
  else
    let free := s.freeLaunchSlots
    if free.isEmpty ∨ 64 ≤ (s.launches.filter fun x => x.asid = asid).length then (BitVec.ofNat 64 (2 ^ 62), s)
    else
      let (n, s) := s.takeFree
      let k := (free[Config.chooseIndex n % free.length]?).getD 0
      let x : Launch :=
        { slot := k, seq := s.seq, asid := asid, part := part, system := s.systemAsids.contains asid, record := l,
          depPas := deps, donePa := done, ready := none, unplaced := l.unitCount, units := l.unitCount, gangsEnded := 0,
          bars := [],
          det := if l.det then some { quantum := l.quantum, period := 0, closing := false, ended := false, order := [],
                                      combs := [], heldBars := [] } else none }
      (BitVec.ofNat 64 (s.seq * 256 + k.val), { s with launches := s.launches ++ [x], seq := s.seq + 1 })

/-! ## Where a gang stands (R288) -/

/-- Where a wave stands: pipe, slot, first block. -/
structure WavePlace where
  pipe : Fin 32
  slot : Fin 8
  block : Nat
  blocks : Nat
  deriving DecidableEq, Repr

/-- A program is loaded into the core's producer slot: it runs, or its store is not empty (R166). [DESIGN CHOICE, log 127, unsafe] -/
def State.producerLoaded (s : State) (c : Fin 256) : Bool :=
  (s.waves.any fun w => w.kind == .producer && w.core == c)
    || s.regs.any fun r => decide (Reg.ps c 0x1000 ≤ r.1 ∧ r.1 < Reg.ps c 0x2000)

/-- What the resident waves of a core take. A wave that has ended, and a saved one, take nothing (R24, R332); a producer
slot with a program loaded takes two blocks of pipe 31 (R166). -/
def State.wavesOn (s : State) (c : Fin 256) : List WavePlace :=
  (s.waves.filterMap fun w =>
    let here : Bool := match w.kind with
      | .launched => w.core == c && ((s.gang? w.gang).map (·.resident)).getD true
      | _ => false
    if here = true then some ({ pipe := w.pipe, slot := w.slot, block := w.block, blocks := (w.nv + 7) / 8 } : WavePlace) else none)
    ++ (if s.producerLoaded c then
          [({ pipe := 31, slot := 7, block := 14, blocks := 2 } : WavePlace)]
        else [])

/-- The lowest-numbered pipe with a free slot and free consecutive blocks (R27, R28, R288). -/
def findSlot (used : List WavePlace) (vblk : Nat) : Option WavePlace :=
  (List.finRange 32).findSome? fun p =>
    let mine := used.filter fun u => u.pipe = p
    let slots := (List.finRange 8).filter fun k => !(p.val == 31 && k.val == 7) && !(mine.any fun u => u.slot = k)
    let free := fun (b : Nat) => mine.all fun u => decide (b + vblk ≤ u.block ∨ u.block + u.blocks ≤ b)
    match slots, (List.range (17 - vblk)).find? free with
    | k :: _, some b => some { pipe := p, slot := k, block := b, blocks := vblk }
    | _, _ => none

/-- The places of n waves, in ascending wave index; none where one finds no place. -/
def placeWaves (vblk : Nat) : Nat → List WavePlace → Option (List WavePlace)
  | 0, _ => some []
  | n + 1, used =>
    match findSlot used vblk with
    | none => none
    | some u => (placeWaves vblk n (used ++ [u])).map (u :: ·)

/-- Workgroups resident on a core. -/
def State.wgsOn (s : State) (c : Fin 256) : List Workgroup :=
  (s.gangs.filter (·.resident)).flatMap fun g => g.wgs.filter fun x => x.core = c

/-- The lowest base of a free range of the scratchpad, a multiple of 768 (R159, R288). [DESIGN CHOICE, log 74, unsafe] -/
def State.scratchBase? (s : State) (c : Fin 256) (size : Nat) : Option Nat :=
  let held := (s.wgsOn c).filter fun x => 0 < x.size
  ((List.range 1025).map (768 * ·)).find? fun b =>
    decide (b + size ≤ 786432) && held.all fun x => decide (size = 0 ∨ b + size ≤ x.base ∨ x.base + x.size ≤ b)

/-- Where a workgroup would stand on a core (R288). -/
structure WgPlace where
  core : Fin 256
  base : Nat
  waves : List WavePlace
  deriving DecidableEq, Repr

/-- The place of a workgroup with this scratchpad, queue mask, and its waves' blocks; none while a shelf of the core is reloaded
(R297). -/
def State.fitWg (s : State) (c : Fin 256) (size : Nat) (qmask : BitVec 16) (vblk nwv : Nat) : Option WgPlace := do
  if (s.reloads.any fun r => r.unit == .shelves c) || (s.wgsOn c).any fun x => x.qmask &&& qmask != 0 then none
  else
    let b ← s.scratchBase? c size
    let ws ← placeWaves vblk nwv (s.wavesOn c)
    return { core := c, base := b, waves := ws }

/-- The core of a cluster's slot. -/
def coreAt (cl : Fin 64) (k : Nat) : Fin 256 := Fin.ofNat 256 (4 * cl.val + k)

/-- The places of a gang's workgroups in a cluster, the lowest slots first (R288). -/
def State.fitCluster (s : State) (l : LaunchRec) (cl : Fin 64) : Option (Nat × List WgPlace) :=
  (List.range (5 - l.nwg)).findSome? fun k =>
    ((List.range l.nwg).mapM fun j => s.fitWg (coreAt cl (k + j)) l.scratch l.qmask l.vblk l.nwv).map fun x => (k, x)

/-! ## Placement (R289) -/

/-- The uniform specials of a wave, in the order of their codes (R44). -/
def specialsOf (l : LaunchRec) (gangid stage wg j devid : Nat) : Vector Word 16 :=
  let x := gangid % l.dimx
  let y := gangid / l.dimx % l.dimy
  let z := gangid / l.dimx / l.dimy
  Vector.map (BitVec.ofNat 32) #v[wg, x, y, z, stage, l.dimx, l.dimy, l.dimz, l.stages, l.nwv, l.nwg, gangid,
    wg * l.nwv + j, 0xFFFFFFFF, l.scratch, devid]

/-- A wave of a workgroup as it starts (R229, R260, R289, R294). -/
def State.newWave (s : State) (x : Launch) (gang gangid stage wg j : Nat) (c : Fin 256) (u : WavePlace) : Wave × State :=
  let (id, s) := s.fresh
  let l := x.record
  ({ Wave.fresh id .launched x.asid x.part c u.pipe u.slot l.entry 0xFFFFFFFF#32 with
      system := x.system, block := u.block, gang := gang, wg := wg, index := j, nv := 8 * l.vblk, ns := l.sregs,
      special := specialsOf l gangid stage wg j s.devId, prio := l.prio.val, rank := id,
      det := if l.det then some { buffer := [], retired := 0, ended := false, atEnd := false, tried := false } else none }, s)

/-- A workgroup placed: its scratchpad zeroed, its waves started, each with an acquire at dev scope (R159, R289). [PRESUMED, log 34, safe; DESIGN CHOICE, log 75, unsafe] -/
def State.startWaves (s : State) (x : Launch) (gang gangid stage wg : Nat) (pl : WgPlace) : State :=
  let s := (s.modCore pl.core fun k => { k with scratch := k.scratch.clear pl.base x.record.scratch }).heal pl.core .scratch pl.base
    x.record.scratch
  let s := (pl.waves.zipIdx).foldl (fun s (u, j) =>
    let (w, s) := s.newWave x gang gangid stage wg j pl.core u
    { s with waves := s.waves ++ [w] }) s
  (s.trimLent pl.core).acquireL1 pl.core

/-- A gang placed on a cluster from a slot on (R289). -/
def State.placeGang (s : State) (x : Launch) (gangid stage : Nat) (cl : Fin 64) (slot : Nat) (pls : List WgPlace) : State :=
  let (id, s) := s.fresh
  let l := x.record
  let wgs := (pls.zipIdx).map fun (pl, j) =>
    ({ lin := (stage * l.points + gangid) * l.nwg + j, core := pl.core, base := pl.base, size := l.scratch,
       remap := l.remap, qmask := l.qmask, launchBars := 0, gangBars := 0, bars := [], races := [], savedScratch := [],
       savedQueues := [], savedArrivals := [] } : Workgroup)
  let g : Gang :=
    { id := id, launch := x.slot, seq := x.seq, x := gangid % l.dimx, y := gangid / l.dimx % l.dimy,
      z := gangid / l.dimx / l.dimy, stage := stage, gangid := gangid, cluster := cl, firstSlot := slot, wgs := wgs,
      bars := [], resident := true, stopping := false, saved := false, savedArray := [], savedCmds := [] }
  (pls.zipIdx).foldl (fun s (pl, j) => s.startWaves x id gangid stage j pl) { s with gangs := s.gangs ++ [g] }

/-- A gang on the lowest cluster of the list in which it fits (R288). -/
def State.placeIn (s : State) (x : Launch) (cls : List (Fin 64)) (g : Nat × Nat) : Option State :=
  (cls.findSome? fun cl => (s.fitCluster x.record cl).map fun f => (cl, f)).map fun (cl, k, pls) =>
    s.placeGang x g.1 g.2 cl k pls

/-- Gangs of a launch's next unit: gang id and stage, in ascending order (R286). -/
def Launch.nextUnit (x : Launch) : List (Nat × Nat) :=
  let l := x.record
  let k := x.units - x.unplaced
  let stages := fun (g : Nat) => (List.range l.stages).map fun st => (g, st)
  if l.whole then (List.range l.points).flatMap stages else stages k

/-- The next unit of a launch placed whole on clusters of the list; none where it does not fit (R286, R288). -/
def State.placeUnitOf (s : State) (x : Launch) (cls : List (Fin 64)) : Option State :=
  if s.exceeds x.part x.record then none
  else
    (x.nextUnit.foldl (fun (r : Option State) g => r.bind fun s => s.placeIn x cls g) (some s)).map fun s =>
      { s.modLaunch x.slot (fun y => { y with unplaced := y.unplaced - 1 }) with
        reservations := s.reservations.filter fun r => r.2.2.2 != x.slot }

/-- Clusters open to a launch: those that no other launch's reservation holds (R292). -/
def State.openClusters (s : State) (x : Launch) : List (Fin 64) :=
  let all := s.clustersOf x.part
  match SMap.at? s.reservations x.part.val with
  | some (cl, whole, k) => if k = x.slot then all else if whole then [] else all.filter (· != cl)
  | none => all

/-! ## Rounds (R291) -/

/-- SCHCTX(a).run (R291, R296). -/
def State.ctxRuns (s : State) (a : BitVec 8) : Bool := s.regBit (Reg.schCtx a.toNat) 62

/-- Gangs of a context. -/
def State.ctxGangs (s : State) (a : BitVec 8) : List Gang :=
  s.gangs.filter fun g => s.launches.any fun l => l.slot == g.launch && l.seq == g.seq && l.asid == a

/-- The context may have units placed: it runs, and none of its gangs waits to be resumed (R291, R295). [DESIGN CHOICE, log 76, safe] -/
def State.mayPlace (s : State) (a : BitVec 8) : Bool := s.ctxRuns a && !((s.ctxGangs a).any fun g => g.saved || g.stopping)

/-- The oldest ready launch of a queue with unplaced units (R291). [DESIGN CHOICE, log 71, unsafe] -/
def State.head? (s : State) (a : BitVec 8) (prio : Nat) : Option Launch :=
  s.launches.find? fun l => l.asid == a && l.record.prio.val == prio && l.unplaced != 0 && l.ready.isSome && s.depsMet l

/-- The queue holds no unplaced unit (R291). [DESIGN CHOICE, log 71, unsafe] -/
def State.queueEmpty (s : State) (a : BitVec 8) (prio : Nat) : Bool :=
  !(s.launches.any fun l => l.asid == a && l.record.prio.val == prio && l.unplaced != 0)

/-- Where D[c, prio] stands. -/
def deficitKey (a : BitVec 8) (prio : Nat) : Nat := 4 * a.toNat + prio

/-- Units of one queue placed while the head fits and the deficit covers it; `fuel` bounds the units (R291). -/
def State.drainQueue (a : BitVec 8) (prio : Nat) : Nat → State → State
  | 0, s => s
  | fuel + 1, s =>
    match s.head? a prio with
    | none => s
    | some x =>
      let d := SMap.get 0 s.deficits (deficitKey a prio)
      if d < x.record.unitCost then s
      else
        match s.placeUnitOf x (s.openClusters x) with
        | none => s
        | some s =>
          State.drainQueue a prio fuel
            { s with deficits := SMap.set 0 s.deficits (deficitKey a prio) (d - x.record.unitCost)
                     lastServed := SMap.set 0 s.lastServed prio a.toNat }

/-- The contexts with a ready unit at a priority, cyclically, starting after the one served last (R291). -/
def State.ctxOrder (s : State) (prio : Nat) : List (BitVec 8) :=
  let last := SMap.get 0 s.lastServed prio
  ((List.range 256).map fun k => BitVec.ofNat 8 ((last + 1 + k) % 256)).filter fun a => s.mayPlace a && (s.head? a prio).isSome

/-- One context of a round (R291). [DESIGN CHOICE, log 71, unsafe] -/
def State.serve (prio : Nat) (s : State) (a : BitVec 8) : State :=
  let inc := s.regBits (Reg.schCtx a.toNat) 4 0
  let d := min 64 (SMap.get 0 s.deficits (deficitKey a prio) + inc)
  let s := { s with deficits := SMap.set 0 s.deficits (deficitKey a prio) d }
  let s := State.drainQueue a prio 64 s
  if s.queueEmpty a prio then { s with deficits := SMap.set 0 s.deficits (deficitKey a prio) 0 } else s

/-- D is 0 wherever its queue is empty (R291). -/
def State.dropDeficits (s : State) : State :=
  { s with deficits := s.deficits.filter fun d => !s.queueEmpty (BitVec.ofNat 8 (d.1 / 4)) (d.1 % 4) }

/-- The unit of a reservation is placed as soon as it fits, whatever its deficit (R292). [DESIGN CHOICE, log 69, unsafe; DESIGN CHOICE, log 72, unsafe] -/
def State.placeReserved (s : State) : State :=
  (s.reservations.foldl (fun s (p, cl, whole, k) =>
    match s.launch? k with
    | none => s
    | some x =>
      if s.mayPlace x.asid && s.depsMet x then
        (s.placeUnitOf x (if whole then s.clustersOf (Fin.ofNat 32 p) else [cl])).getD s
      else s) s).dropDeficits

/-- One round (R291). [DEDUCED, log 70, safe] -/
def State.round (s : State) : State :=
  ([3, 2, 1, 0].foldl (fun s prio => (s.ctxOrder prio).foldl (State.serve prio) s) s.placeReserved).dropDeficits

/-- A launch that has become ready calls for a round (R286, R291). [DEDUCED, log 70, safe] -/
def State.becomeReady (s : State) (k : Fin 256) : State :=
  (s.modLaunch k fun l => { l with ready := some s.tick }).round

/-! ## The instructions -/

/-- A launch entered is ready at once where nothing holds it. -/
def State.submitted (s : State) (h : DWord) : State :=
  if bitsOf h.toNat 63 62 = 0 then
    let k := Fin.ofNat 256 h.toNat
    match s.launch? k with
    | some l => if s.depsMet l then s.becomeReady k else s
    | none => s
  else s

/-- What becomes of a record. -/
inductive Submitted where
  /-- It is not well formed (R282). -/
  | forged
  /-- A dependence or done word lies across the partition's boundary (R417). -/
  | boundary
  | entered (handle : DWord) (s : State)

/-- The dependence and done words of a launch lie in another partition (R417). -/
def State.launchCrosses (s : State) (part : Fin 32) (deps : List (Nat × Nat)) (done : Option Nat) : Bool :=
  (deps.map (·.1) ++ done.toList).any (s.crosses part)

/-- A record of a context, once read (R284). [DESIGN CHOICE, log 73, unsafe] -/
def State.submit (s : State) (asid : BitVec 8) (part : Fin 32) (bs : List Byte) : Submitted :=
  let l := LaunchRec.ofBytes bs
  if !l.shapeOk bs then .forged
  else
    match s.launchPas asid l with
    | none => .forged
    | some (deps, done) =>
      if s.launchCrosses part deps done then .boundary
      else
        let (h, s) := State.enterLaunch (s.readLines (s.launchLines asid l) asid 0) asid part l deps done
        .entered h s

/-- LAUNCH (R283, R284). -/
def execLaunch (nw : Bool) (d a b : Operand) (s : State) : Result :=
  runCard (.launch nw d a b) (fun w _ =>
    { pipeCard (onlyLaunched w) ((if nw then [] else [.group isSca 2 2 d]) ++ [baseField a, .src b]) [.src b] (fun w p s =>
        let i := Instr.launch nw d a b
        let ea := blockEa w p a b
        match blockAddrFault? ea 128 with
        | some c => .next (s.trap w p (wordOfInstr i) (TrapInfo.mem c p.mask ea))
        | none =>
          let s := s.settleHolds w.id
          if s.held w [.load] [ea] [] then s.stall
          else if !s.releasedFor w then s.awaitRelease w
          else
            match s.blockSync w ea with
            | some s => s.stall
            | none =>
              let s := s.blockRead w ea
              match s.blockBytes w ea 128 with
              | .error c => .next (s.trap w p (wordOfInstr i) (TrapInfo.mem c p.mask ea))
              | .ok bs =>
                if !s.servesAll (s.launchLines w.asid (LaunchRec.ofBytes bs)) then s.stall
                else
                match s.submit w.asid w.part bs with
                | .forged => .next (s.freezeWave w 3 0)
                | .boundary => .next (s.freezeWave w 1 0)
                | .entered h s => .next ((s.result w p nw d false [splat (lo32 h), splat (hi32 h)]).submitted h)) with
      race := true, drains := true, sync := true }) s

/-- A register of a control core; x0 reads 0. -/
def ControlCore.reg (c : ControlCore) (r : Fin 32) : DWord := if r = 0 then 0 else c.x[r]

/-- A launch-extension instruction of a control core (R285): the result goes to rd, the core goes on to the next word,
which the spec does not give; in U-mode the illegal-instruction exception is raised. While `waits` holds it stays. [PRESUMED, log 77, unsafe] -/
def State.controlResult (s : State) (rd : Fin 32) (waits : ControlCore → State → Bool) (go : ControlCore → State → DWord × State) :
    Result :=
  match s.cur with
  | none => .fault .noCurrentPath
  | some (k, _) =>
    let n := Fin.ofNat 16 k
    let c := s.control[n]
    if c.priv = .user then .next { s with control := s.control.set n { c with exception := some 2 } }
    else if waits c s then .next s
    else
      let (v, s) := go c s
      let (j, s) := s.takeFree
      let c := s.control[n]
      let x := if rd = 0 then c.x else c.x.set rd v
      .next { s with control := s.control.set n { c with x := x, pc := c.pc + 4, fetch := Config.freeWord j } }

/-- The result of a forged record (R285). -/
def forgedHandle : DWord := BitVec.ofNat 64 (3 * 2 ^ 62)

/-- cdm.launch of a record (R285). -/
def State.cdmSubmit (s : State) (va ctx : DWord) : DWord × State :=
  let ea := va.toNat
  let asid := ctx.setWidth 8
  let bad := (forgedHandle, s)
  if ctx.toNat / 256 ≠ 0 ∨ ea % 128 ≠ 0 ∨ 2 ^ 55 ≤ ea then bad
  else
    match s.ctxTranslate asid ea .r with
    | .error _ => bad
    | .ok pa =>
      if s.crosses (s.partOf asid) pa then bad
      else
      match s.homeBytes pa 128 with
      | .error _ => bad
      | .ok bs =>
        match s.submit asid (s.partOf asid) bs with
        | .forged | .boundary => bad
        | .entered h s => (h, (s.visit pa 128 asid).submitted h)

/-- A home that cdm.launch reads holds the access back (R115, R133). -/
def State.cdmWaits (s : State) (va ctx : DWord) : Bool :=
  let asid := ctx.setWidth 8
  !s.servesAll (s.ctxLines asid va.toNat) || match s.ctxTranslate asid va.toNat .r with
    | .error _ => false
    | .ok pa => !s.serves (pa / 128) || match s.homeBytes pa 128 with
      | .ok bs => !s.servesAll (s.launchLines asid (LaunchRec.ofBytes bs))
      | .error _ => false

/-- CDM_LAUNCH (R285). [PRESUMED, log 77, unsafe] -/
def execCdmLaunch (rs2 rs1 rd : Fin 32) (s : State) : Result :=
  s.controlResult rd (fun c s => c.priv != .user && s.cdmWaits (c.reg rs1) (c.reg rs2)) fun c s => s.cdmSubmit (c.reg rs1) (c.reg rs2)

/-- cdm.lstat of a handle (R285). -/
def State.launchStatus (s : State) (h : DWord) : Nat :=
  let seq := bitsOf h.toNat 61 8
  if bitsOf h.toNat 63 62 ≠ 0 ∨ s.seq ≤ seq then 3
  else
    match s.launch? (Fin.ofNat 256 h.toNat) with
    | some l => if l.seq ≠ seq then 2 else if l.unplaced < l.units then 1 else 0
    | none => 2

/-- CDM_LSTAT (R285). [PRESUMED, log 77, unsafe] -/
def execCdmLstat (_rs2 rs1 rd : Fin 32) (s : State) : Result :=
  s.controlResult rd (fun _ _ => false) fun c s => (BitVec.ofNat 64 (s.launchStatus (c.reg rs1)), s)

/-- LAUNCH_READY (R286). [DESIGN CHOICE, log 69, unsafe] -/
def execLaunchReady (slot : Fin 256) (s : State) : Result :=
  match s.launch? slot with
  | some l => if l.ready.isNone && s.depsMet l then .next (s.becomeReady slot) else notEnabled
  | none => notEnabled

/-! ## Starvation (R292) -/

/-- SCHBOUND (R296). -/
def State.schBound (s : State) : Nat := (s.reg Reg.schBound).toNat

/-- The launch is the head of its queue. -/
def State.isHead (s : State) (l : Launch) : Bool := (s.head? l.asid l.record.prio.val).map (·.seq) == some l.seq

/-- A head unit that has waited the bound: the longest-waiting one of a partition, the older of equals. [DESIGN CHOICE, log 72, unsafe] -/
def State.starving? (s : State) (p : Fin 32) : Option Launch :=
  (s.launches.filter fun l => l.part = p ∧ s.mayPlace l.asid ∧ s.isHead l ∧ s.schBound ≤ s.tick - l.ready.getD s.tick).foldl
    (fun best l => match best with
      | none => some l
      | some x => if (l.ready.getD 0) < (x.ready.getD 0) then some l else some x) none

/-- The launch's next unit would fit on the cluster if every resident workgroup there ended (R292). [DESIGN CHOICE, log 72, unsafe] -/
def State.wouldFit (s : State) (l : Launch) (cl : Fin 64) : Bool :=
  let s' := { s with gangs := s.gangs.map fun g => if g.cluster = cl then { g with resident := false } else g, reloads := [] }
  (l.nextUnit.foldl (fun (r : Option State) g => r.bind fun s => s.placeIn l [cl] g) (some s')).isSome

/-- What a starving unit reserves (R292): the lowest cluster in which it would fit alone; every cluster for a unit placed
whole, and for one that fits no single cluster. [DESIGN CHOICE, log 72, unsafe] -/
def State.reserveFor (s : State) (l : Launch) : Fin 64 × Bool × Fin 256 :=
  match (s.clustersOf l.part).find? fun cl => !l.record.whole && s.wouldFit l cl with
  | some cl => (cl, false, l.slot)
  | none => (((s.clustersOf l.part).head?).getD 0, true, l.slot)

/-- STARVATION_BOUND (R292). -/
def execStarvationBound (part : Fin 32) (s : State) : Result :=
  match SMap.at? s.reservations part.val, s.starving? part with
  | none, some l => .next (State.placeReserved { s with reservations := SMap.insert s.reservations part.val (s.reserveFor l) })
  | _, _ => notEnabled

/-- SCHBOUND_WRITE (R296). -/
def execSchboundWrite (value : DWord) (s : State) : Result :=
  .next (if 2 ^ 12 ≤ value.toNat ∧ value.toNat ≤ 2 ^ 32 then s.setReg Reg.schBound value else s)

/-! ## Retirement (R290) -/

/-- Every home clears the race tags and the dependence counters of a slot (R119, R120, R290). -/
def State.clearSlot (s : State) (k : Fin 256) : State :=
  let g := fun (t : RaceTag) => if t.slot.toNat = k.val then { t with v := false } else t
  let f := fun (l : L2Line) =>
    { l with tags := l.tags.map g, dep := if l.dep.slot.toNat = k.val then DepCounter.zero else l.dep }
  { s with homes := s.homes.map fun (h : Home) => { h with lines := h.lines.map f } }

/-- The completion counter incremented at its home (R290); none where its home cannot serve it now. -/
def State.addDone (s : State) (pa : Nat) (asid : BitVec 8) : Option State :=
  if !s.serves (pa / 128) then none
  else
    match s.unitRead pa 8 with
    | .ok x => some ((s.count (.home (homeOf pa)) 0x24 1).unitWriteNat pa 8 ((x + 1) % 2 ^ 64) asid)
    | .error .absent => some (if inLineSpace pa then s.logError (mcOf pa) 2 (lineIndex pa) else s)
    | .error .lost => some s

/-- The period watermarks that a partition's domains have heard are over with the domain (R319). [DESIGN CHOICE, log 107, unsafe] -/
def State.forgetPeriods (s : State) (p : Fin 32) : State :=
  s.modFabric fun f => { f with periodWm := f.periodWm.filter fun x => x.1 / 1024 != p.val }

/-- A launch retires (R290); `count` is step 2. -/
def State.retireLaunch (s : State) (l : Launch) (count : Bool) : Option State := do
  let s := s.clearSlot l.slot
  let s ← match l.donePa with
    | some pa => if count then s.addDone pa l.asid else some s
    | none => some s
  let s := if l.det.isSome then s.forgetPeriods l.part else s
  return { s with launches := s.launches.filter fun x => x.slot != l.slot
                  reservations := s.reservations.filter fun r => r.2.2.2 != l.slot }

end Sys2Proof.Machine
end

