-- ==== Sys2Proof/Machine/Preempt.lean ====
section
/-! DEFINITION. Pre-emption, gang save and resumption (R295, R331 to R335), the context's run bit (R295, R296). -/

namespace Sys2Proof.Machine

/-! ## The run bit -/

/-- A pre-emption request reaches a wave, which has stopped at each blocking point already reached (R331). -/
def Wave.askStop (w : Wave) : Wave :=
  { w with stopReq := true
           paths := if w.isDet then w.paths else w.paths.map fun (q : Path) =>
             match q.status with
             | .blocked c => { q with halted := q.halted || c.point }
             | .ready => q }

/-- A pre-emption request reaches every wave of every resident gang of a context (R295, R331). -/
def State.preempt (s : State) (a : BitVec 8) : State :=
  let gs := ((s.ctxGangs a).filter (·.resident)).map (·.id)
  { s with gangs := s.gangs.map fun g => if gs.contains g.id then { g with stopping := true } else g
           waves := s.waves.map fun w => if w.kind = .launched ∧ gs.contains w.gang then w.askStop else w }

/-- SCHCTX(a).run changed. [DESIGN CHOICE, log 83, safe] -/
def State.setRun (s : State) (a : BitVec 8) (b : Bool) : State :=
  let pa := Reg.schCtx a.toNat
  let x := (s.reg pa).toNat
  s.setReg pa (BitVec.ofNat 64 (x / 2 ^ 63 * 2 ^ 63 + (if b then 2 ^ 62 else 0) + x % 2 ^ 62))

/-- SCHCTX_RUN (R295): resumptions come before any placement; a dispatch calls for a round. [DEDUCED, log 70, safe; DESIGN CHOICE, log 83, safe] -/
def execSchctxRun (asid : BitVec 8) (s : State) : Result := .next (s.setRun asid true).round

/-- SCHCTX_STOP (R295, R331). -/
def execSchctxStop (asid : BitVec 8) (s : State) : Result := .next ((s.setRun asid false).preempt asid)

/-! ## When a gang can be saved (R331, R332, R334) -/

/-- The path has stopped: at a blocking point, before the target of a taken backward branch, or behind another path. -/
def State.pathHalted (s : State) (w : Wave) (p : Path) : Bool :=
  p.halted || (p.status == .ready && p.stage == .none && !s.runnable w p)

/-- The wave has stopped, and no value of it is still to be read. A deterministic wave stops where R308 says. -/
def State.waveHalted (s : State) (w : Wave) : Bool :=
  w.frozen.isNone && !w.exited && w.inflight.all (·.waiting.isEmpty)
    && (if w.isDet then w.stopped else w.paths.all (s.pathHalted w))

/-- The gangs that are saved and resumed with a gang (R287, R301). [DEDUCED, log 81, unsafe] -/
def State.gangSet (s : State) (g : Gang) : List Gang :=
  match s.launches.find? fun l => l.slot == g.launch && l.seq == g.seq with
  | some l => if l.record.whole then s.launchGangs l else [g]
  | none => [g]

/-- Commands of a gang: core and command. -/
def State.gangCmds (s : State) (g : Gang) : List (Fin 256 × EngCmd) :=
  (List.finRange 256).flatMap fun c => ((s.core c).engine.filter fun x => x.gang = g.id).map fun x => (c, x)

/-- The command writes scratch of its gang (R334); the copy part of a COPYM whose MMA is queued has landed. -/
def EngCmd.toScratch (c : EngCmd) : Bool :=
  (match c.state with | .follow _ => false | _ => true) &&
  (match c.kind with
  | .quant2 => (QuantBlock.ofBytes c.blk).qdsp == 1
  | _ => (CopyBlock.ofBytes c.blk).dspace == 1 || !(CopyBlock.ofBytes c.blk).deltas.isEmpty)

/-- The command has still to read scratch of its gang. [DESIGN CHOICE, log 80, safe] -/
def EngCmd.fromScratch (c : EngCmd) : Bool :=
  (match c.state with | .accepted | .sent => c.plan.isNone | .issued => true | _ => false) &&
  (match c.kind with
  | .quant2 => (QuantBlock.ofBytes c.blk).qsp == 1
  | _ => (CopyBlock.ofBytes c.blk).sspace == 1)

/-- Every wave has stopped or ended, and no command that stays has still to read the scratchpad. [DESIGN CHOICE, log 80, safe] -/
def State.savable (s : State) (g : Gang) : Bool :=
  g.resident && g.stopping && (s.gangWaves g.id).all s.waveHalted
    && (s.gangCmds g).all fun c => c.2.state != .issued && (c.2.toScratch || !c.2.fromScratch)

/-! ## Saving -/

/-- The release of each wave begins, and whether all are complete (R332) but for the accesses that wait for irrevocability, which
are saved with their queue (R327). -/
def State.saveRelease (s : State) (ws : List Wave) : Bool × State :=
  ws.foldl (fun (ok, s) w => (ok && s.commitDrained w, (s.releaseDeps w .dev).2.2)) (true, s)

/-- Watch entries of a partition in use (R122). -/
def State.watchEntries (s : State) (p : Fin 32) : Nat :=
  (s.waves.filter fun w => w.part = p ∧ (w.watch.map (·.entry)).getD false).length

/-- A wave saved: its latches empty, its monitor a watch entry where one is free (R332). -/
def State.saveWave (s : State) (w : Wave) : State :=
  let room := decide (s.watchEntries w.part < 4096)
  let s := s.modWave w.id fun x =>
    let x := { x with stopped := true, paths := x.paths.map fun (q : Path) => { q with latches := Vector.replicate 4 Latch.empty } }
    match x.watch with
    | some y => if room then { x with watch := some { y with entry := true } } else { x with wakePending := true }
    | none => x
  { s with holders := s.holders.filter fun h => h.2.1 != w.id }

/-- A workgroup's scratchpad and local queues saved (R332). [DESIGN CHOICE, log 79, unsafe] -/
def State.saveWg (s : State) (g : Gang) (k : Nat) (x : Workgroup) : State :=
  let c := s.core x.core
  let mem := (c.scratch.filter fun e => decide (x.base ≤ e.1 ∧ e.1 < x.base + x.size)).map fun e => (e.1 - x.base, e.2)
  let qs := ((List.finRange 16).filter fun q => x.qmask.getLsbD q.val).map fun q => (q, c.queues[q])
  let s := (s.heal x.core .scratch x.base x.size).modCore x.core fun c =>
    { c with scratch := c.scratch.clear x.base x.size
             queues := qs.foldl (fun (v : Vector (List Lanes) 16) q => v.set q.1 []) c.queues }
  s.modWg g.id k fun y => { y with savedScratch := mem, savedQueues := qs }

/-- A command cancelled, and recorded for replay (R334); what a deterministic command has read stays with it (R308). [DESIGN CHOICE, log 82, unsafe] -/
def State.cancelCmd (s : State) (g : Gang) (core : Fin 256) (c : EngCmd) : State :=
  let kept : EngCmd := if c.det then { c with netOps := [] } else { c with state := .accepted, plan := none, netOps := [] }
  ((s.dropCmdOps c).dropCmd core c.id).modGang g.id fun y => { y with savedCmds := y.savedCmds ++ [kept] }

/-- Commands in the order of their acceptance. -/
def insertByOrder (c : Fin 256 × EngCmd) : List (Fin 256 × EngCmd) → List (Fin 256 × EngCmd)
  | [] => [c]
  | x :: l => if c.2.order < x.2.order then c :: x :: l else x :: insertByOrder c l

/-- An array entry as it is saved: the steps of an MMA that remain read their Δ vector again (R222). -/
def ArrayEntry.kept (e : ArrayEntry) : ArrayEntry :=
  match e.op with
  | .mma va blk done _ cmd => { e with op := .mma va blk done none cmd }
  | _ => e

/-- A gang saved (R222, R332, R334). [DESIGN CHOICE, log 79, unsafe] -/
def State.saveGang (s : State) (g : Gang) : State :=
  let cmds := ((s.gangCmds g).filter fun c => c.2.toScratch).foldl (fun l c => insertByOrder c l) []
  let s := cmds.foldl (fun s c => s.cancelCmd g c.1 c.2) s
  let ents := (List.finRange 256).flatMap fun c => (s.core c).arrayQ.filter fun e => e.gang = g.id
  let s := { s with cores := s.cores.map fun (k : Core) => { k with arrayQ := k.arrayQ.filter fun e => e.gang != g.id } }
  let s := (s.gangWaves g.id).foldl State.saveWave s
  let s := (g.wgs.zipIdx).foldl (fun s (x, k) => s.saveWg g k x) s
  s.modGang g.id fun y => { y with resident := false, stopping := false, saved := true, savedArray := ents.map ArrayEntry.kept }

/-- GANG_SAVE (R331 to R334). Without a save area every wave is frozen with cause 8 and the gang stays (R333). -/
def execGangSave (g : Nat) (s : State) : Result :=
  match s.gang? g with
  | none => notEnabled
  | some x =>
    let gs := s.gangSet x
    let ws := gs.flatMap fun y => s.gangWaves y.id
    if !gs.all s.savable then notEnabled
    else
      match gs.findSome? fun y => (s.gangWaves y.id).head? with
      | none => notEnabled
      | some w =>
        if !s.hasSaveArea w.asid then .next (ws.foldl (fun s w => s.freezeWave w 8 0) s)
        else
          let (ok, s) := s.saveRelease ws
          .next (if ok then (gs.foldl State.saveGang s).round else s)

/-! ## Resumption (R24, R335) -/

/-- ENG_FAULT of a command that failed while its wave was switched out is taken at the resumption (R189), at the path of the
lowest lane; in handler state it waits (R329). [DESIGN CHOICE, log 128, unsafe] -/
def State.resumeReport (s : State) (id : Nat) : State :=
  match s.wave? id with
  | none => s
  | some w =>
    let p? := w.paths.foldl (fun (b : Option Path) q => match b with
      | none => some q
      | some x => if q.low < x.low then some q else some x) none
    match p?, (if w.handler.isSome then none else s.takeReport? w .engFault) with
    | some p, some (info, s') =>
      let word := match s.fetch w p.pc with | .ok x => x | .error _ => 0
      s'.trap ((s'.wave? id).getD w) p word info
    | _, _ => s

/-- A wave resumed on its core: youngest, its watch entry freed, stopped no more (R24, R294, R332, R335). -/
def State.resumeWave (s : State) (w : Wave) (u : WavePlace) : State :=
  (s.modWave w.id fun x =>
    { x with
      pipe := u.pipe, slot := u.slot, block := u.block, stopped := false, stopReq := false,
      watch := x.watch.map fun y => { y with entry := false },
      paths := x.paths.map fun (q : Path) => { q with halted := false } }).youngest w.id

/-- The waves of a workgroup that have not ended, in ascending index. -/
def State.wgIndexed (s : State) (g k : Nat) : List Wave :=
  (List.range 32).filterMap fun j => (s.wgWaves g k).find? fun w => w.index == j

/-- A saved workgroup back on its core: scratchpad and queues restored, its waves placed, with an acquire (R335). -/
def State.resumeWg (s : State) (g : Gang) (k : Nat) (x : Workgroup) : Option State := do
  let ws := s.wgIndexed g.id k
  let blk := ((ws.head?).map fun w => w.nv / 8).getD 1
  let pl ← s.fitWg x.core x.size x.qmask blk ws.length
  let s := (s.heal x.core .scratch pl.base x.size).modCore x.core fun c =>
    { c with scratch := x.savedScratch.foldl (fun (m : Memory) e => m.write (pl.base + e.1) e.2) (c.scratch.clear pl.base x.size)
             queues := x.savedQueues.foldl (fun (v : Vector (List Lanes) 16) q => v.set q.1 q.2) c.queues }
  let s := (ws.zip pl.waves).foldl (fun s (w, u) => s.resumeWave w u) s
  let s := s.modWg g.id k fun y => { y with base := pl.base, savedScratch := [], savedQueues := [], savedArrivals := [] }
  return (s.trimLent x.core).acquireL1 x.core

/-- An entry that a context switch has taken out goes back to the head of its queue, behind those of its context that were
accepted before it (R222). [DESIGN CHOICE, log 82, unsafe] -/
def insertFormer (e : ArrayEntry) : List ArrayEntry → List ArrayEntry
  | [] => [e]
  | x :: l =>
    if x.req.asid = e.req.asid ∧ (x.order < e.order ∨ (x.order = e.order ∧ x.id < e.id)) then x :: insertFormer e l else e :: x :: l

/-- Recorded arrivals applied in the order they were recorded (R335 step 2). -/
def State.replayArrivals (s : State) (g : Gang) : State :=
  g.wgs.foldl (fun s x => x.savedArrivals.foldl (fun s (o, n) => s.completeArrival g.id (x.core.val % 4 * 2 ^ 20 + o) n) s) s

/-- A recorded command accepted again (R335 step 3). [DESIGN CHOICE, log 82, unsafe] -/
def State.replayCmd (s : State) (c : EngCmd) : State :=
  let (ord, s) := s.fresh
  let c := if c.det then c else { c with order := ord, remaps := s.remapsOf c.gang }
  s.modCore c.req.core fun k => { k with engine := k.engine ++ [c] }

/-- A gang resumed: steps 1 to 5 of R335; none while its cores cannot hold it, or its entries have no room. [DESIGN CHOICE, log 82, unsafe] -/
def State.resumeGang (s : State) (g : Gang) : Option State := do
  let s ← (g.wgs.zipIdx).foldl (fun (r : Option State) (x, k) => r.bind fun s => s.resumeWg g k x) (some s)
  let s := s.modGang g.id fun y => { y with resident := true, saved := false, savedArray := [], savedCmds := [] }
  let s := s.replayArrivals g
  let s := g.savedCmds.foldl State.replayCmd s
  let s := { s with cores := s.cores.mapIdx fun c (k : Core) =>
    { k with arrayQ := (g.savedArray.filter fun e => e.req.core.val == c).foldl (fun q e => insertFormer e q) k.arrayQ } }
  if g.wgs.all fun x => decide ((s.core x.core).accepted.length ≤ 64 ∧ ((s.core x.core).arrayQ.filter fun e => !e.issued).length ≤ 16) then some s else none

/-- GANG_RESUME (R295, R335). -/
def execGangResume (g : Nat) (s : State) : Result :=
  match s.gang? g with
  | none => notEnabled
  | some x =>
    let gs := s.gangSet x
    let runs := (s.launches.find? fun l => l.slot == x.launch && l.seq == x.seq).map fun l => s.ctxRuns l.asid
    if runs != some true || !gs.all (·.saved) then notEnabled
    else
      match gs.foldl (fun (r : Option State) y => r.bind fun s => s.resumeGang y) (some s) with
      | some s => .next ((gs.flatMap fun y => s.gangWaves y.id).foldl (fun s w => s.resumeReport w.id) s)
      | none => notEnabled

end Sys2Proof.Machine
end

