-- ==== Sys2Proof/Machine/WaveSteps.lean ====
section
/-! DEFINITION. Waking (R330), the end of a wave, of its gang and of its launch (R278, R290, R382), freezing and thawing
(R339 to R341). -/

namespace Sys2Proof.Machine

/-! ## Waking (R330) -/

/-- A stage queue has a record that this device can deliver, and no NFENCE holds the wave's pop (R330, R406, R408). -/
def State.recordReady (s : State) (w : Wave) (q : Nat) : Bool :=
  match s.stageQueue? w.part q with
  | none => true
  | some x =>
    match s.popStage x w.asid with
    | .ok none => false
    | _ => !(s.settleHolds w.id).held w [.net] [] []

/-- Every result that a path waits for has arrived (R54). -/
def Wave.repliesIn (w : Wave) (regs : List RegName) : Bool :=
  !(w.inflight.any fun x => x.dst.any (regs.contains ·) && !x.settled)

/-- The wake condition holds. BAR wakes its waves itself (R299), TKPULL and the wait for irrevocability have steps of
their own. The EXIT of a last lane wakes to start its release, and to end. -/
def State.wakes (s : State) (w : Wave) : WakeCond → Bool
  | .reply regs _ => w.repliesIn regs
  | .phase o p => barPhase (s.barWord w.gang o) != p
  | .engine o p => s.engineIdle w o p
  | .watch => w.wakePending || (match w.watch with | some x => x.fired | none => true)
  | .tick t => decide (t ≤ s.tick)
  | .queue q _ => !((s.core w.core).queues[q].isEmpty)
  | .record q => s.recordReady w q
  | .drain .. => w.inflight.all Inflight.settled
  | .ending => !s.endCommands w && (!s.lastOfWg w || s.releaseReady w .dev || !(s.core w.core).fifoLines.isEmpty)
  | .bar _ | .task .. | .irrevocable | .period => false

/-- A trap whose deferred results have been drained enters its handler (R321). -/
def State.afterDrain (s : State) (w : Wave) (p : Path) (info : TrapInfo) (xpc : Nat) (word : Word) : State :=
  let task := match w.task with
    | some { index := i, mode := .irrevocable, .. } => BitVec.ofNat 32 i
    | _ => BitVec.ofNat 32 0xFFFFFFFF
  s.enterHandler w.id p.tag word info xpc xpc task

/-- The path becomes ready. One that waited for a pending register starts its instruction afresh. -/
def State.wakePath (s : State) (w : Wave) (p : Path) (c : WakeCond) : State :=
  s.modPath w.id p.tag fun q => { q with status := .ready, stage := match c with | .reply .. => .none | _ => .woken }

/-- WAVE_WAKE (R330). A wave asked to stop has stopped at its blocking point (R331); a deterministic wave's conditions are
evaluated at the period's end (R317), but for its replies and its drains. [DESIGN CHOICE, log 84, safe] -/
def execWaveWake (w : Nat) (tag : Tag) (s : State) : Result :=
  match s.wave? w with
  | none => notEnabled
  | some x =>
    match x.path? tag with
    | none => notEnabled
    | some p =>
      match p.status with
      | .ready => notEnabled
      | .blocked c =>
        let point := c.point
        if x.frozen.isSome || x.stopped || p.halted then notEnabled
        else
          match c with
          | .drain info xpc word => if s.wakes x c then .next (s.afterDrain x p info xpc word) else notEnabled
          | .reply .. => if s.wakes x c || (point && (s.cancelNow? x).isSome) then .next (s.wakePath x p c) else notEnabled
          | _ =>
            if x.isDet then notEnabled
            else if s.wakes x c || (point && (s.cancelNow? x).isSome) then .next (s.wakePath x p c)
            else notEnabled

/-! ## The end of a wave (R278, R382) -/

/-- The task of a wave that ends: its version discarded, the entry ready again; that of a cancelled task is free (R378,
R382). -/
def State.returnTask (s : State) (w : Wave) : State :=
  match w.task with
  | none => s
  | some h =>
    let e := s.task h.index
    let s := match h.mode with
      | .versioned v => s.dropVersion w.part v
      | .irrevocable => s.dropVersion w.part e.ver.toNat
      | .plain => s
    if e.cp then s.freeTask h.index else s.readyTask h.index

/-- The pin of a wave that ends is released as CTXUNPIN would (R365). -/
def State.endPin (s : State) (w : Wave) : State :=
  match s.unpin w with
  | .ok s => s
  | .error _ => s

/-- The pin's map can be reached now. -/
def State.pinFree (s : State) (w : Wave) : Bool :=
  match w.pin with
  | some (_, pa, _) => !s.mapBusy pa
  | none => true

/-- Gangs of a launch that there are altogether. -/
def Launch.total (l : Launch) : Nat := l.record.gangs

/-- A gang whose last wave has ended: the gang ends, and with the last of them its launch (R26, R290). -/
def State.endGang (s : State) (gang : Nat) : Option State :=
  match s.gang? gang with
  | none => some s
  | some g =>
    if !(s.gangWaves gang).isEmpty then some s
    else
      let s := { s with gangs := s.gangs.filter fun x => x.id != gang }
      match s.launches.find? fun l => l.slot == g.launch && l.seq == g.seq with
      | none => some s
      | some l =>
        let l' := { l with gangsEnded := l.gangsEnded + 1 }
        let s := s.modLaunch l.slot fun _ => l'
        if l'.gangsEnded < l'.total then some s else s.retireLaunch l' true

/-- The end of a wave; none where a home cannot serve what it asks for now. -/
def State.endWave (s : State) (w : Wave) : Option State :=
  match w.kind with
  | .producer => some (s.stopProducer w)
  | .combiner _ => none
  | .launched =>
    if s.pinFree w then (((s.returnTask w).endPin w).dropWave w).endGang w.gang |>.map State.round else none

/-- Accesses of the wave that still wait in its memory queue, but for those that go with a version (R382) and loads. -/
def State.queueLeft (s : State) (w : Nat) : Bool :=
  s.releases.any fun r => r.req.wave == w && r.act.released && !(r.act.versioned && r.req.ver.isSome)

/-- WAVE_END (R278): the wave's loads are drained and discarded; its queue is empty, and a deterministic wave's stores have been
committed. -/
def execWaveEnd (w : Nat) (s : State) : Result :=
  match s.wave? w with
  | none => notEnabled
  | some x =>
    let buffered := match x.det with | some d => !d.buffer.isEmpty | none => false
    if !x.exited || x.frozen.isSome || buffered || s.queueLeft w || !(x.inflight.all Inflight.arrived) then notEnabled
    else
      match s.endWave x with
      | some s => .next s
      | none => notEnabled

/-! ## Freeze records (R341) -/

/-- FREEZE_RECORD_APPEND: the oldest waiting record, where the ring has room. -/
def execFreezeRecordAppend (s : State) : Result :=
  match s.freezeRecords with
  | [] => notEnabled
  | r :: rest =>
    let wr := (s.reg Reg.frzWr).toNat
    let pa := bitsOf (s.reg Reg.frzBase).toNat 51 12 * 4096 + 16 * (wr % 256)
    if 256 ≤ (wr + 2 ^ 64 - (s.reg Reg.frzRd).toNat) % 2 ^ 64 ∨ !s.serves (pa / 128) then notEnabled
    else
      let bs := leBytes 8 r.master.toNat ++ leBytes 1 r.cause ++ leBytes 1 r.code ++ leBytes 6 0
      .next (((State.unitWrite { s with freezeRecords := rest } pa bs 0).setReg Reg.frzWr (BitVec.ofNat 64 (wr + 1))).interrupt .freeze)

/-! ## FRZCMD (R341) -/

/-- The master id that FRZCMD [59:0] names, with its kind in [59:56] (R340, R341). -/
def frzMaster (x : DWord) : DWord := BitVec.ofNat 64 (bitsOf x.toNat 59 56 * 2 ^ 60 + bitsOf x.toNat 55 0)

/-- Master id of a wave's workgroup (R340). -/
def State.wgMaster (s : State) (w : Wave) : DWord :=
  let slot := ((s.launchOf? w).map (·.slot.val)).getD 0
  BitVec.ofNat 64 (2 * 2 ^ 60 + w.asid.toNat * 2 ^ 40 + slot * 2 ^ 24 + s.linOf w % 2 ^ 23)

/-- The waves that a master id names: one wave, the producer slot's, or a workgroup's. -/
def State.mastered (s : State) (m : DWord) : List Wave :=
  s.waves.filter fun w => (match w.kind with | .combiner _ => false | _ => true) &&
    (w.master == m || (w.kind == .launched && s.wgMaster w == m))

/-- A wave thawed: it goes on, or takes its trap again (R341). -/
def State.thawWave (s : State) (w : Wave) : State :=
  let s := s.modWave w.id fun x => { x with frozen := none, again := none }
  match w.again.bind fun (t, info, word) => (w.path? t).map fun p => (p, info, word) with
  | some (p, info, word) => s.trap { w with frozen := none, again := none } p word info
  | none => s

/-- FRZCMD thaw. A master whose freeze record still waits stays frozen (R341). -/
def execFrzcmdThaw (master : DWord) (s : State) : Result :=
  let m := frzMaster master
  if s.freezeRecords.any fun r => r.master == m then .next s
  else
    let s := { s with frozenMasters := s.frozenMasters.filter fun r => r.master != m }
    .next (((s.mastered m).filter fun w => w.frozen.isSome).foldl State.thawWave s)

/-- A launch killed (R341): every wave of it ends, with the tasks and pins they hold, and it retires without step 2 of
R290. What its waves had issued and not completed is dropped. [DESIGN CHOICE, log 85, unsafe] -/
def State.killLaunch (s : State) (l : Launch) : State :=
  let gs := (s.launchGangs l).map (·.id)
  let ws := s.launchWaves l
  let mine := fun (w : Nat) => ws.any fun x => x.id == w
  let s := ws.foldl (fun s w => (s.returnTask w).endPin w) s
  let s := gs.foldl (fun s g => match s.gang? g with
    | some g => (s.gangCmds g).foldl (fun s c => s.dropCmdOps c.2) s
    | none => s) s
  let s := ws.foldl State.dropWave s
  let s := { s with
    cores := s.cores.map fun (k : Core) => { k with engine := k.engine.filter fun c => !gs.contains c.gang
                                                    arrayQ := k.arrayQ.filter fun e => !gs.contains e.gang }
    gangs := s.gangs.filter fun g => !gs.contains g.id
    releases := s.releases.filter fun r => !mine r.req.wave
    publishes := s.publishes.filter fun x => !mine x.req.wave
    linkOps := s.linkOps.filter fun o => match o.wave with | some w => !mine w | none => true
    heldParks := s.heldParks.filter fun h => !mine h.wave
    syscalls := s.syscalls.filter fun c => !mine c.wave }
  let s := s.modFabric fun f => { f with ops := f.ops.filter fun o => !mine o.wave }
  ((s.retireLaunch l false).getD s).round

/-- An engine killed: its unlanded commands fail with cause 0x0F, and the MMA that follows a COPYM is abandoned with it (R189,
R201, R341). -/
def State.killEngine (s : State) (c : Fin 256) : State :=
  let s := { s with frozenMasters := s.frozenMasters.filter fun r => r.master != engineMaster c }
  let ids := (s.core c).accepted.map (·.id)
  let s := s.modCore c fun k => { k with arrayQ := k.arrayQ.filter fun e => match e.op with
    | .mma _ _ _ _ (some d) => !ids.contains d
    | _ => true }
  (s.core c).accepted.foldl (fun s x => (s.dropCmdOps x).endCmd c x (some (0x0F, 0))) s

/-- Master id of function k of pcie0; virtual functions are 1 and up (R340, R418). -/
def functionMaster (k : Nat) : DWord := BitVec.ofNat 64 (5 * 2 ^ 60 + (k - 1))

/-- A virtual function of pcie0 reset and taken down: its message area is empty, and it stays disabled (R418). -/
def State.killFunction (s : State) (k : Nat) : State :=
  let s := { s with frozenMasters := s.frozenMasters.filter fun r => r.master != functionMaster (k + 1) }
  s.modDevice fun d => { d with functions := d.functions.mapIdx fun i (f : PcieFunction) => if i = k + 1 then { f with enabled := false, message := [] } else f }

/-- A port taken down (R390, R419). -/
def State.killPort (s : State) (n : Fin 16) : State :=
  let s := { s with frozenMasters := s.frozenMasters.filter fun r => r.master != portMaster n.val }
  s.setReg (Reg.klPort n) (s.reg (Reg.klPort n) &&& 0xFFFF0000#64)

/-- FRZCMD kill (R341, R418, R419). For the other kinds of master the spec states no effect. -/
def execFrzcmdKill (master : DWord) (s : State) : Result :=
  let m := frzMaster master
  let n := bitsOf m.toNat 31 0
  match bitsOf m.toNat 63 60 with
  | 1 | 2 =>
    match (s.mastered m).findSome? s.launchOf? with
    | some l => if (s.launchWaves l).all s.pinFree then .next (s.killLaunch l) else notEnabled
    | none => .next s
  | 4 => .next (s.killEngine (Fin.ofNat 256 n))
  | 5 => .next (s.killFunction n)
  | 6 => if n < 16 then .next (s.killPort (Fin.ofNat 16 n)) else .next s
  | _ => .next s

/-- A wave halted at its next instruction boundary (R341): at once, unless an instruction of it holds its pipe, or it takes a
trap: then before the handler's first instruction (R329). -/
def State.haltNow (s : State) (w : Wave) : State :=
  let draining := fun (p : Path) => match p.status with | .blocked (.drain ..) => true | _ => false
  if w.frozen.isNone && w.paths.all fun p => (p.stage == .none || p.stage == .woken) && !draining p then s.haltWave w
  else s.modWave w.id fun x => { x with haltReq := true }

/-- FRZCMD HALT (R341). -/
def execFrzcmdHalt (master : DWord) (s : State) : Result := .next ((s.mastered (frzMaster master)).foldl State.haltNow s)

end Sys2Proof.Machine
end

