-- ==== Sys2Proof/Machine/CtlSteps.lean ====
section
/-! DEFINITION. Steps of the memory controllers: write-backs, overflow and exhaustion (R97 to R102), reads and errors (R96,
R111 to R113), page commands (R103), the controllers' registers and the format windows (R99, R104, R105). -/

namespace Sys2Proof.Machine

/-! ## Write-backs -/

/-- Lines that an overflow buffer holds (R101). -/
def overflowRoom : Nat := 32768

/-- The bytes of a line that the overflow buffer holds, replaced; none where it does not hold it (R101). -/
def Controller.rebuffer (c : Controller) (L : Nat) (d : Vector Byte 128) : Option Controller :=
  if c.overflow.any fun o => o.index == L then
    some { c with overflow := c.overflow.map fun (o : OverflowLine) => if o.index = L then { o with data := d } else o }
  else none

/-- A line enters the overflow buffer; CHUNK_LOW where it was empty (R100, R101). -/
def State.bufferLine (s : State) (line : Nat) (d : Vector Byte 128) : State :=
  let pa := line * 128
  let mc := mcOf pa
  let first := (s.ctl mc).overflow.isEmpty
  let o : OverflowLine := { index := lineIndex pa, part := (s.pageState pa).part, data := d }
  let s := (s.modCtl mc fun c => { c with overflow := c.overflow ++ [o] }).count (.controller mc) 0x34 1
  if first then s.interrupt (.chunkLow mc) else s

/-- The master whose access caused an eviction is frozen with cause 2: its wave, or another master (R102, R339). Master
0 stands for a unit that no freeze reaches. [DESIGN CHOICE, log 86, unsafe] -/
def State.freezeNamed (s : State) (m : DWord) (cause : Nat) : State :=
  match s.mastered m with
  | [] => if m = 0 ∨ bitsOf m.toNat 63 60 = 1 then s else s.freezeMaster m cause 0
  | ws => ws.foldl (fun s w => if w.frozen.isSome then s else s.freezeWave w cause 0) s

/-- The oldest write-back of a line on its way, replaced or removed. -/
def replaceWrite (line : Nat) (x : Option LineWrite) : List LineWrite → List LineWrite
  | [] => []
  | w :: l => if w.line = line then (match x with | some y => y :: l | none => l) else w :: replaceWrite line x l

/-- WRITEBACK (R96, R97, R101, R102): the oldest write-back of the line. [DESIGN CHOICE, log 3, safe; DESIGN CHOICE, log 86, unsafe] -/
def execWriteback (line : Nat) (candidate : Option Nat) (chunk shared : Nat) (s : State) : Result :=
  match s.lineWrites.find? fun w => w.line == line with
  | none => notEnabled
  | some x =>
    let mc := mcOf (line * 128)
    let s' := { s with lineWrites := replaceWrite line none s.lineWrites }
    if x.held then notEnabled
    else
      match (s.ctl mc).rebuffer (lineIndex (line * 128)) x.data with
      | some c => .next ((s'.setCtl mc c).count (.controller mc) 0x31 1)
      | none =>
        match s'.writebackLine line x.data candidate chunk shared with
        | .done s => .next s
        | .badChoice => notEnabled
        | .noChunks =>
          let s' := s'.count (.controller mc) 0x31 1
          if (s.ctl mc).overflow.length < overflowRoom then .next (s'.bufferLine line x.data)
          else
            let s' := { s' with lineWrites := replaceWrite line (some { x with held := true }) s.lineWrites }
            .next ((s'.freezeNamed x.master 2).interrupt (.chunkExhausted mc x.master))

/-- A held write-back of the controller enters its buffer (R102). -/
def State.enterHeld (s : State) (mc : Fin 8) : State :=
  match s.lineWrites.find? fun w => w.held && mcOf (w.line * 128) == mc with
  | none => s
  | some w =>
    let s := { s with lineWrites := replaceWrite w.line none s.lineWrites }
    match (s.ctl mc).rebuffer (lineIndex (w.line * 128)) w.data with
    | some c => s.setCtl mc c
    | none => s.bufferLine w.line w.data

/-- The buffered lines retried in the order they entered: the first whose alloc succeeds leaves the buffer, and those
before it stay (R101). -/
def State.retryBuffered (s : State) (mc : Fin 8) (candidate : Option Nat) (chunk shared : Nat) :
    List OverflowLine → List OverflowLine → Option State
  | _, [] => none
  | kept, o :: rest =>
    let s' := s.modCtl mc fun c => { c with overflow := kept ++ rest }
    match s'.writebackLine (lineOfIndex mc o.index) o.data candidate chunk shared with
    | .done s => some (s.enterHeld mc)
    | .noChunks => State.retryBuffered s mc candidate chunk shared (kept ++ [o]) rest
    | .badChoice => none

/-- OVERFLOW_RETRY (R101, R102): the oldest buffered line whose alloc succeeds. [DESIGN CHOICE, log 3, safe] -/
def execOverflowRetry (mc : Fin 8) (candidate : Option Nat) (chunk shared : Nat) (s : State) : Result :=
  match s.retryBuffered mc candidate chunk shared [] (s.ctl mc).overflow with
  | some s => .next s
  | none => notEnabled

/-! ## Reads -/

/-- The read of the line goes to the DRAM of its controller: its page is backed, and no buffered bytes or LOST entry
answer it (R96, R101, R113). -/
def State.readsDram (s : State) (line : Nat) : Bool :=
  let pa := line * 128
  inLineSpace pa && (s.pageState pa).state != 0 && (s.entryOf pa).mode != 15
    && !((s.ctl (mcOf pa)).overflow.any fun o => o.index == lineIndex pa)

/-- LINE_READ (R96, R111 to R113): a read expands the line for its home, with an error corrected in place, or meets an
uncorrectable one. -/
def execLineRead (line : Nat) (error : EccError) (s : State) : Result :=
  if !s.readsDram line then notEnabled
  else
    let mc := mcOf (line * 128)
    let s := s.count (.controller mc) 0x30 1
    .next (match error with
      | .none => s
      | .corrected => s.count (.controller mc) 0x33 1
      | .uncorrectable => s.loseLine line)

/-! ## Page commands (R103) -/

/-- The lines of a page at a controller: 64 (R91). -/
def pageLines (mc : Fin 8) (page : Nat) : List Nat :=
  ((List.range 512).map (page * 512 + ·)).filter fun l => mcOf (l * 128) == mc

/-- The status of the last page command. -/
def State.pageStatus (s : State) (mc : Fin 8) (x : Nat) : State := s.setReg (Reg.mcPgStat mc) (BitVec.ofNat 64 x)

/-- The controller's copy of a page state (R91). -/
def State.pageCopy (s : State) (mc : Fin 8) (page : Nat) : PageState := SMap.get PageState.reset (s.ctl mc).pages page

/-- A page changes its state at a controller. -/
def Controller.setPage (c : Controller) (page : Nat) (x : PageState) : Controller :=
  { c with pages := SMap.set PageState.reset c.pages page x }

/-- Every line of a page at a controller reads zero. [DESIGN CHOICE, log 87, unsafe] -/
def State.zeroPage (s : State) (mc : Fin 8) (page : Nat) : State :=
  { s with mem := (pageLines mc page).foldl (fun m l => Memory.clear m (l * 128) 128) s.mem }

/-- MCPGCMD_PACKED: UNBACKED to PACKED. -/
def execMcpgcmdPacked (mc : Fin 8) (page : BitVec 24) (part : Fin 32) (s : State) : Result :=
  if (s.pageCopy mc page.toNat).state ≠ 0 then .next (s.pageStatus mc 2)
  else
    let s := s.modCtl mc fun c =>
      ((pageLines mc page.toNat).foldl (fun c l => c.setEntry (lineIndex (l * 128)) ConcEntry.zero) c).setPage page.toNat
        { state := 2, part := part }
    .next ((s.zeroPage mc page.toNat).pageStatus mc 0)

/-- What becomes of 64 allocations. -/
inductive RunAlloc where
  | done (s : State)
  | noChunks
  | badChoice

/-- RAW runs for lines of a partition, at the chunks that the unit chooses. -/
def State.allocRaw (mc : Fin 8) (p : Fin 32) : List Nat → List Nat → State → RunAlloc
  | [], _, s => .done s
  | l :: ls, ks, s =>
    if !(s.allocOk mc p 4) then .noChunks
    else
      match ks with
      | [] => .badChoice
      | k :: ks =>
        if (s.ctl mc).runFree k 4 then
          let e : ConcEntry := { mode := 9, part := BitVec.ofNat 5 p.val, refc := 0, ptr := BitVec.ofNat 32 k }
          State.allocRaw mc p ls ks (s.modCtl mc fun c => (c.charge p.val 4).setEntry (lineIndex (l * 128)) e)
        else .badChoice

/-- MCPGCMD_FIXED: UNBACKED to FIXED. [DESIGN CHOICE, log 3, safe] -/
def execMcpgcmdFixed (mc : Fin 8) (page : BitVec 24) (part : Fin 32) (chunks : List Nat) (s : State) : Result :=
  if (s.pageCopy mc page.toNat).state ≠ 0 then .next (s.pageStatus mc 2)
  else
    match State.allocRaw mc part (pageLines mc page.toNat) chunks s with
    | .noChunks => .next (s.pageStatus mc 1)
    | .badChoice => notEnabled
    | .done s' =>
      let s' := (s'.modCtl mc fun c => c.setPage page.toNat { state := 1, part := part }).chunkLowCheck s mc
      .next ((s'.zeroPage mc page.toNat).pageStatus mc 0)

/-- MCPGCMD_UNBACKED: PACKED or FIXED to UNBACKED; every line is released (R97). [DESIGN CHOICE, log 133, unsafe] -/
def execMcpgcmdUnbacked (mc : Fin 8) (page : BitVec 24) (_part : Fin 32) (s : State) : Result :=
  if (s.pageCopy mc page.toNat).state = 0 then .next (s.pageStatus mc 2)
  else
    let free := fun (c : Controller) (l : Nat) =>
      (c.release (lineIndex (l * 128))).setEntry (lineIndex (l * 128)) ConcEntry.zero
    let s := s.modCtl mc fun c => ((pageLines mc page.toNat).foldl free c).setPage page.toNat PageState.reset
    .next ((s.zeroPage mc page.toNat).pageStatus mc 0)

/-- MCPGCMD_RESERVED: always status 2. -/
def execMcpgcmdReserved (mc : Fin 8) (_page : BitVec 24) (_part : Fin 32) (s : State) : Result := .next (s.pageStatus mc 2)

/-! ## Registers -/

/-- A concordance entry as MCCRD returns it (R95). -/
def ConcEntry.toWord (e : ConcEntry) : DWord := e.mode ++ e.part ++ e.refc ++ e.ptr

/-- The entry that MCCRD selects (R104). -/
def State.selectedEntry (s : State) (mc : Fin 8) : ConcEntry := (s.ctl mc).entry (s.reg (Reg.mcCrd mc)).toNat

/-- MCCRD (R104). -/
def execMccrd (mc : Fin 8) (index : DWord) (s : State) : Result := .next (s.setReg (Reg.mcCrd mc) index)

/-- An error record as MCERRLOG returns it; 0 where there is none (R104). -/
def State.oldestError (s : State) (mc : Fin 8) : DWord :=
  match (s.ctl mc).errlog with
  | (cause, l) :: _ => cause ++ (0 : BitVec 26) ++ l
  | [] => 0

/-- MCERRLOG_POP (R104). -/
def execMcerrlogPop (mc : Fin 8) (s : State) : Result := .next (s.modCtl mc fun c => { c with errlog := c.errlog.tail })

/-- The sum of the reservations with V(p) set to a value (R99). -/
def State.reservedSum (s : State) (mc : Fin 8) (p : Fin 32) (v : Nat) : Nat :=
  (List.range 32).foldl (fun t q => t + if q = p.val then v else (s.reg (Reg.mcResv mc q)).toNat) 0

/-- MCRESV_WRITE (R99). -/
def execMcresvWrite (mc : Fin 8) (p : Fin 32) (value : DWord) (s : State) : Result :=
  .next (if s.reservedSum mc p value.toNat ≤ poolSize then s.setReg (Reg.mcResv mc p) value else s)

/-- The expanded range that a window's registers give (R105). -/
def State.windowRange (s : State) (w : Fin 16) : Nat × Nat := ((s.reg (Reg.fw w 0)).toNat, (s.reg (Reg.fw w 1)).toNat)

/-- Every L2 and L1 drops its lines of a range. -/
def State.dropRange (s : State) (r : Nat × Nat) : State :=
  let keep := fun (line : Nat) => !(decide (r.1 < line * 128 + 128 ∧ line * 128 < r.1 + r.2)) || !inExpanded (line * 128)
  { s with
    homes := s.homes.map fun (h : Home) => { h with lines := h.lines.filter fun l => keep l.line }
    cores := s.cores.map fun (k : Core) => { k with l1 := k.l1.filter (fun l => keep l.line),
                                                    lent := k.lent.filter fun l => keep l.line } }

/-- FW_REGISTER_WRITE (R105): a write that sets en takes effect only where every other field is valid. -/
def execFwRegisterWrite (window : Fin 16) (reg : Fin 7) (value : DWord) (s : State) : Result :=
  let pa := Reg.fw window reg.val
  let s' := s.setReg pa (if reg = 6 then value &&& 0xFFFFFFFF#64 else value)
  let s' := if reg = 6 ∧ value.getLsbD 0 ∧ (s'.windowCfg? window).isNone then s'.setReg pa (value &&& 0xFFFFFFFE#64) else s'
  .next ((s'.dropRange (s.windowRange window)).dropRange (s'.windowRange window))

end Sys2Proof.Machine
end

