-- ==== Sys2Proof/Machine/UnitSteps.lean ====
section
/-! DEFINITION. Reloading the producer slots (R166, R297) and the combiner engines (R138), and the dependence log's
registers (R121, R123). -/

namespace Sys2Proof.Machine

/-! ## The producer slot (R28, R166) -/

/-- The micro-program that a core's producer slot runs. -/
def State.producer? (s : State) (c : Fin 256) : Option Wave := s.waves.find? fun w => w.kind == .producer && w.core == c

/-- The 16 uniform specials of a micro-program: no task, the device id, and values that the spec leaves unstated (R44). [DESIGN CHOICE, log 91, unsafe] -/
def State.producerSpecials (s : State) : Vector Word 16 × State :=
  (Vector.ofFn fun i =>
    if i.val = 13 then BitVec.ofNat 32 0xFFFFFFFF
    else if i.val = 15 then BitVec.ofNat 32 (s.regBits Reg.devInfo 9 0)
    else Config.freeWord (s.freeCtr + i.val), { s with freeCtr := s.freeCtr + 16 })

/-- The micro-program as it starts (R166): slot 7 of pipe 31, its last two blocks, PSENTRY, PSARG in s1:s0. -/
def State.producerWave (s : State) (c : Fin 256) : Wave × State :=
  let (id, s) := s.fresh
  let (sp, s) := s.producerSpecials
  let asid := (s.reg (Reg.ps c 8)).setWidth 8
  let arg := s.reg (Reg.ps c 0x18)
  let w := Wave.fresh id .producer asid (s.partOf asid) c 31 7 (4 * s.regBits (Reg.ps c 0x20) 9 0) 0xFFFFFFFF#32
  ({ w with block := 14, nv := 16, ns := 16, prio := 3, rank := id, special := sp,
            s := (w.s.set 0 (lo32 arg)).set 1 (hi32 arg) }, s)

/-- Launched waves stand on the slot's blocks of pipe 31, placed before its program was loaded (R166). [DESIGN CHOICE, log 127, unsafe] -/
def State.slotTaken (s : State) (c : Fin 256) : Bool :=
  s.waves.any fun w => w.kind == .launched && w.core == c && w.pipe == 31 && decide (14 < w.block + (w.nv + 7) / 8)
    && ((s.gang? w.gang).map (·.resident)).getD true

/-- PSCTL_RUN: a slot that still runs goes on; the others start once their blocks are free. [DESIGN CHOICE, log 91, unsafe; DESIGN CHOICE, log 116, unsafe] -/
def execPsctlRun (core : Fin 256) (s : State) : Result :=
  match s.producer? core with
  | some _ => .next s
  | none =>
    if s.slotTaken core then notEnabled
    else
    let (w, s) := (s.endReload (.producer core) ((s.reg (Reg.ps core 8)).setWidth 8)).producerWave core
    .next ((State.setReg { s with waves := s.waves ++ [w] } (Reg.ps core 0) 1))

/-- The micro-program stands at a switch point already, or cannot reach another. -/
def Wave.producerHalts (w : Wave) : Bool := w.frozen.isSome || w.paths.all fun p => p.status != .ready

/-- PSCTL_STOP: at once where the slot runs nothing, else at the next switch point. [DESIGN CHOICE, log 91, unsafe] -/
def execPsctlStop (core : Fin 256) (s : State) : Result :=
  let s := s.startReload (.producer core)
  match s.producer? core with
  | none => .next (s.setReg (Reg.ps core 0) 2)
  | some w =>
    if w.producerHalts then .next (s.stopProducer w)
    else .next ((s.modWave w.id fun x => { x with stopReq := true }).setReg (Reg.ps core 0) 0)

/-- A 32-bit word of a block whose words stand two to a 64-bit register, written. -/
def State.setBlockWord (s : State) (base w : Nat) (x : Word) : State :=
  let pa := base + 8 * (w / 2)
  let r := s.reg pa
  s.setReg pa (if w % 2 = 0 then hi32 r ++ x else x ++ lo32 r)

/-- PRODUCER_LOAD_WRITE: PSASID, PSQMASK and PSCODE, written only while stopped. -/
def execProducerLoadWrite (core : Fin 256) (offset : Nat) (value : DWord) (s : State) : Result :=
  if !s.regBit (Reg.ps core 0) 1 then .next s
  else if offset = 0x008 then .next (s.setReg (Reg.ps core 8) (value &&& 0xFF#64))
  else if offset = 0x010 then .next (s.setReg (Reg.ps core 0x10) (value &&& 0xFFFF#64))
  else if 0x1000 ≤ offset ∧ offset < 0x2000 ∧ offset % 4 = 0 then
    .next (s.setBlockWord (Reg.ps core 0x1000) ((offset - 0x1000) / 4) (lo32 value))
  else notEnabled

/-! ## The combiner engines (R138) -/

/-- CMBCTL.drained: stopped, and no engine runs a batch. [DESIGN CHOICE, log 55, safe] -/
def State.cmbDrained (s : State) : Bool := s.regBit Reg.cmbCtl 0 && s.homes.toList.all fun h => h.batch.isNone

/-- CMBCTL_STOP: a reload of the combiner engines begins (R297). -/
def execCmbctlStop (s : State) : Result := .next ((s.startReload .combiners).setReg Reg.cmbCtl 1)
/-- CMBCTL_RESUME: the reload ends, for a context that the control cores know (R297). -/
def execCmbctlResume (s : State) : Result :=
  let (k, s) := s.takeFree
  .next ((s.endReload .combiners (Config.reloadContext k)).setReg Reg.cmbCtl 0)

/-- CMBDIR as it is stored: reserved bits 0 (R6), and val 0 for a class outside the loadable ones (R138). -/
def cmbDirValue (x : DWord) : DWord :=
  let x := x &&& 0xDFFFFFFFFCFFFFFF#64
  let c := bitsOf x.toNat 55 40
  if 1 ≤ c ∧ c ≤ 0xFFEF then x else x &&& 0x7FFFFFFFFFFFFFFF#64

/-- CMB_METHOD_WRITE: CMBDIR and CMBSTORE, written only while drained. -/
def execCmbMethodWrite (offset : Nat) (value : DWord) (s : State) : Result :=
  if !s.cmbDrained then .next s
  else if 0x50000 ≤ offset ∧ offset < 0x52000 ∧ offset % 8 = 0 then .next (s.setReg (Reg.home offset) (cmbDirValue value))
  else if 0x58000 ≤ offset ∧ offset < 0x78000 ∧ offset % 4 = 0 then
    .next (s.setBlockWord (Reg.cmbStore 0) ((offset - 0x58000) / 4) (lo32 value))
  else notEnabled

/-! ## The dependence log (R121, R123) -/

/-- DL_CONFIG_WRITE: DLBASE or DLSIZE; the log's counters start again. [DESIGN CHOICE, log 138, unsafe] -/
def execDlConfigWrite (size : Bool) (asid : BitVec 8) (value : DWord) (s : State) : Result :=
  let a := asid.toNat
  .next ((((s.setReg (if size then Reg.dlSize a else Reg.dlBase a) value).setReg (Reg.dlWr a) 0).setReg (Reg.dlRd a) 0).setReg
    (Reg.dlDrop a) 0)

/-- DLDROP_READ: reading clears the count. -/
def execDldropRead (asid : BitVec 8) (s : State) : Result := .next (s.setReg (Reg.dlDrop asid.toNat) 0)

end Sys2Proof.Machine
end

