-- ==== Sys2Proof/Machine/Registers.lean ====
section
/-! DEFINITION. The memory-mapped register blocks as the control cores write and read them (R6, R415): plain registers with
their writable bits, selectors of the event counters (R422, R423), and the value that a read returns. -/

namespace Sys2Proof.Machine

/-! ## Writable bits -/

/-- Bits [hi:lo] of a mask. -/
def bitMask (hi lo : Nat) : Nat := 2 ^ (hi + 1) - 2 ^ lo
/-- Bit i of a mask. -/
def bit1 (i : Nat) : Nat := 2 ^ i
/-- All 64 bits. -/
def allBits : Nat := 2 ^ 64 - 1

/-- The offset lies in an array of n 64-bit registers from `o` on. -/
def inRegs (off o n : Nat) : Bool := decide (o ≤ off ∧ off < o + 8 * n ∧ off % 8 = 0)

/-- The first table row of an array that holds the offset. -/
def maskIn (off : Nat) (rows : List (Nat × Nat × Nat)) : Option Nat :=
  (rows.find? fun r => inRegs off r.1 r.2.1).map (·.2.2)

/-- Home slices: L2OCCLIM, DLRD (R123). -/
def homeMasks : List (Nat × Nat × Nat) := [(0, 256, bitMask 14 0), (0x2000, 256, allBits)]
/-- Translation: TRROOT (R150). -/
def translationMasks : List (Nat × Nat × Nat) := [(0, 256, bitMask 51 16 + bit1 0)]
/-- Buffer maps: ENGBMAP (R196). -/
def bmapMasks : List (Nat × Nat × Nat) := [(0, 256, bitMask 51 15 + bitMask 10 0)]
/-- Scheduler: SCHTIME, SQBASE (R296). -/
def schedulerMasks : List (Nat × Nat × Nat) := [(0x800, 256, allBits), (0x1200, 32, bitMask 51 15 + bit1 0)]
/-- Traps and switching: TRAPBASE, SAVEBASE, SYSCBASE, FRZBASE, FRZRD (R341). -/
def trapMasks : List (Nat × Nat × Nat) :=
  [(0, 256, bit1 63 + bitMask 54 2), (0x800, 256, bit1 63 + bitMask 51 12),
   (0x1000, 256, bit1 63 + bitMask 51 12 + bitMask 7 0), (0x1800, 1, bitMask 51 12), (0x1810, 1, allBits)]
/-- Catalogue: CATBASE, SEGPOOLB, SEGPOOLL, PRELBASE, PRELRD (R353). -/
def catalogueMasks : List (Nat × Nat × Nat) :=
  [(0, 32, bitMask 51 12 + bitMask 4 0), (0x100, 32, bitMask 38 0), (0x200, 32, allBits),
   (0x300, 32, bitMask 51 12 + bitMask 3 0), (0x500, 32, allBits)]
/-- Tasks: TKQUOTA, TKRQBASE, TKRQRD, TKRDIDX (R380). -/
def taskMasks : List (Nat × Nat × Nat) :=
  [(0, 32, bitMask 17 0), (0x200, 32, bitMask 51 12 + bitMask 3 0), (0x400, 32, allBits), (0x500, 1, bitMask 17 0)]
/-- Fabric: KLRMASK, KLASID, PODADJ (R404). -/
def fabricMasks : List (Nat × Nat × Nat) := [(0x2000, 17, bitMask 16 0), (0x2300, 32, bitMask 8 0), (0x2428, 1, allBits)]
/-- Device control: MARGCAD (R416). -/
def deviceMasks : List (Nat × Nat × Nat) := [(0x400, 1, bitMask 7 0)]
/-- A producer slot: PSARG, PSENTRY (R166). -/
def producerMasks : List (Nat × Nat × Nat) := [(0x18, 1, allBits), (0x20, 1, bitMask 9 0)]
/-- A matrix array: MGCTL, MGTHR (R224). -/
def arrayMasks : List (Nat × Nat × Nat) := [(0, 1, bit1 0), (8, 1, bitMask 47 0)]

/-- Writable bits of a plain register of the blocks from 0x201_0000_0000 on; none for the others. -/
def sharedMask (pa : Nat) : Option Nat :=
  let off := pa % 2 ^ 24
  match pa / 2 ^ 24 with
  | 0x20100 => maskIn off homeMasks
  | 0x20101 => maskIn off translationMasks
  | 0x20102 => maskIn off bmapMasks
  | 0x20103 => maskIn off schedulerMasks
  | 0x20104 => maskIn off trapMasks
  | 0x20105 => maskIn off catalogueMasks
  | 0x20106 => maskIn off taskMasks
  | 0x20107 => maskIn off fabricMasks
  | 0x20108 => maskIn off deviceMasks
  | 0x20200 => maskIn (off % 0x10000) producerMasks
  | 0x20300 => maskIn (off % 0x10000) arrayMasks
  | _ => none

/-- Writable bits of a plain register. [DEDUCED, log 15, safe] -/
def plainMask (pa : Nat) : Option Nat :=
  if 0x20000000000 ≤ pa ∧ pa < 0x20000800000 then maskIn (pa % 0x100000) [(8, 1, allBits)] else sharedMask pa

/-! ## Event counters (R422, R423) -/

/-- The unit at an offset of the counter block, and the offset in its bank. -/
def counterUnit? (off : Nat) : Option (CounterUnit × Nat) :=
  let k := off / 0x1000
  let o := off % 0x1000
  if k < 0x100 then some (.core (Fin.ofNat 256 k), o)
  else if k < 0x180 then some (.home (Fin.ofNat 128 (k - 0x100)), o)
  else if 0x200 ≤ k ∧ k < 0x208 then some (.controller (Fin.ofNat 8 (k - 0x200)), o)
  else if 0x300 ≤ k ∧ k < 0x310 then some (.port (Fin.ofNat 16 (k - 0x300)), o)
  else none

/-- The sources of a unit kind (R423). -/
def sourceOk (u : CounterUnit) (src : Nat) : Bool :=
  src == 1 || (match u with
    | .core _ => decide (0x10 ≤ src ∧ src ≤ 0x1A)
    | .home _ => decide (0x20 ≤ src ∧ src ≤ 0x25)
    | .controller _ => decide (0x30 ≤ src ∧ src ≤ 0x34)
    | .port _ => decide (0x40 ≤ src ∧ src ≤ 0x43))

/-- COUNTER_SELECT_WRITE (R423). [DEDUCED, log 90, unsafe] -/
def execCounterSelectWrite (unit : CounterUnit) (k : Nat) (value : DWord) (s : State) : Result :=
  .next (if k < counterCount unit && sourceOk unit (value.toNat % 256) then
      s.setReg (Reg.counters unit + 8 * k) (value &&& 0x1FF#64) else s)

/-- A count register written: the overflow bit can only be cleared (R422). [DEDUCED, log 90, unsafe] -/
def State.writeCount (s : State) (pa : Nat) (value : DWord) : State :=
  s.setReg pa ((value &&& 0xFFFFFFFFFFFF#64) ||| (value &&& s.reg pa &&& 0x1000000000000#64))

/-- A counter's count register. -/
def isCount (pa : Nat) : Bool :=
  decide (0x20400000000 ≤ pa) && (match counterUnit? (pa - 0x20400000000) with
    | some (u, o) => inRegs o 0x100 (counterCount u)
    | none => false)

/-! ## Writes -/

/-- SCHCTX(a) written (R295, R296): a change of run dispatches the context or asks it to stop. -/
def State.writeSchCtx (s : State) (a : BitVec 8) (value : DWord) : State :=
  let inc := bitsOf value.toNat 4 0
  let x := (value &&& 0xDF00000000000000#64) ||| BitVec.ofNat 64 (if 1 ≤ inc ∧ inc ≤ 16 then inc else 4)
  let was := s.ctxRuns a
  let s := s.setReg (Reg.schCtx a.toNat) x
  if was && !value.getLsbD 62 then s.preempt a
  else if !was && value.getLsbD 62 then s.round
  else s

/-- KLROUTE as it is stored (R404). -/
def routeValue (x : DWord) : DWord :=
  let x := x &&& 0x800000000000001F#64
  if bitsOf x.toNat 4 0 ≤ 16 then x else x &&& 0x1F#64

/-- Registers whose writes are steps of their own. -/
def ownStep (pa : Nat) : Bool :=
  let mc := decide (0x20000000000 ≤ pa ∧ pa < 0x20000800000) &&
    (pa % 0x100000 == 0x20 || pa % 0x100000 == 0x30 || inRegs (pa % 0x100000) 0x100 32 || inRegs (pa % 0x100000) 0x400 128)
  let off := pa % 2 ^ 24
  let core := off % 0x10000
  mc || (match pa / 2 ^ 24 with
    | 0x20100 => inRegs off 0x800 512 || off == 0x48000 || inRegs off 0x50000 1024 || decide (0x58000 ≤ off ∧ off < 0x78000)
    | 0x20101 => off == 0x800
    | 0x20103 => off == 0x1000
    | 0x20104 => off == 0x1818
    | 0x20105 => off == 0x600
    | 0x20107 => inRegs off 0x2100 16 || off == 0x2408 || off == 0x2430
    | 0x20108 => off == 8 || inRegs off 0x100 32 || off == 0x300 || inRegs off 0x480 4
    | 0x20200 => core == 0 || core == 8 || core == 0x10 || decide (0x1000 ≤ core ∧ core < 0x2000)
    | 0x20300 => core == 0x10 || inRegs core 0x100 16
    | 0x20400 => (match counterUnit? off with
        | some (u, o) => inRegs o 0 (counterCount u)
        | none => false)
    | _ => false)

/-- The first address above the register region: what lies there is unassigned (R88, R415). -/
def regionEnd : Nat := 0x21000000000

/-- A RISC-V exception of a control core: 2 illegal instruction, 5 load access fault, 7 store access fault. [PRESUMED, log 77, unsafe] -/
def State.controlFault (s : State) (k : Fin 16) (cause : Nat) : State :=
  { s with control := s.control.set k { s.control[k] with exception := some cause } }

/-- A write of TLBINV with the reserved kind, which is ignored (R150). -/
def tlbInvReserved (pa : Nat) (value : DWord) : Bool := pa == 0x20101000800 && value.toNat / 2 ^ 62 == 3

/-- REGISTER_WRITE (R88, R150, R415): plain registers store their writable bits; read-only registers and the other addresses of the
region ignore the write; above the region the control core takes an access fault. -/
def execRegisterWrite (place : ControlAccess) (value : DWord) (s : State) : Result :=
  let pa := place.pa
  if ownStep pa && !tlbInvReserved pa value then notEnabled
  else if regionEnd ≤ pa then .next (s.controlFault place.core 7)
  else
    match plainMask pa with
    | some m => .next (s.setReg pa (value &&& BitVec.ofNat 64 m))
    | none =>
      if isCount pa then .next (s.writeCount pa value)
      else if pa / 2 ^ 24 = 0x20103 ∧ inRegs (pa % 2 ^ 24) 0 256 then
        .next (s.writeSchCtx (BitVec.ofNat 8 (pa % 2 ^ 24 / 8)) value)
      else if pa / 2 ^ 24 = 0x20107 ∧ inRegs (pa % 2 ^ 24) 0 1024 then .next (s.setReg pa (routeValue value))
      else if pa = Reg.klCtl then .next (s.setReg pa ((s.reg pa &&& 0x7E#64) ||| (value &&& 1#64)))
      else .next s

/-! ## Reads -/

/-- A register of a controller as a read returns it (R104). -/
def State.readController (s : State) (mc : Fin 8) (off : Nat) : DWord :=
  let c := s.ctl mc
  match off with
  | 0x000 => BitVec.ofNat 64 c.free
  | 0x010 => BitVec.ofNat 64 c.overflow.length
  | 0x018 => BitVec.ofNat 64 c.bad.length
  | 0x020 => 0
  | 0x030 => (s.selectedEntry mc).toWord
  | 0x038 => s.oldestError mc
  | _ =>
    if inRegs off 0x200 32 then BitVec.ofNat 64 (c.usedBy ((off - 0x200) / 8))
    else if inRegs off 0x400 128 then s.reg (0x20000000000 + off)
    else s.reg (Reg.mc mc off)

/-- SCHCTX(a) as a read returns it: saved and gangs computed (R296). -/
def State.readSchCtx (s : State) (a : BitVec 8) : DWord :=
  let gs := s.ctxGangs a
  s.reg (Reg.schCtx a.toNat) ||| (if !gs.isEmpty && gs.all fun g => g.saved then 0x2000000000000000#64 else 0)
    ||| (if gs.isEmpty then 0 else 0x0080000000000000#64)

/-- SCHRESV(p) (R296). -/
def State.readSchResv (s : State) (p : Nat) : DWord :=
  match SMap.at? s.reservations p with
  | some (cl, whole, k) => BitVec.ofNat 64 (2 ^ 63 + (if whole then 2 ^ 62 else 0) + cl.val * 256 + k.val)
  | none => 0

/-- SCHSLOT(k) (R296). -/
def State.readSchSlot (s : State) (k : Fin 256) : DWord :=
  match s.launch? k with
  | some l => BitVec.ofNat 64 ((if l.unplaced < l.units then 2 else 1) * 2 ^ 62 + l.asid.toNat * 2 ^ 32 + l.unplaced)
  | none => 0

/-- PSCTL of a core: the frozen bit computed (R166). -/
def State.readPsCtl (s : State) (c : Fin 256) : DWord :=
  s.reg (Reg.ps c 0) ||| (if (s.producer? c).any fun w => w.frozen.isSome then 4 else 0)

/-- Code of a task state (R370). -/
def TaskState.code : TaskState → Nat
  | .free => 0 | .waiting => 1 | .ready => 2 | .running => 3 | .faulted => 4 | .parked => 5

/-- The 256 bits of a task-table entry (R369). -/
def TaskEntry.bits (e : TaskEntry) : Nat :=
  e.succ.toNat * 2 ^ 204 + e.arg.toNat * 2 ^ 152 + e.seq.toNat * 2 ^ 120 + e.iter.toNat * 2 ^ 88 + e.layer.toNat * 2 ^ 72
    + e.lin.toNat * 2 ^ 56 + e.ver.toNat * 2 ^ 44 + (if e.vt then 2 ^ 43 else 0) + (if e.cp then 2 ^ 42 else 0)
    + e.dep.toNat * 2 ^ 24 + e.state.code * 2 ^ 20 + e.type.toNat * 2 ^ 16 + e.asid.toNat * 2 ^ 8

/-- Entries of a partition that are not free (R380). -/
def State.tasksUsed (s : State) (p : Nat) : Nat :=
  (s.tasks.filter fun x => x.2.state != .free && (s.partOf x.2.asid).val == p).length

/-- A register of the task unit (R380). -/
def State.readTask (s : State) (off : Nat) : DWord :=
  if inRegs off 0x100 32 then BitVec.ofNat 64 (s.tasksUsed ((off - 0x100) / 8))
  else if inRegs off 0x508 4 then
    BitVec.ofNat 64 ((s.task (s.reg Reg.tkRdIdx).toNat).bits / 2 ^ (64 * ((off - 0x508) / 8)))
  else s.reg (0x20106000000 + off)

/-- A register of the fabric (R404). -/
def State.readFabric (s : State) (off : Nat) : DWord :=
  if h : inRegs off 0x2200 16 then
    BitVec.ofNat 64 (s.fabric.lastWm[(off - 0x2200) / 8]'(by simp [inRegs] at h; omega))
  else if off = 0x2420 then BitVec.ofNat 64 s.fabric.podTime
  else s.reg (0x20107000000 + off)

/-- A register of the shared blocks. [DESIGN CHOICE, log 55, safe] -/
def State.readShared (s : State) (pa : Nat) : DWord :=
  let off := pa % 2 ^ 24
  match pa / 2 ^ 24 with
  | 0x20100 =>
    if inRegs off 0x3000 32768 then
      BitVec.ofNat 64 ((s.home (Fin.ofNat 128 ((off - 0x3000) / 0x800))).occupancy (BitVec.ofNat 8 (off % 0x800 / 8)))
    else if off = 0x48000 then s.reg pa ||| (if s.cmbDrained then 2 else 0)
    else if 0x58000 ≤ off ∧ off < 0x78000 then (s.blockWord (Reg.cmbStore 0) ((off - 0x58000) / 4)).setWidth 64
    else s.reg pa
  | 0x20103 =>
    if inRegs off 0 256 then s.readSchCtx (BitVec.ofNat 8 (off / 8))
    else if inRegs off 0x1100 32 then s.readSchResv ((off - 0x1100) / 8)
    else if inRegs off 0x2000 256 then s.readSchSlot (Fin.ofNat 256 ((off - 0x2000) / 8))
    else s.reg pa
  | 0x20105 => if off = 0x600 then s.reg pa ||| (if s.regBit pa 0 then 2 else 0) else s.reg pa
  | 0x20106 => s.readTask off
  | 0x20107 => s.readFabric off
  | 0x20200 =>
    let core : Fin 256 := Fin.ofNat 256 (off / 0x10000)
    let o := off % 0x10000
    if o = 0 then s.readPsCtl core
    else if 0x1000 ≤ o ∧ o < 0x2000 then (s.blockWord (Reg.ps core 0x1000) ((o - 0x1000) / 4)).setWidth 64
    else s.reg pa
  | _ => s.reg pa

/-- What a control core's load of a register returns (R415): what the register holds, or what the unit computes. Unassigned
addresses of the region hold nothing and read 0. Reads that change state are steps of their own. -/
def State.readRegister (s : State) (pa : Nat) : DWord :=
  if 0x20000000000 ≤ pa ∧ pa < 0x20000800000 then
    s.readController (Fin.ofNat 8 ((pa - 0x20000000000) / 0x100000)) (pa % 0x100000)
  else s.readShared pa

/-- A control core's load of a register: its value, or an access fault above the region (R88). -/
def State.loadRegister (s : State) (core : Fin 16) (pa : Nat) : Option DWord × State :=
  if regionEnd ≤ pa then (none, s.controlFault core 5) else (some (s.readRegister pa), s)

end Sys2Proof.Machine
end

