-- ==== Sys2Proof/Machine/DeviceSteps.lean ====
section
/-! DEFINITION. Bring-up and recovery (R413, R414), device control (R416, R417, R420, R421) and the host's transactions
(R418). -/

namespace Sys2Proof.Machine

/-! ## Bring-up -/

/-- Physical function 0 as it enumerates (R413). -/
def PcieFunction.physical : PcieFunction := { part := none, base := 0, len := 0, enabled := true, message := [] }
/-- A virtual function that no partition is bound to (R418). -/
def PcieFunction.unbound : PcieFunction := { PcieFunction.physical with enabled := false }

/-- The machine with its device state lost: flash and protected sector stay, and the model's own counters go on. [DESIGN CHOICE, log 96, unsafe] -/
def State.cleared (s : State) : State :=
  { State.reset with
    turns := s.turns, freeCtr := s.freeCtr, nextId := s.nextId,
    device := { Device.reset with flash := s.device.flash, protectedVersion := s.device.protectedVersion,
                                  functions := [PcieFunction.physical] } }

/-- Every Kregal port goes down (R413, R420). -/
def State.portsDown (s : State) : State :=
  (List.finRange 16).foldl (fun s (n : Fin 16) => s.setReg (Reg.klPort n.val) 0) s

/-- Recovery state: no compute core runs, and BOOTSTAT names the failed step (R413, R416). The device's registers stay. [DESIGN CHOICE, log 96, unsafe] -/
def State.recovery (s : State) (step : Nat) : State :=
  (State.setReg { s.cleared with regs := s.regs } Reg.bootStat (BitVec.ofNat 64 step)).portsDown

/-- PCIECFG of a record (R416). -/
def pcieCfgValue (r : BootRecord) : DWord :=
  BitVec.ofNat 64 ((if r.pcieMode then 1 else 0) + min r.virtualFunctions 256 * 2 + r.bifurcation1.toNat * 2 ^ 10
    + r.bifurcation2.toNat * 2 ^ 14)

/-- Step 5: the record applied (R413, R414, R416). [DESIGN CHOICE, log 10, unsafe; DESIGN CHOICE, log 13, unsafe] -/
def State.applyRecord (s : State) (r : BootRecord) : State :=
  let s := s.setReg Reg.devInfo (BitVec.ofNat 64 (2 ^ 48 + r.devid.toNat))
  let s := (r.partitions.take 32).zipIdx.foldl (fun s (m, p) => s.setReg (Reg.partCl p) (m.setWidth 64)) s
  let s := (s.setReg Reg.pcieCfg (pcieCfgValue r)).setReg Reg.pwrLim (r.powerLimit.setWidth 64)
  let s := (r.vddarr.take 4).zipIdx.foldl (fun s (v, d) => s.setReg (Reg.vddArr d) (v.setWidth 64)) s
  s.modDevice fun d => { d with functions := if r.pcieMode then [] else
    PcieFunction.physical :: List.replicate (min r.virtualFunctions 256) PcieFunction.unbound }

/-- Step 6: the enabled Kregal ports come up. -/
def State.portsUp (s : State) (r : BootRecord) : State :=
  (List.finRange 16).foldl (fun s (n : Fin 16) => if r.klEnable.getLsbD n.val then s.setReg (Reg.klPort n.val) 3 else s) s

/-- Step 7: the control cores are released into the image, whose code the spec does not give. [DESIGN CHOICE, log 11, unsafe] -/
def State.releaseCores (s : State) : State :=
  let k := s.freeCtr
  { s with
    freeCtr := s.freeCtr + 32
    control := Vector.ofFn fun (i : Fin 16) =>
      { ControlCore.reset with held := false, pc := Config.freeDWord (k + 2 * i.val), fetch := Config.freeWord (k + 2 * i.val + 1) }
    device := { s.device with running := true, planTick := s.tick, releaseTick := s.tick } }

/-- The first step of the boot ROM that fails, 0 for none: the key, the flash and the training as the hardware has it; the
signatures, the versions and the record's fields as the flash holds them (R413, R414). [DESIGN CHOICE, log 97, unsafe] -/
def State.bootFailure (s : State) (derived readable trained : Bool) : Nat :=
  let flash := s.device.flash
  let r := Config.bootRecord flash
  if !derived then 1
  else if !readable then 2
  else if !Config.flashSigned flash || decide (r.version < s.device.protectedVersion) then 3
  else if Config.imageVersion flash < r.minImage then 4
  else if !Config.recordApplies flash then 5
  else if !trained then 6
  else 0

/-- The boot ROM up to its first failing step `f`, 0 for none (R413, R414). [DESIGN CHOICE, log 97, unsafe] -/
def State.powerOn (s : State) (record : BootRecord) (f : Nat) : State :=
  let past := fun (k : Nat) => f == 0 || decide (k < f)
  let s := s.cleared
  let s := if past 1 then s.setReg Reg.serial Config.serial else s
  let s := if past 4 then s.modDevice fun d => { d with protectedVersion := record.version } else s
  let s := if past 5 then s.applyRecord record else s
  if f = 0 then (s.portsUp record).releaseCores else s.recovery f

/-- POWER_ON_RESET (R413, R414): the boot ROM reads the record and the image from the flash. [DESIGN CHOICE, log 7, unsafe; DESIGN CHOICE, log 97, unsafe] -/
def execPowerOnReset (derived readable trained : Bool) (s : State) : Result :=
  .next (s.powerOn (Config.bootRecord s.device.flash) (s.bootFailure derived readable trained))

/-- The image has marked its start (R416). -/
def State.started (s : State) : Bool := s.regBit Reg.bootStat 8

/-- BOOT_WATCHDOG (R413): step 7 fails 2^34 ticks after the release. -/
def execBootWatchdog (s : State) : Result :=
  if s.device.running && !s.started && decide (2 ^ 34 ≤ s.tick - s.device.releaseTick) then .next (s.recovery 7) else notEnabled

/-- BOOTSTAT_WRITE (R416). -/
def execBootstatWrite (value : DWord) (s : State) : Result :=
  .next (if value.getLsbD 8 then s.setReg Reg.bootStat (s.reg Reg.bootStat ||| 0x100#64) else s)

/-! ## Device control -/

/-- The mask of another partition overlaps (R417). -/
def State.overlaps (s : State) (p : Fin 32) (m : DWord) : Bool :=
  (List.finRange 32).any fun q => q != p && (s.reg (Reg.partCl q.val) &&& m) != 0

/-- A gang of an ASID of the partition is resident or saved (R417). -/
def State.partBusy (s : State) (p : Fin 32) : Bool :=
  s.launches.any fun l => s.regBit (Reg.schCtx l.asid.toNat) 63 && s.partOf l.asid == p && !(s.launchGangs l).isEmpty

/-- PARTCL_WRITE (R417). [DEDUCED, log 70, safe] -/
def execPartclWrite (p : Fin 32) (value : DWord) (s : State) : Result :=
  let m := value &&& 0xFFFFFFFF#64
  .next (if s.overlaps p m || s.partBusy p then s else (s.setReg (Reg.partCl p.val) m).round)

/-- PWRLIM_WRITE (R416). [DEDUCED, log 89, unsafe] -/
def execPwrlimWrite (value : DWord) (s : State) : Result :=
  .next (if 300 ≤ value.toNat ∧ value.toNat ≤ 2400 then s.setReg Reg.pwrLim value else s)

/-- At 110 degrees the hub holds every die in reset: device state is lost and every port is down, pcie0 among them (R420). [DESIGN CHOICE, log 96, unsafe] -/
def State.trip (s : State) : State := s.cleared.modDevice fun d => { d with functions := [], tripped := true }

/-- THERMAL_TRIP (R420). [DESIGN CHOICE, log 96, unsafe] -/
def execThermalTrip (reading : BitVec 8) (s : State) : Result :=
  if 110 ≤ reading.toNat then .next s.trip else notEnabled

/-- POWER_THERMAL_THROTTLE (R420): the sensors' readings; the average is held at or below PWRLIM, the measures change no result,
and a reading of 110 degrees trips. -/
def execPowerThermalThrottle (average : BitVec 12) (hottest : BitVec 8) (s : State) : Result :=
  if 110 ≤ hottest.toNat then .next s.trip
  else if (s.reg Reg.pwrLim).toNat < average.toNat then notEnabled
  else .next ((s.setReg Reg.pwrAvg (average.setWidth 64)).setReg Reg.thermMax (hottest.setWidth 64))

/-- A drift of more than 15 mV (R421). -/
def drifted (d : BitVec 16) : Bool := decide (150 < d.toInt.natAbs)

/-- The cadence has elapsed since the last plan (R416, R421). -/
def State.planDue (s : State) : Bool :=
  let c := s.regBits Reg.margCad 7 0
  c != 0 && decide (c * 2 ^ 30 ≤ s.tick - s.device.planTick)

/-- The monitors of dies 0 to 8 show these drifts (R416). [DESIGN CHOICE, log 95, unsafe] -/
def State.sensed (s : State) (ds : List (BitVec 16)) : State :=
  (ds.take 9).zipIdx.foldl (fun s (x, d) => s.setReg (Reg.ageMon d) (x.setWidth 64)) s

/-- Some |AGEMON(d)| exceeds 150 (R421). -/
def State.ageDrifted (s : State) : Bool := (List.range 9).any fun d => drifted ((s.reg (Reg.ageMon d)).setWidth 16)

/-- MARGIN_REPLAN (R421): the drifts as the monitors show them then, and the request to the control cores. [DESIGN CHOICE, log 95, unsafe] -/
def execMarginReplan (drift : List (BitVec 16)) (s : State) : Result :=
  let s := s.sensed drift
  if s.planDue || s.ageDrifted then
    .next ((s.modDevice fun d => { d with planTick := s.tick }).interrupt .marginReplan)
  else notEnabled

/-- Ticks of the shortest ramp from one voltage to another: 5 mV a microsecond at 1.9 GHz (R5, R421). -/
def rampTicks (a b : Nat) : Nat := 380 * ((a - b) + (b - a))

/-- VDDARR_WRITE (R416, R421): the voltage ramps, and the die's drift starts again. [DESIGN CHOICE, log 88, unsafe; DESIGN CHOICE, log 95, unsafe] -/
def execVddarrWrite (die : Fin 4) (value : DWord) (s : State) : Result :=
  if 550 ≤ value.toNat ∧ value.toNat ≤ 900 then
    let (k, s) := s.takeFree
    let n := rampTicks (s.reg (Reg.vddArr die.val)).toNat value.toNat + Config.rampSlack k
    let s := s.modDevice fun d => { d with rampEnd := d.rampEnd.set die (s.tick + n) }
    .next ((s.setReg (Reg.vddArr die.val) value).setReg (Reg.ageMon die.val) 0)
  else .next s

/-! ## The host (R413, R418) -/

/-- An enabled function and its index. -/
def State.function? (s : State) (fn : Nat) : Option PcieFunction :=
  match s.device.functions[fn]? with
  | some f => if f.enabled && !(s.frozenMasters.any fun r => r.master == functionMaster fn) then some f else none
  | none => none

/-- The physical address that an access of n bytes in a function's BAR0 window starts at. -/
def PcieFunction.bar0? (f : PcieFunction) (off n : Nat) : Option (Fin 32 × Nat) :=
  match f.part with
  | some p => if off + n ≤ min f.len (2 ^ 32) ∧ f.base + off + n ≤ 2 ^ 40 then some (p, f.base + off) else none
  | none => none

/-- An access of n bytes touches a page of another partition (R417). -/
def State.crossesIn (s : State) (p : Fin 32) (pa n : Nat) : Bool := (List.range n).any fun i => s.crosses p (pa + i)

/-- A crossing access of a function: a virtual function is frozen with cause 1 (R417); the physical function has no
master id. [DESIGN CHOICE, log 93, safe] -/
def State.functionCrosses (s : State) (fn : Nat) : State := if fn = 0 then s else s.freezeMaster (functionMaster fn) 1 0

/-- The message area of BAR2: 64 KiB. -/
def messageSize : Nat := 65536
/-- The boot flash: 256 MiB. -/
def flashSize : Nat := 2 ^ 28

/-- The device is in recovery state (R413). -/
def State.inRecovery (s : State) : Bool := !s.device.running && s.regBits Reg.bootStat 3 0 != 0

/-- A function changed by the control cores (R418). -/
def State.modFunction (s : State) (fn : Nat) (g : PcieFunction → PcieFunction) : State :=
  s.modDevice fun d => { d with functions := d.functions.mapIdx fun i f => if i = fn then g f else f }

/-- HOST_BAR_ACCESS (R413, R418): the host's transactions at a function, and what the control cores set there. A transaction
outside what a function maps has no effect. [DESIGN CHOICE, log 3, safe; DESIGN CHOICE, log 94, safe] -/
def execHostBarAccess (access : HostAccess) (s : State) : Result :=
  match access with
  | .bar0Write fn off bs =>
    match (s.function? fn).bind fun f => f.bar0? off bs.length with
    | none => .next s
    | some (p, pa) =>
      if s.crossesIn p pa bs.length then .next (s.functionCrosses fn)
      else if !s.servesRange pa bs.length then notEnabled
      else .next (s.unitWrite pa bs 0)
  | .bar0Read fn off n =>
    match (s.function? fn).bind fun f => f.bar0? off n with
    | none => .next s
    | some (p, pa) =>
      if s.crossesIn p pa n then .next (s.functionCrosses fn)
      else if !s.servesRange pa n then notEnabled
      else .next (s.visit pa n 0)
  | .bar2Write fn off bs =>
    match s.function? fn with
    | some f =>
      if off + bs.length ≤ messageSize then
        let g : PcieFunction := { f with message := f.message.writeN off bs }
        .next (s.modDevice fun d => { d with functions := d.functions.set fn g })
      else .next s
    | none => .next s
  | .bar2Read .. | .flashRead .. | .bootstatRead => .next s
  | .bind fn part base len =>
    .next (if fn = 0 then s else s.modFunction fn fun f => { f with part := some part, base := base, len := len })
  | .enable fn => .next (s.modFunction fn fun f => { f with enabled := true })
  | .message fn off bs =>
    .next (if off + bs.length ≤ messageSize then s.modFunction fn fun f => { f with message := f.message.writeN off bs } else s)
  | .flashWrite off bs =>
    .next (if s.inRecovery && decide (off + bs.length ≤ flashSize) then
        s.modDevice fun d => { d with flash := d.flash.writeN off bs } else s)

end Sys2Proof.Machine
end

