-- ==== Sys2Proof/Machine/Ethernet.lean ====
section
/-! DEFINITION. The Ethernet ports (R412): frames in buffers of the control cores, the checksum offload for TCP and UDP over IPv4
and IPv6, and TCP segmentation. The header layouts are the protocols' own, which the spec only names. -/

namespace Sys2Proof.Machine

/-- A big-endian value. -/
def beNat (bs : List Byte) : Nat := bs.foldl (fun n b => 256 * n + b.toNat) 0
/-- Its n bytes. -/
def beBytes (n x : Nat) : List Byte := (leBytes n x).reverse
/-- Bytes of a frame, as a big-endian value. -/
def frameField (f : List Byte) (off n : Nat) : Nat := beNat ((f.drop off).take n)
/-- Bytes of a frame replaced. -/
def setField (f : List Byte) (off n x : Nat) : List Byte := f.take off ++ beBytes n x ++ f.drop (off + n)

/-- Sum of the 16-bit words of some bytes, an odd last byte filled up with 0. -/
def sumWords : List Byte → Nat
  | [] => 0
  | [a] => 256 * a.toNat
  | a :: b :: l => 256 * a.toNat + b.toNat + sumWords l

/-- A sum folded to 16 bits with its carries. -/
def foldSum (n : Nat) : Nat :=
  let step := fun (x : Nat) => x % 65536 + x / 65536
  step (step (step n))

/-- The Internet checksum. -/
def inetChecksum (n : Nat) : Nat := 65535 - foldSum n

/-- A TCP or UDP datagram in an Ethernet frame: where it starts, its length, and its kind. -/
structure Datagram where
  v6 : Bool
  tcp : Bool
  start : Nat
  len : Nat
  deriving DecidableEq, Repr

/-- The datagram of an unfragmented frame. -/
def datagram? (f : List Byte) : Option Datagram :=
  match frameField f 12 2 with
  | 0x0800 =>
    let ihl := 4 * (frameField f 14 1 % 16)
    let p := frameField f 23 1
    if frameField f 14 1 / 16 = 4 ∧ frameField f 20 2 % 16384 = 0 ∧ (p = 6 ∨ p = 17) ∧ ihl ≤ frameField f 16 2 then
      some { v6 := false, tcp := p == 6, start := 14 + ihl, len := frameField f 16 2 - ihl }
    else none
  | 0x86DD =>
    let p := frameField f 20 1
    if p = 6 ∨ p = 17 then some { v6 := true, tcp := p == 6, start := 54, len := frameField f 18 2 } else none
  | _ => none

/-- Where a datagram's checksum stands. -/
def Datagram.sumAt (d : Datagram) : Nat := d.start + (if d.tcp then 16 else 6)

/-- The checksum of a datagram: its pseudo-header and its bytes, the checksum field taken as 0. -/
def Datagram.checksum (d : Datagram) (f : List Byte) : Nat :=
  let addrs := if d.v6 then (f.drop 22).take 32 else (f.drop 26).take 8
  let body := (setField f d.sumAt 2 0).drop d.start
  let x := inetChecksum (sumWords addrs + d.len + (if d.tcp then 6 else 17) + sumWords (body.take d.len))
  if x = 0 ∧ !d.tcp then 65535 else x

/-- A frame with its checksum filled in. -/
def fillChecksum (f : List Byte) : List Byte :=
  match datagram? f with
  | some d => setField f d.sumAt 2 (d.checksum f)
  | none => f

/-- A received frame's checksum is right, or there is none. -/
def checksumOk (f : List Byte) : Bool :=
  match datagram? f with
  | some d => frameField f d.sumAt 2 == d.checksum f || (!d.tcp && !d.v6 && frameField f d.sumAt 2 == 0)
  | none => true

/-- The IPv4 header checksum filled in. -/
def fillHeader (f : List Byte) (d : Datagram) : List Byte :=
  if d.v6 then f
  else
    let g := setField f 24 2 0
    setField g 24 2 (inetChecksum (sumWords ((g.drop 14).take (d.start - 14))))

/-- Segment k of a TCP payload cut into pieces of mss bytes: its own lengths, sequence number, flags and checksums. -/
def tcpSegment (f : List Byte) (d : Datagram) (mss k : Nat) : List Byte :=
  let hdr := d.start + 4 * (frameField f (d.start + 12) 1 / 16)
  let all := (f.drop hdr).take (d.len - (hdr - d.start))
  let part := (all.drop (mss * k)).take mss
  let last := decide (all.length ≤ mss * (k + 1))
  let flags := frameField f (d.start + 13) 1
  let g := f.take hdr ++ part
  let g := if d.v6 then setField g 18 2 (hdr - d.start + part.length)
    else setField (setField g 16 2 (hdr - 14 + part.length)) 18 2 ((frameField f 18 2 + k) % 65536)
  let g := setField g (d.start + 4) 4 ((frameField f (d.start + 4) 4 + mss * k) % 2 ^ 32)
  let g := setField g (d.start + 13) 1 (if last then flags else flags / 16 * 16 + flags % 8 / 2 * 2)
  fillChecksum (fillHeader g d)

/-- TCP segmentation of a payload of up to 64 KiB (R412); any other frame is sent whole. [PRESUMED, log 129, unsafe] -/
def segmentFrame (f : List Byte) (mss : Nat) : List (List Byte) :=
  match datagram? f with
  | some d =>
    let n := d.len - 4 * (frameField f (d.start + 12) 1 / 16)
    if d.tcp && decide (0 < mss ∧ n ≤ 65536) then (List.range (max 1 ((n + mss - 1) / mss))).map (tcpSegment f d mss)
    else [fillChecksum f]
  | none => [f]

/-- The frames that a buffer gives to the wire, or takes from it. [PRESUMED, log 129, unsafe] -/
def portFrames (way : FrameDir) (bytes : List Byte) : List (List Byte) :=
  match way with
  | .receive => [bytes]
  | .transmit none => [fillChecksum bytes]
  | .transmit (some mss) => segmentFrame bytes mss

/-- ETHERNET_FRAME: a frame passes between a port and a buffer of the control cores (R412); every port but pcie0 is down while the
device does not run (R413, R420). -/
def execEthernetFrame (port : Fin 2) (way : FrameDir) (bytes : List Byte) (s : State) : Result :=
  if !s.device.running then notEnabled
  else
    let fs := (portFrames way bytes).map fun b =>
      ({ port := port, transmit := way != .receive, bytes := b, sound := checksumOk b } : Frame)
    .next (s.modDevice fun d => { d with frames := d.frames ++ fs })

end Sys2Proof.Machine
end

