-- ==== Sys2Proof/Machine/Periods.lean ====
section
/-! DEFINITION. The periods of a deterministic launch (R305 to R319): the end of a quantum, the steps of a period's end, and
the start of the next period. -/

namespace Sys2Proof.Machine

/-! ## The end of a quantum (R306) -/

/-- Some of these results comes from the array, which delivers it at the end of a period (R316). [DESIGN CHOICE, log 108, unsafe] -/
def awaitsArray (l : List Inflight) : Bool := l.any fun x => x.kind == .accrd && !x.settled

/-- A blocked path has ended its quantum. One that waits for a result that arrives within the period has not. [DESIGN CHOICE, log 108, unsafe] -/
def condEnds (w : Wave) : WakeCond → Bool
  | .reply regs _ => awaitsArray (w.inflight.filter fun x => x.dst.any (regs.contains ·))
  | .drain .. => awaitsArray w.inflight
  | _ => true

/-- Every path of the wave is blocked so. -/
def Wave.allBlocked (w : Wave) : Bool :=
  w.paths.all fun p => match p.status with
    | .ready => false
    | .blocked c => condEnds w c

/-- The wave has come to the end of its quantum (R306); a frozen or switched-out one has not (R308, R339). [DESIGN CHOICE, log 108, unsafe] -/
def Wave.quantumOver (w : Wave) (d : WaveDet) (q : Nat) : Bool :=
  w.frozen.isNone && !w.stopped && (w.exited || decide (q ≤ d.retired) || w.allBlocked)

/-- The deterministic data of a wave changed. -/
def Wave.modDet (w : Wave) (f : WaveDet → WaveDet) : Wave := { w with det := w.det.map f }

/-- The period machinery of a launch changed. -/
def State.modPeriod (s : State) (k : Fin 256) (f : DetState → DetState) : State :=
  s.modLaunch k fun l => { l with det := l.det.map f }

/-- QUANTUM_END (R306). -/
def execQuantumEnd (w : Nat) (s : State) : Result :=
  match s.wave? w with
  | none => notEnabled
  | some x =>
    match x.det with
    | some d =>
      if !d.ended && x.quantumOver d (s.quantumOf x) then .next (s.modWave w fun y => y.modDet fun d => { d with ended := true })
      else notEnabled
    | none => notEnabled

/-! ## Synchronising operations (R312) -/

/-- The synchronising operations. -/
def isSyncOp : Instr → Bool
  | .atadd .. | .atmin .. | .atmax .. | .atand .. | .ator .. | .atxor .. | .atxchg .. | .atcas .. | .comb .. => true
  | .arrive .. | .bar .. | .publish .. | .qpush .. | .launch .. => true
  | .tkpost .. | .tkdone | .tkpull .. | .tkcancel .. | .tkpark .. | .tkresume .. => true
  | .segopen .. | .segseal .. | .segref .. | .segdrop .. | .ctxpin .. | .ctxunpin => true
  | .link .. | .unlink .. => true
  | .nput .. | .nputOrd .. | .nget .. | .nsend .. | .nsendOrd .. | .nrecv .. | .nfence => true
  | _ => false

/-- The instruction that a path stands at. -/
def State.instrAt (s : State) (w : Wave) (p : Path) : Option Instr :=
  match s.fetch w p.pc with
  | .ok x => some (instrOfWord x)
  | .error _ => none

/-- The path of a wave that waits to execute a synchronising operation, and the operation. -/
def State.pendingSync? (s : State) (w : Wave) : Option (Path × Instr) :=
  w.paths.findSome? fun p =>
    if p.status = .blocked .period then
      match s.instrAt w p with
      | some i => if isSyncOp i then some (p, i) else none
      | none => none
    else none

/-- Waves by (C, wave id) (R312). -/
def State.syncBefore (s : State) (a b : Wave) : Bool :=
  decide (a.clock < b.clock) || (a.clock == b.clock && decide (s.waveId a < s.waveId b))

/-- A list in order, each element after those that do not come later. -/
def insertBy {α : Type} (before : α → α → Bool) (x : α) : List α → List α
  | [] => [x]
  | y :: l => if before x y then x :: y :: l else y :: insertBy before x l

/-- A list sorted, equal elements as they stood. -/
def sortBy {α : Type} (before : α → α → Bool) (l : List α) : List α := l.foldl (fun acc x => insertBy before x acc) []

/-- The waves of a launch in ascending wave id. -/
def State.wavesById (s : State) (l : Launch) : List Wave :=
  sortBy (fun a b => decide (s.waveId a < s.waveId b)) (s.launchWaves l)

/-! ## Due commands (R316) -/

/-- The wave blocks or ends: it stands at a blocking point, BAR among them, whose arrival a period holds (R313). Another
synchronising operation blocks it once a step 4 has executed it so. [DESIGN CHOICE, log 113, unsafe] -/
def State.waveBlocks (s : State) (id : Nat) : Bool :=
  match s.wave? id with
  | none => true
  | some w =>
    w.exited || w.paths.any fun p => match p.status with
      | .blocked .period => (w.det.map (·.tried)).getD false || (match s.instrAt w p with | some (.bar ..) => true | _ => false)
      | .blocked c => condEnds w c
      | .ready => false

/-- A pending PUBLISH names an entry whose hidden copy the command writes. -/
def State.publishNames (s : State) (l : Launch) (c : EngCmd) : Bool :=
  (s.launchWaves l).any fun w => match s.pendingSync? w with
    | some (p, .publish a) => (match s.pubEntry? w (srcUni w p a) with
        | some e => c.targets w e
        | none => false)
    | _ => false

/-- Engine commands of a launch that have been accepted, with their cores. -/
def State.detCmds (s : State) (l : Launch) : List (Fin 256 × EngCmd) :=
  (s.launchGangs l).flatMap fun g => (s.gangCmds g).filter fun c => c.2.det

/-- Array entries of a launch, with their cores. -/
def State.detEntries (s : State) (l : Launch) : List (Fin 256 × ArrayEntry) :=
  let gs := (s.launchGangs l).map (·.id)
  (List.finRange 256).flatMap fun c => ((s.core c).arrayQ.filter fun e => gs.contains e.gang).map fun e => (c, e)

/-- The command is due at the end of this period. [DESIGN CHOICE, log 113, unsafe] -/
def State.cmdDue (s : State) (l : Launch) (c : EngCmd) : Bool :=
  c.state != .issued && (s.waveBlocks c.req.wave || s.publishNames l c)

/-- An accepted array entry is due. [DESIGN CHOICE, log 113, unsafe] -/
def State.entryDue (s : State) (e : ArrayEntry) : Bool := e.snap.isSome && s.waveBlocks e.req.wave

/-- What comes due at step 3. -/
inductive DueOp where
  | cmd (core : Fin 256) (c : EngCmd)
  | entry (core : Fin 256) (e : ArrayEntry)

/-- Its place in the order of acceptance. -/
def DueOp.order : DueOp → Nat
  | .cmd _ c => c.order
  | .entry _ e => e.order

/-- The due operations of a launch in acceptance order. -/
def State.dueOps (s : State) (l : Launch) : List DueOp :=
  sortBy (fun a b => decide (a.order < b.order))
    (((s.detCmds l).filter fun x => s.cmdDue l x.2).map (fun x => DueOp.cmd x.1 x.2)
      ++ ((s.detEntries l).filter fun x => s.entryDue x.2).map fun x => DueOp.entry x.1 x.2)

/-- The remap entries of a gang's workgroups replaced. -/
def State.withRemaps (s : State) (gang : Nat) (rs : List (Vector Word 8)) : State :=
  s.modGang gang fun g => { g with wgs := g.wgs.mapIdx fun i (x : Workgroup) => { x with remap := rs[i]?.getD x.remap } }

/-- What an array operation of the gang reads, as it stands (R316). -/
def State.snapOf (s : State) (core : Fin 256) (gang : Nat) : ArraySnap :=
  let cs := ((s.gang? gang).map fun g => (g.wgs.map (·.core)).eraseDups).getD []
  { scratch := cs.map fun c => (c, (s.core c).scratch), remaps := s.remapsOf gang, stackMem := (s.core core).stackMem,
    codebook := (s.core core).codebook, rotation := (s.core core).rotation }

/-- The state with the sources of an array operation as it took them. -/
def State.onSnap (s : State) (core : Fin 256) (gang : Nat) (x : ArraySnap) : State :=
  let s := x.scratch.foldl (fun s (c, m) => s.modCore c fun k => { k with scratch := m }) (s.withRemaps gang x.remaps)
  s.modCore core fun k => { k with stackMem := x.stackMem, codebook := x.codebook, rotation := x.rotation }

/-- An array operation that has come due, on the sources that it took: its accumulators, counts, bytes and values become visible,
and its arrival is applied (R316). [DESIGN CHOICE, log 111, unsafe] -/
def State.applyEntry (s : State) (core : Fin 256) (e : ArrayEntry) (x : ArraySnap) : State :=
  match e.op with
  | .mma va blk _ _ cmd =>
    let (fail, t) := (s.onSnap core e.gang x).mmaWhole core e.gang blk
    let s := { s.modCore core fun k => { k with acc := (t.core core).acc } with regs := t.regs }
    s.endMma core e va (MmaBlock.ofBytes blk).done cmd fail
  | _ =>
    match (s.withRemaps e.gang x.remaps).executeAcc core e with
    | some t => t.withRemaps e.gang (s.remapsOf e.gang)
    | none => s

/-- One due operation applied (R316 step 3). -/
def State.applyDueOp (s : State) (d : DueOp) : State :=
  match d with
  | .cmd core c => s.applyDue core c
  | .entry core e =>
    match e.snap with
    | some x => s.applyEntry core e x
    | none => s

/-- The lines that the due commands write, with their cores: a core's dirty copies of them go first, and their homes must serve
them (R133, R141). -/
def State.dueLines (s : State) (l : Launch) : List (Fin 256 × List Nat) :=
  (s.dueOps l).filterMap fun d => match d with
    | .cmd core c => c.plan.map fun p => (core, p.lines c)
    | .entry .. => none

/-! ## Steps 1 to 3 -/

/-- A waiting queue that the producer slot pushes holds a record, or the slot has stopped (R317). -/
def State.producerQuiet (s : State) (w : Wave) : Bool :=
  w.paths.all fun p => match p.status with
    | .blocked (.queue q _) =>
      !((s.core w.core).queues[q].isEmpty) || !(s.waves.any fun x =>
        x.kind == .producer && x.core == w.core && (s.queueMask x).testBit q.val)
    | _ => true

/-- Step 1: every wave has ended its quantum, every accepted command has read its sources, every due one has landed. -/
def State.periodReady (s : State) (l : Launch) : Bool :=
  l.unplaced == 0 && !(s.launchGangs l).isEmpty
    && (s.launchWaves l).all (fun w => (w.det.map (·.ended)).getD true && s.producerQuiet w)
    && (s.detCmds l).all (fun x => x.2.state == .issued
        || (x.2.plan.isSome && (!s.cmdDue l x.2 || x.2.state == .done) && !s.engineFrozen x.1))

/-- The lines that a wave's buffered writes touch, the held ones or the others. -/
def Wave.bufferLines (w : Wave) (held : Bool) : List Nat :=
  ((globalSectors (((w.det.map (·.buffer)).getD []).filter fun b => b.held == held)).map (· / 4)).eraseDups

/-- The lines that the buffers write can be written now (R118, R133). -/
def State.buffersFree (s : State) (l : Launch) : Bool := (s.launchWaves l).all fun w => s.servesAll (w.bufferLines false)

/-- The writer is told of a lost line that its bytes do not cover (R112). -/
def State.lostWrite (s : State) (w : Wave) (pa n : Nat) : State :=
  (linesOf pa n).foldl (fun s l =>
    match s.l2Line? l, s.controllerLine l with
    | none, .error .lost => s.reportLost w.id
    | _, _ => s) s

/-- One buffered write becomes visible (R310), with its tag (R119, R311); a versioned wave's enters its version (R186). -/
def State.commitWrite (s : State) (w : Wave) (b : BufWrite) : State :=
  match b.scratch with
  | some c => (s.modCore c fun k => { k with scratch := k.scratch.writeN b.addr b.bytes }).heal c .scratch b.addr b.bytes.length
  | none =>
    match s.versionOf? w with
    | some v => s.modVersion v.part v.ver fun v => v.write b.tag b.addr b.bytes
    | none =>
      let s := (s.lostWrite w b.addr b.bytes.length).homeWriteMany w.asid w.master (b.bytes.length / 128 + 2) b.addr b.bytes
      match b.tag with
      | some t => ((List.range b.bytes.length).map fun i => (b.addr + i) / 32).eraseDups.foldl (fun s sec => s.tagSector sec t) s
      | none => s

/-- A wave's writes become visible in program order, the held ones or the others. -/
def State.commitWrites (s : State) (w : Wave) (held : Bool) : State :=
  let l := ((w.det.map (·.buffer)).getD []).filter fun b => b.held == held
  (l.foldl (fun s b => s.commitWrite w b) s).modWave w.id fun x => x.modDet fun d =>
    { d with buffer := d.buffer.filter fun b => b.held != held }

/-- Step 2 (R310). -/
def State.commitBuffers (s : State) (l : Launch) : State := (s.wavesById l).foldl (fun s w => s.commitWrites w false) s

/-- The wave will execute its COMB in this step: tried on a copy of the state, it retires or finds its requests missing, and
no report is delivered in its place (R329). -/
def State.combRuns (s : State) (w : Wave) (p : Path) (nw : Bool) (d a b : Operand) : Bool :=
  let t := (s.modPath w.id p.tag fun q => { q with status := .ready, stage := .none }).modWave w.id fun x =>
    x.modDet fun y => { y with atEnd := true }
  match execComb nw d a b { t with cur := some (w.id, p.tag) } with
  | .next u => ((u.wave? w.id).bind (·.path? p.tag)).any fun q => q.pc == p.pc && q.status == .blocked .period
  | _ => false

/-- The COMB requests of a pending wave taken up, before any operation of the step executes (R314). [DESIGN CHOICE, log 110, unsafe] -/
def State.prepareComb (s : State) (k : Fin 256) (id : Nat) : State :=
  match s.wave? id with
  | none => s
  | some w =>
    match s.pendingSync? w with
    | some (p, .comb nw d a b) =>
      if !s.combRuns w p nw d a b then s
      else
        match s.combLanes w p nw d a b with
        | .error _ => s
        | .ok [] => s
        | .ok l =>
          let (rs, f, o, s) := s.combRequests w p nw d a b l
          let s := (s.addCombOp id o).modPeriod k fun d => { d with combs := d.combs ++ rs }
          if nw then s else s.modWave id fun x => { x with inflight := x.inflight ++ [f] }
    | _ => s

/-- The waves whose operations step 4 executes, in the order of R312: pending synchronising operations, and TKPULLs that
wait (R315). -/
def State.syncOrder (s : State) (l : Launch) : List Nat :=
  (sortBy s.syncBefore ((s.launchWaves l).filter fun w => (s.pendingSync? w).isSome || w.pulling?.isSome)).map (·.id)

/-- Steps 2 and 3, and what step 4 will execute. [DESIGN CHOICE, log 110, unsafe] -/
def State.closePeriod (s : State) (l : Launch) : State :=
  let due := s.dueOps l
  let s := due.foldl State.applyDueOp (s.commitBuffers l)
  let ids := s.syncOrder l
  let s := s.modPeriod l.slot fun d => { d with closing := true, order := ids, combs := [] }
  ids.foldl (fun s id => s.prepareComb l.slot id) s

/-! ## Step 4 -/

/-- Something that an operation of the step has started is still to be done. -/
def State.stepBusy (s : State) (l : Launch) : Bool :=
  let ids := (s.launchWaves l).map (·.id)
  let mine := fun (w : Nat) => ids.contains w
  (s.launchWaves l).any (fun w => (w.det.map (·.atEnd)).getD false)
    || s.messages.any (fun m => mine m.req.wave) || s.releases.any (fun r => mine r.req.wave)
    || s.linkOps.any (fun o => (o.wave.map mine).getD false) || s.heldParks.any (fun h => mine h.wave)
    || s.fabric.ops.any (fun o => o.cmd.isNone && !o.ordered && !o.send && mine o.wave)
    || s.homes.toList.any (fun h => h.combQ.any (fun r => mine r.req.wave) ||
        (match h.batch with | some b => b.reqs.any (fun r => mine r.req.wave) | none => false))

/-- The next operation of step 4: a waiting TKPULL is attempted, or the pipe executes the wave's operation. [DESIGN CHOICE, log 110, unsafe] -/
def State.grantNext (s : State) (l : Launch) (id : Nat) (rest : List Nat) : State :=
  let s := s.modPeriod l.slot fun d => { d with order := rest }
  match s.wave? id with
  | none => s
  | some w =>
    match w.pulling? with
    | some (p, m, d) =>
      match s.pickTask? w.asid w.part m with
      | some t => s.handOut w p d t
      | none => s
    | none =>
      match s.pendingSync? w with
      | some (p, _) =>
        (s.modPath id p.tag fun q => { q with status := .ready, stage := .none }).modWave id fun x =>
          x.modDet fun d => { d with atEnd := true }
      | none => s

/-! ## Held barriers (R313) -/

/-- The barrier that a held arrival names. -/
def State.heldKey (s : State) (h : HeldBar) : Option (BarPlace × Fin 16) := do
  let w ← s.wave? h.wave
  let sc ← barScope? h.sel
  return (s.barPlace w sc, barId h.sel)

/-- The held arrivals of one barrier applied in ascending wave id, once every wave that they name is held or has ended. -/
def State.releaseHeld (s : State) (k : Fin 256) (key : BarPlace × Fin 16) : State :=
  match (s.launch? k).bind (·.det) with
  | none => s
  | some dt =>
    let hs := dt.heldBars.filter fun h => s.heldKey h == some key
    let held := hs.map (·.wave)
    if (hs.flatMap fun h => s.barNamed key.1 h.mask).all held.contains then
      let s := s.modPeriod k fun d => { d with heldBars := d.heldBars.filter fun h => !(hs.contains h) }
      let ws := sortBy (fun (a b : Wave × HeldBar) => decide (s.waveId a.1 < s.waveId b.1))
        (hs.filterMap fun h => (s.wave? h.wave).map fun w => (w, h))
      ws.foldl (fun s x => match s.wave? x.1.id with
        | some w => s.barArrive w x.2.mask x.2.sel
        | none => s) s
    else s

/-- Every barrier with held arrivals. -/
def State.releaseBars (s : State) (k : Fin 256) : State :=
  let keys := (((s.launch? k).bind (·.det)).map fun d => (d.heldBars.filterMap s.heldKey).eraseDups).getD []
  keys.foldl (fun s key => s.releaseHeld k key) s

/-! ## Step 5 (R316) -/

/-- What is accepted at step 5. -/
inductive IssuedOp where
  | cmd (core : Fin 256) (c : EngCmd)
  | entry (core : Fin 256) (e : ArrayEntry)

/-- Wave and name of an issued operation: names rise in program order. -/
def IssuedOp.key : IssuedOp → Nat × Nat
  | .cmd _ c => (c.req.wave, c.id)
  | .entry _ e => (e.req.wave, e.id)

/-- The operations that the period has issued, in ascending wave id and program order. -/
def State.issuedOps (s : State) (l : Launch) : List IssuedOp :=
  let wid := fun (w : Nat) => ((s.wave? w).map s.waveId).getD 0
  let all := ((s.detCmds l).filter fun x => x.2.state == .issued).map (fun x => IssuedOp.cmd x.1 x.2)
    ++ ((s.detEntries l).filter fun x => x.2.issued).map fun x => IssuedOp.entry x.1 x.2
  sortBy (fun a b =>
    let x := wid a.key.1
    let y := wid b.key.1
    decide (x < y) || (x == y && decide (a.key.2 < b.key.2))) all

/-- A command accepted, where the engine has room for it (R187): it reads a source on this device as it stands now, and its promise
is 0. [DESIGN CHOICE, log 111, unsafe] -/
def State.acceptDet (s : State) (core : Fin 256) (c : EngCmd) : State :=
  if 64 ≤ (s.core core).accepted.length then s
  else
  let (ord, s) := s.fresh
  let c := { c with state := .accepted, order := ord, promise := 0, remaps := s.remapsOf c.gang, release := none }
  let b := CopyBlock.ofBytes c.blk
  let far := c.kind != .quant2 && (b.sspace == 4 || b.sspace == 5)
  let out := c.kind != .quant2 && (b.dspace == 4 || b.dspace == 5)
  let c : EngCmd := if far then c
    else { c with plan := some (s.planOf core c []), state := if out then .accepted else .done }
  s.modCmd core c.id fun _ => c

/-- An array entry accepted, where the queue has room for it (R208): it takes its sources as they stand, and is executed when it
comes due (R316). [DESIGN CHOICE, log 111, unsafe] -/
def State.acceptEntry (s : State) (core : Fin 256) (e : ArrayEntry) : State :=
  if 16 ≤ ((s.core core).arrayQ.filter fun x => !x.issued).length then s
  else
    let (ord, s) := s.fresh
    let x := s.snapOf core e.gang
    s.modCore core fun k =>
      { k with arrayQ := k.arrayQ.map fun y => if y.id = e.id then { y with issued := false, order := ord, snap := some x } else y }

/-- Step 5; what finds no room waits for the next one (R187, R208). [DESIGN CHOICE, log 111, unsafe] -/
def State.acceptIssued (s : State) (l : Launch) : State :=
  (s.issuedOps l).foldl (fun s o => match o with
    | .cmd core c => s.acceptDet core c
    | .entry core e => s.acceptEntry core e) s

/-! ## Step 6 (R319) -/

/-- The other devices that a route reaches. [DESIGN CHOICE, log 107, unsafe] -/
def State.peers (s : State) : List Nat :=
  (List.range 1024).filter fun x => x != s.devId && s.regBit (Reg.klRoute x) 63

/-- The period's watermark advertised to every device that the domain may hear from: any of its routes may carry ordered packets
of the domain, now or later. [DESIGN CHOICE, log 107, unsafe] -/
def State.advertisePeriod (s : State) (l : Launch) (period : Nat) : State :=
  s.peers.foldl (fun s x => s.inject { Packet.request x l.part 0 .beacon with period := true, stamp := period }) s

/-- Steps 4 (its barriers), 5 and 6. [DESIGN CHOICE, log 110, unsafe] -/
def State.finishPeriod (s : State) (l : Launch) (period : Nat) : State :=
  let s := ((s.releaseBars l.slot).acceptIssued l).modPeriod l.slot fun d => { d with combs := [], ended := true }
  s.advertisePeriod l period

/-- A step of a period's end, in its domain (R303). [DESIGN CHOICE, log 130, unsafe] -/
def State.inPeriod (s : State) (l : Launch) (d : DetState) (n : Nat) (go : State → Result) : Result :=
  s.inDomain (l.record.key ++ [2, d.period, n]) go

/-- PERIOD_END (R307): steps 1 to 3 first, then one operation of step 4 at a time, and after the last of them the held
barriers and steps 5 and 6. -/
def execPeriodEnd (slot : Fin 256) (s : State) : Result :=
  match s.launch? slot with
  | none => notEnabled
  | some l =>
    match l.det with
    | none => notEnabled
    | some d =>
      if d.ended then notEnabled
      else if !d.closing then
        if !s.periodReady l || !s.buffersFree l then notEnabled
        else if (s.dueLines l).any fun x => x.2.any (s.core x.1).dirtyLine then
          .next ((s.dueLines l).foldl (fun s x => s.dropCopies x.1 x.2) s)
        else if (s.dueLines l).any fun x => x.2.any (s.lineComing x.1) || !s.servesAll x.2 then notEnabled
        else s.inPeriod l d 2 fun s => .next (s.closePeriod l)
      else if s.stepBusy l then notEnabled
      else
        match d.order with
        | id :: rest => s.inPeriod l d (3 + d.order.length) fun s => .next (s.grantNext l id rest)
        | [] => .next (s.finishPeriod l d.period)

/-! ## Step 7 (R317, R319) -/

/-- Every device that the domain may hear from has advertised the period. -/
def State.peersReached (s : State) (l : Launch) (period : Nat) : Bool :=
  s.peers.all fun x => decide (period + 1 ≤ SMap.get 0 s.fabric.periodWm (1024 * l.part.val + x))

/-- Order of delivery: stamp, source, sequence (R396). -/
def packetBefore (a b : Packet) : Bool :=
  decide (a.stamp < b.stamp) || (a.stamp == b.stamp && (decide (a.src < b.src) || (a.src == b.src && decide (a.seq < b.seq))))

/-- Packets for the domain's partition stamped with a period or an earlier one delivered in order; none while one of them cannot be. -/
def State.deliverPeriod (s : State) (part : Fin 32) (period : Nat) : Option State :=
  (sortBy packetBefore (s.fabric.periodQ.filter fun k => k.part == part && decide (k.stamp ≤ period))).foldl (fun (r : Option State) k =>
    r.bind fun s => (s.modFabric fun f => { f with periodQ := f.periodQ.erase k }).deliverOrdered 16 k) (some s)

/-- Results of step 4 that are still on their way to their registers (R312, R314). -/
def State.resultsOut (s : State) (l : Launch) : Bool :=
  (s.launchWaves l).any fun w => w.inflight.any fun x => !x.settled &&
    (match x.kind with | .comb | .atomic | .nget | .tkpull => true | _ => false)

/-- The commands that the wave has issued have all been applied (R317). -/
def State.allApplied (s : State) (w : Wave) : Bool :=
  !((s.core w.core).engine.any fun c => c.req.wave == w.id) && !((s.core w.core).arrayQ.any fun e => e.req.wave == w.id)

/-- NRECV executed for a wave that waits for a record (R319). [DESIGN CHOICE, log 112, unsafe] -/
def State.receiveNow (s : State) (w : Wave) (p : Path) : State :=
  match s.instrAt w p with
  | some (.nrecv d a) =>
    let t := (s.wakePath w p (.record 0)).modWave w.id fun x => x.modDet fun d => { d with atEnd := true }
    match execNrecv d a { t with cur := some (w.id, p.tag) } with
    | .next u => { u with cur := s.cur }
    | _ => s
  | _ => s

/-- A report waits for the wave (R329). -/
def State.reportWaits (s : State) (w : Wave) : Bool :=
  w.handler.isNone && (!w.reports.isEmpty || (s.cancelNow? w).isSome)

/-- The writes that waited for the commit, performed in program order (R327). -/
def State.heldWrites (s : State) (id : Nat) : State :=
  match s.wave? id with
  | some w => s.commitWrites w true
  | none => s

/-- A task of the domain that waits for irrevocability could be committed: its lines can be written. -/
def State.commitsFree (s : State) (l : Launch) : Bool :=
  (s.launchWaves l).all fun w => !w.awaitsIrrevocable || (s.servesAll (w.bufferLines true) &&
    (match s.versionOf? w with | some v => s.commitReady v | none => true))

/-- The wake condition of one path evaluated (R317). A wait whose report is delivered in its place starts afresh; a
cancelled task's wave goes on to its trap (R378). [DESIGN CHOICE, log 112, unsafe] -/
def State.wakeDet (s : State) (w : Wave) (p : Path) : State :=
  let ready := fun (s : State) => s.modPath w.id p.tag fun q => { q with status := .ready, stage := .none }
  let cancelled := (s.cancelNow? w).isSome
  match p.status with
  | .ready => s
  | .blocked c =>
    match c with
    | .period => ready s
    | .phase o _ | .engine o _ =>
      if cancelled || s.wakes w c || !(s.barWord? w o).isOk then s.wakePath w p c else s
    | .watch => if cancelled || s.wakes w c then s.wakePath w p c else s
    | .tick _ => if cancelled || s.allApplied w then s.wakePath w p c else s
    | .queue q d =>
      if cancelled then ready s
      else if !s.wakes w c then s
      else if s.reportWaits w then ready s
      else s.popFor w p q d
    | .record _ => if cancelled then ready s else if s.wakes w c then s.receiveNow w p else s
    | .irrevocable =>
      if cancelled then ready s
      else if s.canIrrevocable w then ((s.makeIrrevocable w).heldWrites w.id).wakeCommitted w.id
      else s
    | .task .. | .bar _ => if cancelled then ready s else s
    | .reply .. | .drain .. | .ending => s

/-- Every blocked wave, in ascending wave id. [DESIGN CHOICE, log 112, unsafe] -/
def State.wakeAll (s : State) (l : Launch) : State :=
  (s.wavesById l).foldl (fun s w0 =>
    w0.paths.foldl (fun s p0 =>
      match s.wave? w0.id with
      | some w => match w.path? p0.tag with
        | some p => s.wakeDet w p
        | none => s
      | none => s) s) s

/-- A COMB_FAULT is taken at the wave's first instruction of the period (R314). -/
def Wave.combFirst (w : Wave) : Wave :=
  if w.handler.isNone && w.reports.any (·.code == .combFault) then
    { w with paths := w.paths.map fun (q : Path) => { q with swNext := true } }
  else w

/-- A wave at the start of a period; all stop where one of them is asked to (R308). -/
def Wave.nextPeriod (stop : Bool) (w : Wave) : Wave :=
  { w.combFirst.modDet (fun d => { d with retired := 0, ended := false, atEnd := false }) with stopped := w.stopped || stop }

/-- The period number rises, and every wave starts its next quantum. -/
def State.startPeriod (s : State) (l : Launch) : State :=
  let ws := s.launchWaves l
  let stop := ws.any (·.stopReq)
  let s := ws.foldl (fun s w => s.modWave w.id (Wave.nextPeriod stop)) s
  s.modPeriod l.slot fun d => { d with period := d.period + 1, closing := false, ended := false, order := [] }

/-- PERIOD_ADVANCE (R307 steps 6 and 7). -/
def execPeriodAdvance (slot : Fin 256) (s : State) : Result :=
  match s.launch? slot with
  | none => notEnabled
  | some l =>
    match l.det with
    | none => notEnabled
    | some d =>
      if !d.ended || !s.peersReached l d.period || s.resultsOut l || !s.commitsFree l then notEnabled
      else
        match s.deliverPeriod l.part d.period with
        | some s => s.inPeriod l d 0 fun s => .next ((s.wakeAll l).startPeriod l)
        | none => notEnabled

end Sys2Proof.Machine
end

