-- ==== Sys2Proof/Machine/TlbSteps.lean ====
section
/-! DEFINITION. Page walks and invalidations (R148 to R150). -/

namespace Sys2Proof.Machine

/-- An invalidation covers a translation (R150): of its page, every 64 KiB where the page is one of 512 MiB (R146). -/
def TlbInv.covers (i : TlbInv) (e : TlbEntry) : Bool :=
  match i.kind with
  | 0 => true
  | 1 => e.asid == i.asid
  | 2 => e.asid == i.asid && (e.page == i.page || (e.large && e.page / 8192 == i.page / 8192))

/-- The set of a page in a cluster TLB: 256 sets (R149). [DESIGN CHOICE, log 31, safe] -/
def tlbSet (page : Nat) : Nat := page % 256

/-- A translation placed before the others of its page; the oldest of a full core TLB, or of a full set of a cluster TLB,
goes. [DESIGN CHOICE, log 31, safe] -/
def insertTlb (e : TlbEntry) (ways : Nat) (same : TlbEntry → Bool) (l : List TlbEntry) : List TlbEntry :=
  let rest := l.filter fun x => !(x.asid == e.asid && x.page == e.page)
  let peers := (rest.filter same).take (ways - 1)
  e :: (peers ++ rest.filter fun x => !same x)

/-- A translation entered in the core's and in the cluster's TLB (R149). -/
def State.fillTlb (s : State) (c : Fin 256) (e : TlbEntry) : State :=
  let g := clusterOf c
  let s := s.modCore c fun k => { k with tlb := insertTlb e 64 (fun _ => true) k.tlb }
  { s with clusterTlbs := SMap.set [] s.clusterTlbs g (insertTlb e 16 (fun x => tlbSet x.page == tlbSet e.page) (s.clusterTlb g)) }

/-- A page's translation dropped from the core's and the cluster's TLB. -/
def State.unfillTlb (s : State) (c : Fin 256) (asid : BitVec 8) (page : Nat) : State :=
  let keep := fun (e : TlbEntry) => !(e.asid == asid && e.page == page)
  let g := clusterOf c
  let s := s.modCore c fun k => { k with tlb := k.tlb.filter keep }
  { s with clusterTlbs := SMap.set [] s.clusterTlbs g ((s.clusterTlb g).filter keep) }

/-- PAGE_WALK (R148, R149): the walk of a missing page, or of one that an invalidation in progress covers, for which
either the old or the new entry may be used. The core's copies of the tables' lines go home first (R141). A failed walk fills
nothing, nor does a bmi leaf that names no entry (R197). [DESIGN CHOICE, log 30, unsafe] -/
def execPageWalk (core : Fin 256) (asid : BitVec 8) (va : Nat) (s : State) : Result :=
  let page := va / 65536
  let stale := match s.tlb? core asid page with
    | some e => s.tlbInvs.any (·.covers e)
    | none => true
  if 2 ^ 55 ≤ va ∨ !stale then notEnabled
  else
    s.atHomes core (s.walkLines (s.coreBytes core) asid (page * 65536)) asid fun s =>
      let s := s.count (.core core) 0x15 1
      match s.coreWalk core asid (page * 65536) with
      | .ok l =>
        let e := l.entry asid page
        .next (if e.bmi && !e.names then s.unfillTlb core asid page else s.fillTlb core e)
      | .error _ => .next (s.unfillTlb core asid page)

/-- Commands that every engine has accepted (R189). -/
def State.acceptedCmds (s : State) : List (Fin 256 × Nat) :=
  (List.finRange 256).flatMap fun c => (s.core c).accepted.map fun x => (c, x.id)

/-- A write of TLBINV (R150): the entries stay usable until it completes. -/
def State.invalidateTlb (s : State) (kind : Fin 3) (asid : BitVec 8) (page : Nat) : State :=
  { s.setReg Reg.tlbInvStat 0 with
    tlbInvs := s.tlbInvs ++ [{ kind := kind, asid := asid, page := page, commands := s.acceptedCmds }] }

/-- TLBINV_ALL. -/
def execTlbinvAll (s : State) : Result := .next (s.invalidateTlb 0 0 0)
/-- TLBINV_ASID. -/
def execTlbinvAsid (asid : BitVec 8) (s : State) : Result := .next (s.invalidateTlb 1 asid 0)
/-- TLBINV_PAGE. -/
def execTlbinvPage (asid : BitVec 8) (page : BitVec 39) (s : State) : Result := .next (s.invalidateTlb 2 asid page.toNat)

/-- The command has neither landed nor failed: it is in its engine, or was cancelled and is to be replayed (R189, R334). -/
def State.hasCmd (s : State) (x : Fin 256 × Nat) : Bool :=
  ((s.core x.1).engine.any fun c => c.id == x.2) || s.gangs.any fun g => g.savedCmds.any fun c => c.id == x.2

/-- TLBINV_COMPLETE (R150, R189): the oldest invalidation, once the commands accepted before it are done; its
translations go, and with the last of them TLBINVSTAT reads 1. [DESIGN CHOICE, log 30, unsafe] -/
def execTlbinvComplete (s : State) : Result :=
  match s.tlbInvs with
  | [] => notEnabled
  | i :: rest =>
    if i.commands.any s.hasCmd then notEnabled
    else
      let s := { s.dropTlb i.covers with tlbInvs := rest }
      .next (if rest.isEmpty then s.setReg Reg.tlbInvStat 1 else s)

end Sys2Proof.Machine
end

