-- ==== Sys2Proof/Machine/Dispatch.lean ====
section
/-! DEFINITION. What each instruction and each unit step does: one arm for every constructor, each a direct call of
its meaning. -/

namespace Sys2Proof.Machine

/-- The meaning of a step, in a state that names the executing path where the step is a wave instruction. -/
def exec (i : Instr) (s : State) : Host.Outcome State Fault Refusal :=
  match i with
  | .illegal word => Sys2Proof.Machine.execIllegal word s
  | .nop => Sys2Proof.Machine.execNop s
  | .mode imm => Sys2Proof.Machine.execMode imm s
  | .li nw d imm => Sys2Proof.Machine.execLi nw d imm s
  | .lih nw d imm => Sys2Proof.Machine.execLih nw d imm s
  | .addi nw d imm => Sys2Proof.Machine.execAddi nw d imm s
  | .br off => Sys2Proof.Machine.execBr off s
  | .jmp off => Sys2Proof.Machine.execJmp off s
  | .call off => Sys2Proof.Machine.execCall off s
  | .jpt off => Sys2Proof.Machine.execJpt off s
  | .ret a => Sys2Proof.Machine.execRet a s
  | .jtab a b => Sys2Proof.Machine.execJtab a b s
  | .exit => Sys2Proof.Machine.execExit s
  | .yield => Sys2Proof.Machine.execYield s
  | .trap imm => Sys2Proof.Machine.execTrap imm s
  | .sysc d a b => Sys2Proof.Machine.execSysc d a b s
  | .add nw d a b => Sys2Proof.Machine.execAdd nw d a b s
  | .sub nw d a b => Sys2Proof.Machine.execSub nw d a b s
  | .mul nw d a b => Sys2Proof.Machine.execMul nw d a b s
  | .mulh nw d a b => Sys2Proof.Machine.execMulh nw d a b s
  | .mad nw d a b => Sys2Proof.Machine.execMad nw d a b s
  | .min nw d a b => Sys2Proof.Machine.execMin nw d a b s
  | .max nw d a b => Sys2Proof.Machine.execMax nw d a b s
  | .addmin nw d a b => Sys2Proof.Machine.execAddmin nw d a b s
  | .addmax nw d a b => Sys2Proof.Machine.execAddmax nw d a b s
  | .and nw d a b => Sys2Proof.Machine.execAnd nw d a b s
  | .or nw d a b => Sys2Proof.Machine.execOr nw d a b s
  | .xor nw d a b => Sys2Proof.Machine.execXor nw d a b s
  | .shl nw d a b => Sys2Proof.Machine.execShl nw d a b s
  | .shr nw d a b => Sys2Proof.Machine.execShr nw d a b s
  | .sha nw d a b => Sys2Proof.Machine.execSha nw d a b s
  | .fshl nw d a b => Sys2Proof.Machine.execFshl nw d a b s
  | .fshr nw d a b => Sys2Proof.Machine.execFshr nw d a b s
  | .rol nw d a b => Sys2Proof.Machine.execRol nw d a b s
  | .sel nw d a b => Sys2Proof.Machine.execSel nw d a b s
  | .bfx nw d a b => Sys2Proof.Machine.execBfx nw d a b s
  | .bfi nw d a b => Sys2Proof.Machine.execBfi nw d a b s
  | .cmp nw k c a b => Sys2Proof.Machine.execCmp nw k c a b s
  | .div nw d a b => Sys2Proof.Machine.execDiv nw d a b s
  | .rem nw d a b => Sys2Proof.Machine.execRem nw d a b s
  | .twosum nw d a b => Sys2Proof.Machine.execTwosum nw d a b s
  | .fasttwosum nw d a b => Sys2Proof.Machine.execFasttwosum nw d a b s
  | .twoprod nw d a b => Sys2Proof.Machine.execTwoprod nw d a b s
  | .not nw d a => Sys2Proof.Machine.execNot nw d a s
  | .neg nw d a => Sys2Proof.Machine.execNeg nw d a s
  | .abs nw d a => Sys2Proof.Machine.execAbs nw d a s
  | .popc nw d a => Sys2Proof.Machine.execPopc nw d a s
  | .clz nw d a => Sys2Proof.Machine.execClz nw d a s
  | .ctz nw d a => Sys2Proof.Machine.execCtz nw d a s
  | .brev nw d a => Sys2Proof.Machine.execBrev nw d a s
  | .rcp nw d a => Sys2Proof.Machine.execRcp nw d a s
  | .rsq nw d a => Sys2Proof.Machine.execRsq nw d a s
  | .sqrt nw d a => Sys2Proof.Machine.execSqrt nw d a s
  | .exp2 nw d a => Sys2Proof.Machine.execExp2 nw d a s
  | .log2 nw d a => Sys2Proof.Machine.execLog2 nw d a s
  | .sin2pi nw d a => Sys2Proof.Machine.execSin2pi nw d a s
  | .cos2pi nw d a => Sys2Proof.Machine.execCos2pi nw d a s
  | .floor nw d a => Sys2Proof.Machine.execFloor nw d a s
  | .ceil nw d a => Sys2Proof.Machine.execCeil nw d a s
  | .trunc nw d a => Sys2Proof.Machine.execTrunc nw d a s
  | .rint nw d a => Sys2Proof.Machine.execRint nw d a s
  | .frac nw d a => Sys2Proof.Machine.execFrac nw d a s
  | .class nw d a => Sys2Proof.Machine.execClass nw d a s
  | .cvt nw src d a => Sys2Proof.Machine.execCvt nw src d a s
  | .packXn nw k d a => Sys2Proof.Machine.execPackXn nw k d a s
  | .packXb nw k d a => Sys2Proof.Machine.execPackXb nw k d a s
  | .packXh nw k d a => Sys2Proof.Machine.execPackXh nw k d a s
  | .packIn nw k d a => Sys2Proof.Machine.execPackIn nw k d a s
  | .packIb nw k d a => Sys2Proof.Machine.execPackIb nw k d a s
  | .packIh nw k d a => Sys2Proof.Machine.execPackIh nw k d a s
  | .shfl nw d a b => Sys2Proof.Machine.execShfl nw d a b s
  | .shflup nw d a b => Sys2Proof.Machine.execShflup nw d a b s
  | .shfldn nw d a b => Sys2Proof.Machine.execShfldn nw d a b s
  | .shflx nw d a b => Sys2Proof.Machine.execShflx nw d a b s
  | .ballot nw d a => Sys2Proof.Machine.execBallot nw d a s
  | .voteAny nw d a => Sys2Proof.Machine.execVoteAny nw d a s
  | .voteAll nw d a => Sys2Proof.Machine.execVoteAll nw d a s
  | .voteUni nw d a => Sys2Proof.Machine.execVoteUni nw d a s
  | .match_ nw d a => Sys2Proof.Machine.execMatch nw d a s
  | .reduceAdd nw d a => Sys2Proof.Machine.execReduceAdd nw d a s
  | .reduceMin nw d a => Sys2Proof.Machine.execReduceMin nw d a s
  | .reduceMax nw d a => Sys2Proof.Machine.execReduceMax nw d a s
  | .reduceAnd nw d a => Sys2Proof.Machine.execReduceAnd nw d a s
  | .reduceOr nw d a => Sys2Proof.Machine.execReduceOr nw d a s
  | .reduceXor nw d a => Sys2Proof.Machine.execReduceXor nw d a s
  | .scanAdd nw excl d a => Sys2Proof.Machine.execScanAdd nw excl d a s
  | .scanMin nw excl d a => Sys2Proof.Machine.execScanMin nw excl d a s
  | .scanMax nw excl d a => Sys2Proof.Machine.execScanMax nw excl d a s
  | .scanAnd nw excl d a => Sys2Proof.Machine.execScanAnd nw excl d a s
  | .scanOr nw excl d a => Sys2Proof.Machine.execScanOr nw excl d a s
  | .scanXor nw excl d a => Sys2Proof.Machine.execScanXor nw excl d a s
  | .bcast nw d a b => Sys2Proof.Machine.execBcast nw d a b s
  | .ld d a b => Sys2Proof.Machine.execLd d a b s
  | .st d a b => Sys2Proof.Machine.execSt d a b s
  | .lds d a b => Sys2Proof.Machine.execLds d a b s
  | .sts d a b => Sys2Proof.Machine.execSts d a b s
  | .stm d a b => Sys2Proof.Machine.execStm d a b s
  | .ldacq d a b => Sys2Proof.Machine.execLdacq d a b s
  | .strel d a b => Sys2Proof.Machine.execStrel d a b s
  | .fence paths scope => Sys2Proof.Machine.execFence paths scope s
  | .pref a => Sys2Proof.Machine.execPref a s
  | .clean a => Sys2Proof.Machine.execClean a s
  | .inval a => Sys2Proof.Machine.execInval a s
  | .monitor a => Sys2Proof.Machine.execMonitor a s
  | .mwait => Sys2Proof.Machine.execMwait s
  | .atadd nw d a b => Sys2Proof.Machine.execAtadd nw d a b s
  | .atmin nw d a b => Sys2Proof.Machine.execAtmin nw d a b s
  | .atmax nw d a b => Sys2Proof.Machine.execAtmax nw d a b s
  | .atand nw d a b => Sys2Proof.Machine.execAtand nw d a b s
  | .ator nw d a b => Sys2Proof.Machine.execAtor nw d a b s
  | .atxor nw d a b => Sys2Proof.Machine.execAtxor nw d a b s
  | .atxchg nw d a b => Sys2Proof.Machine.execAtxchg nw d a b s
  | .atcas nw d a => Sys2Proof.Machine.execAtcas nw d a s
  | .comb nw d a b => Sys2Proof.Machine.execComb nw d a b s
  | .cmbarg d => Sys2Proof.Machine.execCmbarg d s
  | .cmbreply a => Sys2Proof.Machine.execCmbreply a s
  | .cmbend => Sys2Proof.Machine.execCmbend s
  | .arrive nw d a b => Sys2Proof.Machine.execArrive nw d a b s
  | .waitb a b => Sys2Proof.Machine.execWaitb a b s
  | .bar a b => Sys2Proof.Machine.execBar a b s
  | .qpush nw d a q => Sys2Proof.Machine.execQpush nw d a q s
  | .qpop d q => Sys2Proof.Machine.execQpop d q s
  | .qstat nw d q => Sys2Proof.Machine.execQstat nw d q s
  | .copy nw d a b => Sys2Proof.Machine.execCopy nw d a b s
  | .copym nw d a b => Sys2Proof.Machine.execCopym nw d a b s
  | .engwait a b => Sys2Proof.Machine.execEngwait a b s
  | .sleepuntil a => Sys2Proof.Machine.execSleepuntil a s
  | .publish a => Sys2Proof.Machine.execPublish a s
  | .quant2 nw d a b => Sys2Proof.Machine.execQuant2 nw d a b s
  | .mma a b => Sys2Proof.Machine.execMma a b s
  | .accz a => Sys2Proof.Machine.execAccz a s
  | .accrd d a => Sys2Proof.Machine.execAccrd d a s
  | .accwr d a => Sys2Proof.Machine.execAccwr d a s
  | .acccvt d a => Sys2Proof.Machine.execAcccvt d a s
  | .cbld a => Sys2Proof.Machine.execCbld a s
  | .rotld a => Sys2Proof.Machine.execRotld a s
  | .rot d a => Sys2Proof.Machine.execRot d a s
  | .clockTick nw d => Sys2Proof.Machine.execClockTick nw d s
  | .clockLogical nw d => Sys2Proof.Machine.execClockLogical nw d s
  | .clockPeriod nw d => Sys2Proof.Machine.execClockPeriod nw d s
  | .clockPod nw d => Sys2Proof.Machine.execClockPod nw d s
  | .segopen nw d a => Sys2Proof.Machine.execSegopen nw d a s
  | .segseal a => Sys2Proof.Machine.execSegseal a s
  | .segref nw d a => Sys2Proof.Machine.execSegref nw d a s
  | .segdrop a => Sys2Proof.Machine.execSegdrop a s
  | .link nw d a b => Sys2Proof.Machine.execLink nw d a b s
  | .unlink nw d a b => Sys2Proof.Machine.execUnlink nw d a b s
  | .ctxpin nw d a => Sys2Proof.Machine.execCtxpin nw d a s
  | .ctxunpin => Sys2Proof.Machine.execCtxunpin s
  | .tkpost nw d a => Sys2Proof.Machine.execTkpost nw d a s
  | .tkdone => Sys2Proof.Machine.execTkdone s
  | .tkpull d a => Sys2Proof.Machine.execTkpull d a s
  | .tkcancel nw d a => Sys2Proof.Machine.execTkcancel nw d a s
  | .tkpark nw d a => Sys2Proof.Machine.execTkpark nw d a s
  | .tkresume nw d a => Sys2Proof.Machine.execTkresume nw d a s
  | .nput d a => Sys2Proof.Machine.execNput d a s
  | .nputOrd d a => Sys2Proof.Machine.execNputOrd d a s
  | .nget d a => Sys2Proof.Machine.execNget d a s
  | .nsend d a => Sys2Proof.Machine.execNsend d a s
  | .nsendOrd d a => Sys2Proof.Machine.execNsendOrd d a s
  | .nrecv d a => Sys2Proof.Machine.execNrecv d a s
  | .nfence => Sys2Proof.Machine.execNfence s
  | .launch nw d a b => Sys2Proof.Machine.execLaunch nw d a b s
  | .csrr nw d csr => Sys2Proof.Machine.execCsrr nw d csr s
  | .csrw d csr => Sys2Proof.Machine.execCsrw d csr s
  | .trapretResume => Sys2Proof.Machine.execTrapretResume s
  | .trapretSkip => Sys2Proof.Machine.execTrapretSkip s
  | .trapretExit => Sys2Proof.Machine.execTrapretExit s
  | .cdmLaunch rs2 rs1 rd => Sys2Proof.Machine.execCdmLaunch rs2 rs1 rd s
  | .cdmLstat rs2 rs1 rd => Sys2Proof.Machine.execCdmLstat rs2 rs1 rd s
  | .waveWake w tag => Sys2Proof.Machine.execWaveWake w tag s
  | .waveEnd w => Sys2Proof.Machine.execWaveEnd w s
  | .loadReply w d => Sys2Proof.Machine.execLoadReply w d s
  | .atomicRequest m => Sys2Proof.Machine.execAtomicRequest m s
  | .atomicReply w d => Sys2Proof.Machine.execAtomicReply w d s
  | .homeRead m => Sys2Proof.Machine.execHomeRead m s
  | .homeWrite m => Sys2Proof.Machine.execHomeWrite m s
  | .sectorWriteback m => Sys2Proof.Machine.execSectorWriteback m s
  | .l2Fill line asid => Sys2Proof.Machine.execL2Fill line asid s
  | .expandedRead line asid => Sys2Proof.Machine.execExpandedRead line asid s
  | .combRequest m => Sys2Proof.Machine.execCombRequest m s
  | .combinerBatch h => Sys2Proof.Machine.execCombinerBatch h s
  | .methodInstructionLimit h => Sys2Proof.Machine.execMethodInstructionLimit h s
  | .combReply w d => Sys2Proof.Machine.execCombReply w d s
  | .linkMethod k => Sys2Proof.Machine.execLinkMethod k s
  | .editionCommit k => Sys2Proof.Machine.execEditionCommit k s
  | .releaseRecordAppend p => Sys2Proof.Machine.execReleaseRecordAppend p s
  | .releaseComplete r => Sys2Proof.Machine.execReleaseComplete r s
  | .barrierArrival k => Sys2Proof.Machine.execBarrierArrival k s
  | .pageWalk core asid va => Sys2Proof.Machine.execPageWalk core asid va s
  | .tlbinvAll => Sys2Proof.Machine.execTlbinvAll s
  | .tlbinvAsid asid => Sys2Proof.Machine.execTlbinvAsid asid s
  | .tlbinvPage asid page => Sys2Proof.Machine.execTlbinvPage asid page s
  | .tlbinvComplete => Sys2Proof.Machine.execTlbinvComplete s
  | .writeback line candidate chunk shared => Sys2Proof.Machine.execWriteback line candidate chunk shared s
  | .overflowRetry mc candidate chunk shared => Sys2Proof.Machine.execOverflowRetry mc candidate chunk shared s
  | .lineRead line error => Sys2Proof.Machine.execLineRead line error s
  | .mcpgcmdPacked mc page part => Sys2Proof.Machine.execMcpgcmdPacked mc page part s
  | .mcpgcmdFixed mc page part chunks => Sys2Proof.Machine.execMcpgcmdFixed mc page part chunks s
  | .mcpgcmdUnbacked mc page part => Sys2Proof.Machine.execMcpgcmdUnbacked mc page part s
  | .mcpgcmdReserved mc page part => Sys2Proof.Machine.execMcpgcmdReserved mc page part s
  | .mccrd mc index => Sys2Proof.Machine.execMccrd mc index s
  | .mcerrlogPop mc => Sys2Proof.Machine.execMcerrlogPop mc s
  | .mcresvWrite mc p value => Sys2Proof.Machine.execMcresvWrite mc p value s
  | .fwRegisterWrite window reg value => Sys2Proof.Machine.execFwRegisterWrite window reg value s
  | .nvmeCompletion core cmd status data => Sys2Proof.Machine.execNvmeCompletion core cmd status data s
  | .commandAccept core cmd => Sys2Proof.Machine.execCommandAccept core cmd s
  | .commandLanded core what => Sys2Proof.Machine.execCommandLanded core what s
  | .commandFailed core cmd cause status => Sys2Proof.Machine.execCommandFailed core cmd cause status s
  | .publishInstant k => Sys2Proof.Machine.execPublishInstant k s
  | .mmaStep core mismatch => Sys2Proof.Machine.execMmaStep core mismatch s
  | .arrayEntryExecute core => Sys2Proof.Machine.execArrayEntryExecute core s
  | .accownWrite core g value => Sys2Proof.Machine.execAccownWrite core g value s
  | .mgstrWrite core value => Sys2Proof.Machine.execMgstrWrite core value s
  | .psctlRun core => Sys2Proof.Machine.execPsctlRun core s
  | .psctlStop core => Sys2Proof.Machine.execPsctlStop core s
  | .producerLoadWrite core offset value => Sys2Proof.Machine.execProducerLoadWrite core offset value s
  | .cmbctlStop => Sys2Proof.Machine.execCmbctlStop s
  | .cmbctlResume => Sys2Proof.Machine.execCmbctlResume s
  | .cmbMethodWrite offset value => Sys2Proof.Machine.execCmbMethodWrite offset value s
  | .dlConfigWrite size asid value => Sys2Proof.Machine.execDlConfigWrite size asid value s
  | .dldropRead asid => Sys2Proof.Machine.execDldropRead asid s
  | .launchReady slot => Sys2Proof.Machine.execLaunchReady slot s
  | .starvationBound part => Sys2Proof.Machine.execStarvationBound part s
  | .schctxRun asid => Sys2Proof.Machine.execSchctxRun asid s
  | .schctxStop asid => Sys2Proof.Machine.execSchctxStop asid s
  | .schboundWrite value => Sys2Proof.Machine.execSchboundWrite value s
  | .gangSave g => Sys2Proof.Machine.execGangSave g s
  | .gangResume g => Sys2Proof.Machine.execGangResume g s
  | .quantumEnd w => Sys2Proof.Machine.execQuantumEnd w s
  | .periodEnd slot => Sys2Proof.Machine.execPeriodEnd slot s
  | .periodAdvance slot => Sys2Proof.Machine.execPeriodAdvance slot s
  | .syscPost w d => Sys2Proof.Machine.execSyscPost w d s
  | .syscReply w d status replies => Sys2Proof.Machine.execSyscReply w d status replies s
  | .freezeRecordAppend => Sys2Proof.Machine.execFreezeRecordAppend s
  | .frzcmdThaw master => Sys2Proof.Machine.execFrzcmdThaw master s
  | .frzcmdKill master => Sys2Proof.Machine.execFrzcmdKill master s
  | .frzcmdHalt master => Sys2Proof.Machine.execFrzcmdHalt master s
  | .taskHandout w => Sys2Proof.Machine.execTaskHandout w s
  | .taskIrrevocable w => Sys2Proof.Machine.execTaskIrrevocable w s
  | .resumeRecordAppend p => Sys2Proof.Machine.execResumeRecordAppend p s
  | .catctlStop => Sys2Proof.Machine.execCatctlStop s
  | .catctlResume => Sys2Proof.Machine.execCatctlResume s
  | .packetArrival port pkt crcOk => Sys2Proof.Machine.execPacketArrival port pkt crcOk s
  | .packetForward output => Sys2Proof.Machine.execPacketForward output s
  | .orderedDelivery => Sys2Proof.Machine.execOrderedDelivery s
  | .remoteAccess k => Sys2Proof.Machine.execRemoteAccess k s
  | .netReply op => Sys2Proof.Machine.execNetReply op s
  | .heldPush k => Sys2Proof.Machine.execHeldPush k s
  | .beacon port => Sys2Proof.Machine.execBeacon port s
  | .watermarkStall input => Sys2Proof.Machine.execWatermarkStall input s
  | .klresume cut => Sys2Proof.Machine.execKlresume cut s
  | .klportEnable n value => Sys2Proof.Machine.execKlportEnable n value s
  | .podset value => Sys2Proof.Machine.execPodset value s
  | .ptpEventMessage port correction => Sys2Proof.Machine.execPtpEventMessage port correction s
  | .ethernetFrame port way bytes => Sys2Proof.Machine.execEthernetFrame port way bytes s
  | .powerOnReset derived readable trained => Sys2Proof.Machine.execPowerOnReset derived readable trained s
  | .bootWatchdog => Sys2Proof.Machine.execBootWatchdog s
  | .bootstatWrite value => Sys2Proof.Machine.execBootstatWrite value s
  | .partclWrite p value => Sys2Proof.Machine.execPartclWrite p value s
  | .pwrlimWrite value => Sys2Proof.Machine.execPwrlimWrite value s
  | .thermalTrip reading => Sys2Proof.Machine.execThermalTrip reading s
  | .marginReplan drift => Sys2Proof.Machine.execMarginReplan drift s
  | .vddarrWrite die value => Sys2Proof.Machine.execVddarrWrite die value s
  | .counterSelectWrite unit k value => Sys2Proof.Machine.execCounterSelectWrite unit k value s
  | .registerWrite place value => Sys2Proof.Machine.execRegisterWrite place value s
  | .hostBarAccess access => Sys2Proof.Machine.execHostBarAccess access s
  | .powerThermalThrottle average hottest => Sys2Proof.Machine.execPowerThermalThrottle average hottest s

end Sys2Proof.Machine
end

