-- ==== Sys2Proof/Machine/Step.lean ====
section
/-! DEFINITION. One step of the machine, and the state in which a given instruction is the next one fetched. -/

namespace Sys2Proof.Machine

/-- One step: the next turn, or the pipe in focus. -/
def step (s : State) : Host.Outcome State Fault Refusal := stepWith exec s

/-- The state with an instruction of the opcode table where `step` fetches its next one. [DESIGN CHOICE, log 4, safe] -/
def State.withFetchWord (s : State) (nbits w : Nat) : State :=
  let x := wordOfBytes (leBytes 4 (w % 2 ^ nbits))
  match decodeCdm x with
  | some _ => s.placeControl x
  | none => s.placeWord x

end Sys2Proof.Machine
end

