-- ==== Sys2Proof/Laws/Codes.lean ====
section
/-! SUPPORT. The codes of the fields and their inverses: what the decoder reads back of what the encoder wrote. -/

namespace Sys2Proof

theorem Operand.ofCode_code (o : Operand) : Operand.ofCode o.code = o := by
  have key : ∀ (n : Nat) (h : n < 256), (BitVec.ofNat 8 n).toNat = n := fun n h => by
    rw [BitVec.toNat_ofNat]; omega
  cases o with
  | v r =>
    have := r.isLt
    simp only [Operand.code, Operand.ofCode, key r.val (by omega)]
    rw [dif_pos (by omega)]
  | s r =>
    have := r.isLt
    simp only [Operand.code, Operand.ofCode, key (0x80 + r.val) (by omega)]
    rw [dif_neg (by omega), dif_pos (by omega)]
    exact congrArg Operand.s (Fin.ext (by show 0x80 + r.val - 0x80 = r.val; omega))
  | l r => revert r; decide
  | p r => revert r; decide
  | special x =>
    have h : x.index < 16 := by cases x <;> decide
    have hi : Special.ofIndex x.index = x := by cases x <;> rfl
    simp only [Operand.code, Operand.ofCode, key (0xD0 + x.index) (by omega)]
    iterate 3 rw [dif_neg (by omega)]
    iterate 4 rw [if_neg (by omega)]
    rw [dif_neg (by omega), if_pos (by omega), Nat.add_sub_cancel_left, hi]
  | reserved r =>
    have := r.isLt
    simp only [Operand.code, Operand.ofCode, key (0xE0 + r.val) (by omega)]
    iterate 3 rw [dif_neg (by omega)]
    iterate 4 rw [if_neg (by omega)]
    rw [dif_neg (by omega), if_neg (by omega)]
    exact congrArg Operand.reserved (Fin.ext (by show (0xE0 + r.val - 0xE0) % 32 = r.val; omega))
  | _ => rfl

theorem Special.index_ofIndex (n : Nat) (h : n < 16) : (Special.ofIndex n).index = n := by
  revert n; decide

theorem Operand.code_ofCode (c : BitVec 8) : (Operand.ofCode c).code = c := by
  have hc := c.isLt
  apply BitVec.eq_of_toNat_eq
  simp only [Operand.ofCode]
  have key : ∀ (n : Nat) (h : n < 256), (BitVec.ofNat 8 n).toNat = n := fun n h => by
    rw [BitVec.toNat_ofNat]; omega
  split
  · simp only [Operand.code]; rw [key _ (by omega)]
  split
  · simp only [Operand.code]; rw [key _ (by omega)]; omega
  split
  · simp only [Operand.code]; rw [key _ (by omega)]; omega
  split
  · rename_i h; rw [h]; rfl
  split
  · rename_i h; rw [h]; rfl
  split
  · rename_i h; rw [h]; rfl
  split
  · rename_i h; rw [h]; rfl
  split
  · simp only [Operand.code]; rw [key _ (by omega)]; omega
  split
  · simp only [Operand.code]; rw [Special.index_ofIndex _ (by omega), key _ (by omega)]; omega
  · simp only [Operand.code]; rw [key _ (by omega)]; omega

theorem ElemType.ofCode_code (t : ElemType) : ElemType.ofCode t.code = some t := by cases t <;> rfl

theorem Cond.ofCode_code (c : Cond) : Cond.ofCode c.code = some c := by cases c <;> rfl

theorem Scope.ofCode_code (s : Scope) : Scope.ofCode s.code = s := by cases s <;> rfl

theorem FencePaths.ofCode_code (p : FencePaths) : FencePaths.ofCode p.code = p := by
  obtain ⟨a, b, c, d, e⟩ := p
  cases a <;> cases b <;> cases c <;> cases d <;> cases e <;> rfl

/-- A word's fields are the word. -/
theorem word_fieldsOf (w : Word) : (fieldsOf w).word = w := by
  apply BitVec.eq_of_toNat_eq
  have := w.isLt
  simp only [fieldsOf, Fields.word, BitVec.toNat_ofNat, decide_eq_true_eq]
  split <;> omega

/-- The fields that a word was made of are its fields. -/
theorem fieldsOf_word (f : Fields) : fieldsOf f.word = f := by
  obtain ⟨op, nw, d, a, b⟩ := f
  have h1 := op.isLt
  have h2 := d.isLt
  have h3 := a.isLt
  have h4 := b.isLt
  have hn : (Fields.word ⟨op, nw, d, a, b⟩).toNat
      = op.toNat * 2 ^ 25 + (if nw then 2 ^ 24 else 0) + d.toNat * 2 ^ 16 + a.toNat * 2 ^ 8 + b.toNat := by
    simp only [Fields.word, BitVec.toNat_ofNat]
    cases nw <;> simp <;> omega
  simp only [fieldsOf, hn, Fields.mk.injEq]
  refine ⟨?_, ?_, ?_, ?_, ?_⟩
  · apply BitVec.eq_of_toNat_eq
    simp only [BitVec.toNat_ofNat]
    cases nw <;> simp <;> omega
  · cases nw <;> simp <;> omega
  all_goals
    apply BitVec.eq_of_toNat_eq
    simp only [BitVec.toNat_ofNat]
    cases nw <;> simp <;> omega

theorem imm16_parts (op : BitVec 7) (nw : Bool) (d : BitVec 8) (i : BitVec 16) :
    imm16 ⟨op, nw, d, immHi i, immLo i⟩ = i := by
  apply BitVec.eq_of_toNat_eq
  have := i.isLt
  simp only [imm16, immHi, immLo, BitVec.toNat_ofNat]
  omega

theorem immHi_imm16 (f : Fields) : immHi (imm16 f) = f.a := by
  apply BitVec.eq_of_toNat_eq
  have := f.a.isLt
  have := f.b.isLt
  simp only [imm16, immHi, BitVec.toNat_ofNat]
  omega

theorem immLo_imm16 (f : Fields) : immLo (imm16 f) = f.b := by
  apply BitVec.eq_of_toNat_eq
  have := f.a.isLt
  have := f.b.isLt
  simp only [imm16, immLo, BitVec.toNat_ofNat]
  omega

theorem off25_offFields (op : BitVec 7) (o : BitVec 25) : off25 (offFields op o) = o := by
  apply BitVec.eq_of_toNat_eq
  have := o.isLt
  simp only [off25, offFields, BitVec.toNat_ofNat, decide_eq_true_eq]
  split <;> omega

theorem offFields_off25 (f : Fields) : offFields f.op (off25 f) = f := by
  obtain ⟨op, nw, d, a, b⟩ := f
  have h2 := d.isLt
  have h3 := a.isLt
  have h4 := b.isLt
  have hn : (off25 ⟨op, nw, d, a, b⟩).toNat
      = (if nw then 2 ^ 24 else 0) + d.toNat * 2 ^ 16 + a.toNat * 256 + b.toNat := by
    simp only [off25, BitVec.toNat_ofNat]
    cases nw <;> simp <;> omega
  simp only [offFields, hn, Fields.mk.injEq, true_and]
  refine ⟨?_, ?_, ?_, ?_⟩
  · cases nw <;> simp <;> omega
  all_goals
    apply BitVec.eq_of_toNat_eq
    simp only [BitVec.toNat_ofNat]
    cases nw <;> simp <;> omega

/-! ### The decoder's formats, on fields that the encoder wrote -/

theorem nwDab_code (op : BitVec 7) (nw dsrc : Bool) (d a b : Operand) (mk : Bool → Operand → Operand → Operand → Instr)
    (h : (dsrc || nwClear nw d) = true) :
    nwDab ⟨op, nw, d.code, a.code, b.code⟩ dsrc mk = .ok (mk nw d a b) := by
  have hz : ∀ x : Operand, x == .v 0 → x.code = 0 := by intro x hx; rw [eq_of_beq hx]; rfl
  cases nw <;> cases dsrc <;> (simp_all [nwDab, nwClear, Operand.ofCode_code]; try rfl)

theorem nwDa_code (op : BitVec 7) (nw dsrc : Bool) (d a : Operand) (b : BitVec 8) (mk : Bool → Operand → Operand → Instr)
    (h : (dsrc || nwClear nw d) = true) :
    nwDa ⟨op, nw, d.code, a.code, b⟩ dsrc mk = .ok (mk nw d a) := by
  have hz : ∀ x : Operand, x == .v 0 → x.code = 0 := by intro x hx; rw [eq_of_beq hx]; rfl
  cases nw <;> cases dsrc <;> (simp_all [nwDa, nwClear, Operand.ofCode_code]; try rfl)

theorem nwDaq_code (op : BitVec 7) (nw : Bool) (d a : Operand) (q : BitVec 8) (mk : Bool → Operand → Operand → BitVec 8 → Instr)
    (h : nwClear nw d = true) :
    nwDaq ⟨op, nw, d.code, a.code, q⟩ mk = .ok (mk nw d a q) := by
  have hz : ∀ x : Operand, x == .v 0 → x.code = 0 := by intro x hx; rw [eq_of_beq hx]; rfl
  cases nw <;> (simp_all [nwDaq, nwClear, Operand.ofCode_code]; try rfl)

theorem dImm_code (op : BitVec 7) (nw dsrc : Bool) (d : Operand) (i : BitVec 16) (mk : Bool → Operand → BitVec 16 → Instr)
    (h : (dsrc || nwClear nw d) = true) :
    dImm ⟨op, nw, d.code, immHi i, immLo i⟩ dsrc mk = .ok (mk nw d i) := by
  have hz : ∀ x : Operand, x == .v 0 → x.code = 0 := by intro x hx; rw [eq_of_beq hx]; rfl
  cases nw <;> cases dsrc <;> (simp_all [dImm, nwClear, Operand.ofCode_code, imm16_parts]; try rfl)

theorem nwD_code (op : BitVec 7) (nw : Bool) (d : Operand) (b : BitVec 8) (mk : Bool → Operand → Instr)
    (h : nwClear nw d = true) : nwD ⟨op, nw, d.code, 0, b⟩ mk = .ok (mk nw d) := by
  have hz : ∀ x : Operand, x == .v 0 → x.code = 0 := by intro x hx; rw [eq_of_beq hx]; rfl
  cases nw <;> (simp_all [nwD, nwClear, Operand.ofCode_code]; try rfl)

theorem aOnly_code (op : BitVec 7) (a : Operand) (mk : Operand → Instr) : aOnly ⟨op, false, 0, a.code, 0⟩ mk = .ok (mk a) := by
  simp [aOnly, Operand.ofCode_code]

theorem aAndB_code (op : BitVec 7) (a b : Operand) (mk : Operand → Operand → Instr) :
    aAndB ⟨op, false, 0, a.code, b.code⟩ mk = .ok (mk a b) := by
  simp [aAndB, Operand.ofCode_code]

theorem dab_code (op : BitVec 7) (d a b : Operand) (mk : Operand → Operand → Operand → Instr) :
    dab ⟨op, false, d.code, a.code, b.code⟩ mk = .ok (mk d a b) := by
  simp [dab, Operand.ofCode_code]

theorem aFn_code (op : BitVec 7) (a : Operand) (b : BitVec 8) (mk : Operand → Instr) :
    aFn ⟨op, false, 0, a.code, b⟩ mk = .ok (mk a) := by
  simp [aFn, Operand.ofCode_code]

theorem dFn_code (op : BitVec 7) (d : Operand) (b : BitVec 8) (mk : Operand → Instr) :
    dFn ⟨op, false, d.code, 0, b⟩ mk = .ok (mk d) := by
  simp [dFn, Operand.ofCode_code]

theorem daFn_code (op : BitVec 7) (d a : Operand) (b : BitVec 8) (mk : Operand → Operand → Instr) :
    daFn ⟨op, false, d.code, a.code, b⟩ mk = .ok (mk d a) := by
  simp [daFn, Operand.ofCode_code]

theorem decodeCmp_code (nw : Bool) (k : Fin 8) (c : Cond) (a b : Operand) :
    decodeCmp ⟨0x25, nw, b.code, a.code, BitVec.ofNat 8 (16 * k.val + c.code)⟩ = .ok (.cmp nw k c a b) := by
  have hc : c.code < 15 := by cases c <;> decide
  have hn : (BitVec.ofNat 8 (16 * k.val + c.code)).toNat = 16 * k.val + c.code := by
    rw [BitVec.toNat_ofNat]; have := k.isLt; omega
  have h1 : ¬ (16 * k.val + c.code) / 128 = 1 := by have := k.isLt; omega
  have h2 : (16 * k.val + c.code) % 16 = c.code := by omega
  have h3 : (16 * k.val + c.code) / 16 % 8 = k.val := by have := k.isLt; omega
  simp only [decodeCmp, hn, h1, h2, Cond.ofCode_code, if_false, Operand.ofCode_code, h3]

theorem decodeCvt_code (nw : Bool) (t : ElemType) (d a : Operand) (h : nwClear nw d = true) :
    decodeCvt ⟨0x2C, nw, d.code, a.code, BitVec.ofNat 8 t.code⟩ = .ok (.cvt nw t d a) := by
  have hc : t.code < 32 := by cases t <;> decide
  have hn : (BitVec.ofNat 8 t.code).toNat = t.code := by rw [BitVec.toNat_ofNat]; omega
  have h1 : ¬ t.code / 32 ≠ 0 := by omega
  have h2 : t.code % 32 = t.code := by omega
  simp only [decodeCvt, hn, h1, h2, ElemType.ofCode_code, if_false]
  exact nwDa_code _ nw false d a _ _ (by simpa using h)

theorem decodeFence_code (p : FencePaths) (sc : Scope) (h : (p.net || p.eng || p.scr || p.st || p.ld) = true) :
    decodeFence ⟨0x47, false, 0, 0, BitVec.ofNat 8 (p.code * 4 + sc.code)⟩ = .ok (.fence p sc) := by
  obtain ⟨a, b, c, d, e⟩ := p
  cases a <;> cases b <;> cases c <;> cases d <;> cases e <;> first | (simp at h; done) | (cases sc <;> rfl)

end Sys2Proof
end

