-- ==== Sys2Proof/Laws/PerInstr.lean ====
section
/-! SUPPORT. What holds of every instruction, constructor by constructor: its word reads back as the instruction. -/

namespace Sys2Proof.Laws.RoundTrip

set_option Elab.async false

/-- The decoder of the agent that executes the instruction reads it from a word: the control cores' for the launch
extension (R285), the waves' for every other. -/
def Reads (i : Instr) (x : Word) : Prop :=
  match i with
  | .cdmLaunch .. | .cdmLstat .. => decodeCdm x = some i
  | _ => decodeWord x = .ok i

/-- The word of a well-formed instruction decodes to it. -/
def Statement (i : Instr) : Prop := i.WellFormed = true → ∀ x, encode i = some x → Reads i x

theorem unit {i : Instr} (h : encodeFields i = none) (h' : encode i = (encodeFields i).map Fields.word) : Statement i := by
  intro _ x e
  rw [h', h] at e
  cases e

theorem reads_of_fields {i : Instr} {f : Fields} (he : encode i = some f.word) (hd : decodeFields f = .ok i)
    (hr : ∀ x, decodeWord x = .ok i → Reads i x) (x : Word) (e : encode i = some x) : Reads i x := by
  rw [he] at e
  cases e
  exact hr _ (by rw [decodeWord, fieldsOf_word, hd])

theorem fields {i : Instr} {f : Fields} (he : encode i = some f.word)
    (hd : i.WellFormed = true → decodeFields f = .ok i) (hr : Reads i = fun x => decodeWord x = .ok i := by rfl) :
    Statement i := fun h x e => reads_of_fields he (hd h) (fun _ y => by rw [hr]; exact y) x e


theorem illegal_reads (w : Word) (h : (Instr.illegal w).WellFormed = true) (x : Word) (e : encode (.illegal w) = some x) :
    Reads (.illegal w) x := by
  have hx : x = w := by
    have := Option.some.inj e
    rw [← this, word_fieldsOf]
  subst hx
  have hop : (fieldsOf x).op.toNat = x.toNat / 2 ^ 25 := by
    have := x.isLt
    simp only [fieldsOf, BitVec.toNat_ofNat]; omega
  show decodeWord x = .ok (.illegal x)
  rw [decodeWord, decodeFields]
  have hlt : x.toNat / 2 ^ 25 < 128 := by have := x.isLt; omega
  have key : ∀ n : Fin 128, reservedOpcode n.val = true → n.val ∈ [0, 0x2E, 0x2F, 0x3A, 0x3B, 0x3C, 0x3D, 0x3E, 0x3F, 0x4B,
      0x5C, 0x5D, 0x5E, 0x5F, 0x6A, 0x6B, 0x6C, 0x6D, 0x6E, 0x6F, 0x78, 0x79, 0x7A, 0x7B, 0x7C, 0x7D, 0x7E, 0x7F] := by
    decide
  have hm := key ⟨x.toNat / 2 ^ 25, hlt⟩ h
  simp only [List.mem_cons, List.not_mem_nil, or_false] at hm
  rw [hop]
  repeat (rcases hm with hm | hm; · rw [hm]; exact congrArg (Except.ok ∘ Instr.illegal) (word_fieldsOf x))
  rw [hm]; exact congrArg (Except.ok ∘ Instr.illegal) (word_fieldsOf x)

theorem qpop_code (d : Operand) (q : BitVec 8) : decodeFields ⟨0x5A, false, d.code, 0, q⟩ = .ok (Instr.qpop d q) := by
  show (if false = true then Except.error DecodeReject.nwForbidden
    else if (0 : BitVec 8) != 0 then .error .unusedField else .ok (Instr.qpop (Operand.ofCode d.code) q)) = _
  simp [Operand.ofCode_code]

theorem qstat_code (nw : Bool) (d : Operand) (q : BitVec 8) (h : nwClear nw d = true) :
    decodeFields ⟨0x5B, nw, d.code, 0, q⟩ = .ok (Instr.qstat nw d q) := by
  have hz : ∀ x : Operand, x == .v 0 → x.code = 0 := by intro x hx; rw [eq_of_beq hx]; rfl
  show (if (0 : BitVec 8) != 0 then Except.error DecodeReject.unusedField
    else if (nw && d.code != 0) = true then .error .nwDestination else .ok (Instr.qstat nw (Operand.ofCode d.code) q)) = _
  cases nw <;> simp_all [nwClear, Operand.ofCode_code]
  rfl

theorem csrr_code (nw : Bool) (d : Operand) (c : BitVec 8) (h : nwClear nw d = true) :
    decodeFields ⟨0x77, nw, d.code, c, 0⟩ = .ok (Instr.csrr nw d c) := by
  have hz : ∀ x : Operand, x == .v 0 → x.code = 0 := by intro x hx; rw [eq_of_beq hx]; rfl
  show (if (nw && d.code != 0) = true then Except.error DecodeReject.nwDestination
    else .ok (Instr.csrr nw (Operand.ofCode d.code) c)) = _
  cases nw <;> simp_all [nwClear, Operand.ofCode_code]
  rfl

theorem csrw_code (d : Operand) (c : BitVec 8) : decodeFields ⟨0x77, false, d.code, c, 1⟩ = .ok (Instr.csrw d c) := by
  show (if false = true then Except.error DecodeReject.nwForbidden else .ok (Instr.csrw (Operand.ofCode d.code) c)) = _
  simp [Operand.ofCode_code]

theorem pack_reads_packXn (nw : Bool) (k : Fin 8) (d a : Operand) (h : (Instr.packXn nw k d a).WellFormed = true) :
    decodeFields ⟨0x2D, nw, d.code, a.code, BitVec.ofNat 8 (0 + k.val)⟩ = .ok (.packXn nw k d a) := by
  have hk : ∀ k : Fin 8, decodePack ⟨0x2D, nw, d.code, a.code, BitVec.ofNat 8 (0 + k.val)⟩ =
      nwDa ⟨0x2D, nw, d.code, a.code, BitVec.ofNat 8 (0 + k.val)⟩ false (.packXn · k) := by
    intro k
    have := k.isLt
    have hn : (BitVec.ofNat 8 (0 + k.val)).toNat = 0 + k.val := by rw [BitVec.toNat_ofNat]; omega
    simp only [decodePack, hn, show (0 + k.val) / 16 = 0 by omega, show (0 + k.val) % 16 = k.val by omega, this, dif_pos]
  exact (hk k).trans (nwDa_code _ _ false _ _ _ _ h)

theorem pack_reads_packXb (nw : Bool) (k : Fin 4) (d a : Operand) (h : (Instr.packXb nw k d a).WellFormed = true) :
    decodeFields ⟨0x2D, nw, d.code, a.code, BitVec.ofNat 8 (16 + k.val)⟩ = .ok (.packXb nw k d a) := by
  have hk : ∀ k : Fin 4, decodePack ⟨0x2D, nw, d.code, a.code, BitVec.ofNat 8 (16 + k.val)⟩ =
      nwDa ⟨0x2D, nw, d.code, a.code, BitVec.ofNat 8 (16 + k.val)⟩ false (.packXb · k) := by
    intro k
    have := k.isLt
    have hn : (BitVec.ofNat 8 (16 + k.val)).toNat = 16 + k.val := by rw [BitVec.toNat_ofNat]; omega
    simp only [decodePack, hn, show (16 + k.val) / 16 = 1 by omega, show (16 + k.val) % 16 = k.val by omega, this, dif_pos]
  exact (hk k).trans (nwDa_code _ _ false _ _ _ _ h)

theorem pack_reads_packXh (nw : Bool) (k : Fin 2) (d a : Operand) (h : (Instr.packXh nw k d a).WellFormed = true) :
    decodeFields ⟨0x2D, nw, d.code, a.code, BitVec.ofNat 8 (32 + k.val)⟩ = .ok (.packXh nw k d a) := by
  have hk : ∀ k : Fin 2, decodePack ⟨0x2D, nw, d.code, a.code, BitVec.ofNat 8 (32 + k.val)⟩ =
      nwDa ⟨0x2D, nw, d.code, a.code, BitVec.ofNat 8 (32 + k.val)⟩ false (.packXh · k) := by
    intro k
    have := k.isLt
    have hn : (BitVec.ofNat 8 (32 + k.val)).toNat = 32 + k.val := by rw [BitVec.toNat_ofNat]; omega
    simp only [decodePack, hn, show (32 + k.val) / 16 = 2 by omega, show (32 + k.val) % 16 = k.val by omega, this, dif_pos]
  exact (hk k).trans (nwDa_code _ _ false _ _ _ _ h)

theorem pack_reads_packIn (nw : Bool) (k : Fin 8) (d a : Operand) (_h : (Instr.packIn nw k d a).WellFormed = true) :
    decodeFields ⟨0x2D, nw, d.code, a.code, BitVec.ofNat 8 (48 + k.val)⟩ = .ok (.packIn nw k d a) := by
  have hk : ∀ k : Fin 8, decodePack ⟨0x2D, nw, d.code, a.code, BitVec.ofNat 8 (48 + k.val)⟩ =
      nwDa ⟨0x2D, nw, d.code, a.code, BitVec.ofNat 8 (48 + k.val)⟩ true (.packIn · k) := by
    intro k
    have := k.isLt
    have hn : (BitVec.ofNat 8 (48 + k.val)).toNat = 48 + k.val := by rw [BitVec.toNat_ofNat]; omega
    simp only [decodePack, hn, show (48 + k.val) / 16 = 3 by omega, show (48 + k.val) % 16 = k.val by omega, this, dif_pos]
  exact (hk k).trans (nwDa_code _ _ true _ _ _ _ rfl)

theorem pack_reads_packIb (nw : Bool) (k : Fin 4) (d a : Operand) (_h : (Instr.packIb nw k d a).WellFormed = true) :
    decodeFields ⟨0x2D, nw, d.code, a.code, BitVec.ofNat 8 (64 + k.val)⟩ = .ok (.packIb nw k d a) := by
  have hk : ∀ k : Fin 4, decodePack ⟨0x2D, nw, d.code, a.code, BitVec.ofNat 8 (64 + k.val)⟩ =
      nwDa ⟨0x2D, nw, d.code, a.code, BitVec.ofNat 8 (64 + k.val)⟩ true (.packIb · k) := by
    intro k
    have := k.isLt
    have hn : (BitVec.ofNat 8 (64 + k.val)).toNat = 64 + k.val := by rw [BitVec.toNat_ofNat]; omega
    simp only [decodePack, hn, show (64 + k.val) / 16 = 4 by omega, show (64 + k.val) % 16 = k.val by omega, this, dif_pos]
  exact (hk k).trans (nwDa_code _ _ true _ _ _ _ rfl)

theorem pack_reads_packIh (nw : Bool) (k : Fin 2) (d a : Operand) (_h : (Instr.packIh nw k d a).WellFormed = true) :
    decodeFields ⟨0x2D, nw, d.code, a.code, BitVec.ofNat 8 (80 + k.val)⟩ = .ok (.packIh nw k d a) := by
  have hk : ∀ k : Fin 2, decodePack ⟨0x2D, nw, d.code, a.code, BitVec.ofNat 8 (80 + k.val)⟩ =
      nwDa ⟨0x2D, nw, d.code, a.code, BitVec.ofNat 8 (80 + k.val)⟩ true (.packIh · k) := by
    intro k
    have := k.isLt
    have hn : (BitVec.ofNat 8 (80 + k.val)).toNat = 80 + k.val := by rw [BitVec.toNat_ofNat]; omega
    simp only [decodePack, hn, show (80 + k.val) / 16 = 5 by omega, show (80 + k.val) % 16 = k.val by omega, this, dif_pos]
  exact (hk k).trans (nwDa_code _ _ true _ _ _ _ rfl)

theorem cdmLaunch_reads (rs2 rs1 rd : Fin 32) : Statement (.cdmLaunch rs2 rs1 rd) := by
  intro _ x e
  have hx : x = cdmWord 0 rs2 rs1 rd := (Option.some.inj e).symm
  subst hx
  show decodeCdm _ = _
  have h1 := rs2.isLt
  have h2 := rs1.isLt
  have h3 := rd.isLt
  have hn : (cdmWord 0 rs2 rs1 rd).toNat
      = rs2.val * 2 ^ 20 + rs1.val * 2 ^ 15 + 0 * 2 ^ 12 + rd.val * 2 ^ 7 + 0x0B := by
    simp only [cdmWord, BitVec.toNat_ofNat]; omega
  have a1 : (rs2.val * 2 ^ 20 + rs1.val * 2 ^ 15 + 0 * 2 ^ 12 + rd.val * 2 ^ 7 + 0x0B) % 128 = 0x0B := by omega
  have a2 : (rs2.val * 2 ^ 20 + rs1.val * 2 ^ 15 + 0 * 2 ^ 12 + rd.val * 2 ^ 7 + 0x0B) / 2 ^ 25 = 0 := by omega
  have a3 : (rs2.val * 2 ^ 20 + rs1.val * 2 ^ 15 + 0 * 2 ^ 12 + rd.val * 2 ^ 7 + 0x0B) / 2 ^ 12 % 8 = 0 := by omega
  have a4 : (rs2.val * 2 ^ 20 + rs1.val * 2 ^ 15 + 0 * 2 ^ 12 + rd.val * 2 ^ 7 + 0x0B) / 2 ^ 20 % 32 = rs2.val := by omega
  have a5 : (rs2.val * 2 ^ 20 + rs1.val * 2 ^ 15 + 0 * 2 ^ 12 + rd.val * 2 ^ 7 + 0x0B) / 2 ^ 15 % 32 = rs1.val := by omega
  have a6 : (rs2.val * 2 ^ 20 + rs1.val * 2 ^ 15 + 0 * 2 ^ 12 + rd.val * 2 ^ 7 + 0x0B) / 2 ^ 7 % 32 = rd.val := by omega
  simp only [decodeCdm, hn, a1, a2, a3, a4, a5, a6, decide_true, Bool.and_self, if_true]

theorem cdmLstat_reads (rs2 rs1 rd : Fin 32) : Statement (.cdmLstat rs2 rs1 rd) := by
  intro _ x e
  have hx : x = cdmWord 1 rs2 rs1 rd := (Option.some.inj e).symm
  subst hx
  show decodeCdm _ = _
  have h1 := rs2.isLt
  have h2 := rs1.isLt
  have h3 := rd.isLt
  have hn : (cdmWord 1 rs2 rs1 rd).toNat
      = rs2.val * 2 ^ 20 + rs1.val * 2 ^ 15 + 1 * 2 ^ 12 + rd.val * 2 ^ 7 + 0x0B := by
    simp only [cdmWord, BitVec.toNat_ofNat]; omega
  have a1 : (rs2.val * 2 ^ 20 + rs1.val * 2 ^ 15 + 1 * 2 ^ 12 + rd.val * 2 ^ 7 + 0x0B) % 128 = 0x0B := by omega
  have a2 : (rs2.val * 2 ^ 20 + rs1.val * 2 ^ 15 + 1 * 2 ^ 12 + rd.val * 2 ^ 7 + 0x0B) / 2 ^ 25 = 0 := by omega
  have a3 : (rs2.val * 2 ^ 20 + rs1.val * 2 ^ 15 + 1 * 2 ^ 12 + rd.val * 2 ^ 7 + 0x0B) / 2 ^ 12 % 8 = 1 := by omega
  have a4 : (rs2.val * 2 ^ 20 + rs1.val * 2 ^ 15 + 1 * 2 ^ 12 + rd.val * 2 ^ 7 + 0x0B) / 2 ^ 20 % 32 = rs2.val := by omega
  have a5 : (rs2.val * 2 ^ 20 + rs1.val * 2 ^ 15 + 1 * 2 ^ 12 + rd.val * 2 ^ 7 + 0x0B) / 2 ^ 15 % 32 = rs1.val := by omega
  have a6 : (rs2.val * 2 ^ 20 + rs1.val * 2 ^ 15 + 1 * 2 ^ 12 + rd.val * 2 ^ 7 + 0x0B) / 2 ^ 7 % 32 = rd.val := by omega
  simp only [decodeCdm, hn, a1, a2, a3, a4, a5, a6, decide_true, Bool.and_self, if_true]

theorem illegal x0 : Statement (.illegal x0) := fun h x e => illegal_reads x0 h x e
theorem nop : Statement .nop := fields rfl fun _ => rfl
theorem mode x0 : Statement (.mode x0) := fields rfl fun _ => congrArg (Except.ok ∘ Instr.mode) (imm16_parts _ _ _ _)
theorem li x0 x1 x2 : Statement (.li x0 x1 x2) := fields rfl fun h => dImm_code _ _ false _ _ _ h
theorem lih x0 x1 x2 : Statement (.lih x0 x1 x2) := fields rfl fun _ => dImm_code _ _ true _ _ _ rfl
theorem addi x0 x1 x2 : Statement (.addi x0 x1 x2) := fields rfl fun _ => dImm_code _ _ true _ _ _ rfl
theorem br x0 : Statement (.br x0) := fields rfl fun _ => congrArg (Except.ok ∘ Instr.br) (off25_offFields _ _)
theorem jmp x0 : Statement (.jmp x0) := fields rfl fun _ => congrArg (Except.ok ∘ Instr.jmp) (off25_offFields _ _)
theorem call x0 : Statement (.call x0) := fields rfl fun _ => congrArg (Except.ok ∘ Instr.call) (off25_offFields _ _)
theorem jpt x0 : Statement (.jpt x0) := fields rfl fun _ => congrArg (Except.ok ∘ Instr.jpt) (off25_offFields _ _)
theorem ret x0 : Statement (.ret x0) := fields rfl fun _ => aOnly_code ..
theorem jtab x0 x1 : Statement (.jtab x0 x1) := fields rfl fun _ => aAndB_code ..
theorem exit : Statement .exit := fields rfl fun _ => rfl
theorem yield : Statement .yield := fields rfl fun _ => rfl
theorem trap x0 : Statement (.trap x0) := fields rfl fun _ => congrArg (Except.ok ∘ Instr.trap) (imm16_parts _ _ _ _)
theorem sysc x0 x1 x2 : Statement (.sysc x0 x1 x2) := fields rfl fun _ => dab_code ..
theorem add x0 x1 x2 x3 : Statement (.add x0 x1 x2 x3) := fields rfl fun h => nwDab_code _ _ false _ _ _ _ h
theorem sub x0 x1 x2 x3 : Statement (.sub x0 x1 x2 x3) := fields rfl fun h => nwDab_code _ _ false _ _ _ _ h
theorem mul x0 x1 x2 x3 : Statement (.mul x0 x1 x2 x3) := fields rfl fun h => nwDab_code _ _ false _ _ _ _ h
theorem mulh x0 x1 x2 x3 : Statement (.mulh x0 x1 x2 x3) := fields rfl fun h => nwDab_code _ _ false _ _ _ _ h
theorem mad x0 x1 x2 x3 : Statement (.mad x0 x1 x2 x3) := fields rfl fun _ => nwDab_code _ _ true _ _ _ _ rfl
theorem min x0 x1 x2 x3 : Statement (.min x0 x1 x2 x3) := fields rfl fun h => nwDab_code _ _ false _ _ _ _ h
theorem max x0 x1 x2 x3 : Statement (.max x0 x1 x2 x3) := fields rfl fun h => nwDab_code _ _ false _ _ _ _ h
theorem addmin x0 x1 x2 x3 : Statement (.addmin x0 x1 x2 x3) := fields rfl fun _ => nwDab_code _ _ true _ _ _ _ rfl
theorem addmax x0 x1 x2 x3 : Statement (.addmax x0 x1 x2 x3) := fields rfl fun _ => nwDab_code _ _ true _ _ _ _ rfl
theorem and x0 x1 x2 x3 : Statement (.and x0 x1 x2 x3) := fields rfl fun h => nwDab_code _ _ false _ _ _ _ h
theorem or x0 x1 x2 x3 : Statement (.or x0 x1 x2 x3) := fields rfl fun h => nwDab_code _ _ false _ _ _ _ h
theorem xor x0 x1 x2 x3 : Statement (.xor x0 x1 x2 x3) := fields rfl fun h => nwDab_code _ _ false _ _ _ _ h
theorem shl x0 x1 x2 x3 : Statement (.shl x0 x1 x2 x3) := fields rfl fun h => nwDab_code _ _ false _ _ _ _ h
theorem shr x0 x1 x2 x3 : Statement (.shr x0 x1 x2 x3) := fields rfl fun h => nwDab_code _ _ false _ _ _ _ h
theorem sha x0 x1 x2 x3 : Statement (.sha x0 x1 x2 x3) := fields rfl fun h => nwDab_code _ _ false _ _ _ _ h
theorem fshl x0 x1 x2 x3 : Statement (.fshl x0 x1 x2 x3) := fields rfl fun _ => nwDab_code _ _ true _ _ _ _ rfl
theorem fshr x0 x1 x2 x3 : Statement (.fshr x0 x1 x2 x3) := fields rfl fun _ => nwDab_code _ _ true _ _ _ _ rfl
theorem rol x0 x1 x2 x3 : Statement (.rol x0 x1 x2 x3) := fields rfl fun h => nwDab_code _ _ false _ _ _ _ h
theorem sel x0 x1 x2 x3 : Statement (.sel x0 x1 x2 x3) := fields rfl fun _ => nwDab_code _ _ true _ _ _ _ rfl
theorem bfx x0 x1 x2 x3 : Statement (.bfx x0 x1 x2 x3) := fields rfl fun h => nwDab_code _ _ false _ _ _ _ h
theorem bfi x0 x1 x2 x3 : Statement (.bfi x0 x1 x2 x3) := fields rfl fun _ => nwDab_code _ _ true _ _ _ _ rfl
theorem cmp x0 x1 x2 x3 x4 : Statement (.cmp x0 x1 x2 x3 x4) := fields rfl fun _ => decodeCmp_code ..
theorem div x0 x1 x2 x3 : Statement (.div x0 x1 x2 x3) := fields rfl fun h => nwDab_code _ _ false _ _ _ _ h
theorem rem x0 x1 x2 x3 : Statement (.rem x0 x1 x2 x3) := fields rfl fun h => nwDab_code _ _ false _ _ _ _ h
theorem twosum x0 x1 x2 x3 : Statement (.twosum x0 x1 x2 x3) := fields rfl fun h => nwDab_code _ _ false _ _ _ _ h
theorem fasttwosum x0 x1 x2 x3 : Statement (.fasttwosum x0 x1 x2 x3) := fields rfl fun h => nwDab_code _ _ false _ _ _ _ h
theorem twoprod x0 x1 x2 x3 : Statement (.twoprod x0 x1 x2 x3) := fields rfl fun h => nwDab_code _ _ false _ _ _ _ h
theorem not x0 x1 x2 : Statement (.not x0 x1 x2) := fields rfl fun h => nwDa_code _ _ false _ _ _ _ h
theorem neg x0 x1 x2 : Statement (.neg x0 x1 x2) := fields rfl fun h => nwDa_code _ _ false _ _ _ _ h
theorem abs x0 x1 x2 : Statement (.abs x0 x1 x2) := fields rfl fun h => nwDa_code _ _ false _ _ _ _ h
theorem popc x0 x1 x2 : Statement (.popc x0 x1 x2) := fields rfl fun h => nwDa_code _ _ false _ _ _ _ h
theorem clz x0 x1 x2 : Statement (.clz x0 x1 x2) := fields rfl fun h => nwDa_code _ _ false _ _ _ _ h
theorem ctz x0 x1 x2 : Statement (.ctz x0 x1 x2) := fields rfl fun h => nwDa_code _ _ false _ _ _ _ h
theorem brev x0 x1 x2 : Statement (.brev x0 x1 x2) := fields rfl fun h => nwDa_code _ _ false _ _ _ _ h
theorem rcp x0 x1 x2 : Statement (.rcp x0 x1 x2) := fields rfl fun h => nwDa_code _ _ false _ _ _ _ h
theorem rsq x0 x1 x2 : Statement (.rsq x0 x1 x2) := fields rfl fun h => nwDa_code _ _ false _ _ _ _ h
theorem sqrt x0 x1 x2 : Statement (.sqrt x0 x1 x2) := fields rfl fun h => nwDa_code _ _ false _ _ _ _ h
theorem exp2 x0 x1 x2 : Statement (.exp2 x0 x1 x2) := fields rfl fun h => nwDa_code _ _ false _ _ _ _ h
theorem log2 x0 x1 x2 : Statement (.log2 x0 x1 x2) := fields rfl fun h => nwDa_code _ _ false _ _ _ _ h
theorem sin2pi x0 x1 x2 : Statement (.sin2pi x0 x1 x2) := fields rfl fun h => nwDa_code _ _ false _ _ _ _ h
theorem cos2pi x0 x1 x2 : Statement (.cos2pi x0 x1 x2) := fields rfl fun h => nwDa_code _ _ false _ _ _ _ h
theorem floor x0 x1 x2 : Statement (.floor x0 x1 x2) := fields rfl fun h => nwDa_code _ _ false _ _ _ _ h
theorem ceil x0 x1 x2 : Statement (.ceil x0 x1 x2) := fields rfl fun h => nwDa_code _ _ false _ _ _ _ h
theorem trunc x0 x1 x2 : Statement (.trunc x0 x1 x2) := fields rfl fun h => nwDa_code _ _ false _ _ _ _ h
theorem rint x0 x1 x2 : Statement (.rint x0 x1 x2) := fields rfl fun h => nwDa_code _ _ false _ _ _ _ h
theorem frac x0 x1 x2 : Statement (.frac x0 x1 x2) := fields rfl fun h => nwDa_code _ _ false _ _ _ _ h
end Sys2Proof.Laws.RoundTrip

namespace Sys2Proof.Laws

set_option Elab.async false

theorem RoundTrip.class x0 x1 x2 : RoundTrip.Statement (.class x0 x1 x2) := RoundTrip.fields rfl fun h => nwDa_code _ _ false _ _ _ _ h

end Sys2Proof.Laws

namespace Sys2Proof.Laws.RoundTrip

set_option Elab.async false

theorem cvt x0 x1 x2 x3 : Statement (.cvt x0 x1 x2 x3) := fields rfl fun h => decodeCvt_code _ _ _ _ h
theorem packXn x0 x1 x2 x3 : Statement (.packXn x0 x1 x2 x3) := fields rfl (pack_reads_packXn x0 x1 x2 x3)
theorem packXb x0 x1 x2 x3 : Statement (.packXb x0 x1 x2 x3) := fields rfl (pack_reads_packXb x0 x1 x2 x3)
theorem packXh x0 x1 x2 x3 : Statement (.packXh x0 x1 x2 x3) := fields rfl (pack_reads_packXh x0 x1 x2 x3)
theorem packIn x0 x1 x2 x3 : Statement (.packIn x0 x1 x2 x3) := fields rfl (pack_reads_packIn x0 x1 x2 x3)
theorem packIb x0 x1 x2 x3 : Statement (.packIb x0 x1 x2 x3) := fields rfl (pack_reads_packIb x0 x1 x2 x3)
theorem packIh x0 x1 x2 x3 : Statement (.packIh x0 x1 x2 x3) := fields rfl (pack_reads_packIh x0 x1 x2 x3)
theorem shfl x0 x1 x2 x3 : Statement (.shfl x0 x1 x2 x3) := fields rfl fun h => nwDab_code _ _ false _ _ _ _ h
theorem shflup x0 x1 x2 x3 : Statement (.shflup x0 x1 x2 x3) := fields rfl fun h => nwDab_code _ _ false _ _ _ _ h
theorem shfldn x0 x1 x2 x3 : Statement (.shfldn x0 x1 x2 x3) := fields rfl fun h => nwDab_code _ _ false _ _ _ _ h
theorem shflx x0 x1 x2 x3 : Statement (.shflx x0 x1 x2 x3) := fields rfl fun h => nwDab_code _ _ false _ _ _ _ h
theorem ballot x0 x1 x2 : Statement (.ballot x0 x1 x2) := fields rfl fun h => nwDa_code _ _ false _ _ _ _ h
theorem voteAny x0 x1 x2 : Statement (.voteAny x0 x1 x2) := fields rfl fun h => nwDa_code _ _ false _ _ _ _ h
theorem voteAll x0 x1 x2 : Statement (.voteAll x0 x1 x2) := fields rfl fun h => nwDa_code _ _ false _ _ _ _ h
theorem voteUni x0 x1 x2 : Statement (.voteUni x0 x1 x2) := fields rfl fun h => nwDa_code _ _ false _ _ _ _ h
theorem match_ x0 x1 x2 : Statement (.match_ x0 x1 x2) := fields rfl fun h => nwDa_code _ _ false _ _ _ _ h
theorem reduceAdd x0 x1 x2 : Statement (.reduceAdd x0 x1 x2) := fields rfl fun h => nwDa_code _ _ false _ _ _ _ h
theorem reduceMin x0 x1 x2 : Statement (.reduceMin x0 x1 x2) := fields rfl fun h => nwDa_code _ _ false _ _ _ _ h
theorem reduceMax x0 x1 x2 : Statement (.reduceMax x0 x1 x2) := fields rfl fun h => nwDa_code _ _ false _ _ _ _ h
theorem reduceAnd x0 x1 x2 : Statement (.reduceAnd x0 x1 x2) := fields rfl fun h => nwDa_code _ _ false _ _ _ _ h
theorem reduceOr x0 x1 x2 : Statement (.reduceOr x0 x1 x2) := fields rfl fun h => nwDa_code _ _ false _ _ _ _ h
theorem reduceXor x0 x1 x2 : Statement (.reduceXor x0 x1 x2) := fields rfl fun h => nwDa_code _ _ false _ _ _ _ h
theorem scanAdd x0 x1 x2 x3 : Statement (.scanAdd x0 x1 x2 x3) := fields rfl fun h => by cases x1; exact nwDa_code _ _ false _ _ _ (Instr.scanAdd · false) h; exact nwDa_code _ _ false _ _ _ (Instr.scanAdd · true) h
theorem scanMin x0 x1 x2 x3 : Statement (.scanMin x0 x1 x2 x3) := fields rfl fun h => by cases x1; exact nwDa_code _ _ false _ _ _ (Instr.scanMin · false) h; exact nwDa_code _ _ false _ _ _ (Instr.scanMin · true) h
theorem scanMax x0 x1 x2 x3 : Statement (.scanMax x0 x1 x2 x3) := fields rfl fun h => by cases x1; exact nwDa_code _ _ false _ _ _ (Instr.scanMax · false) h; exact nwDa_code _ _ false _ _ _ (Instr.scanMax · true) h
theorem scanAnd x0 x1 x2 x3 : Statement (.scanAnd x0 x1 x2 x3) := fields rfl fun h => by cases x1; exact nwDa_code _ _ false _ _ _ (Instr.scanAnd · false) h; exact nwDa_code _ _ false _ _ _ (Instr.scanAnd · true) h
theorem scanOr x0 x1 x2 x3 : Statement (.scanOr x0 x1 x2 x3) := fields rfl fun h => by cases x1; exact nwDa_code _ _ false _ _ _ (Instr.scanOr · false) h; exact nwDa_code _ _ false _ _ _ (Instr.scanOr · true) h
theorem scanXor x0 x1 x2 x3 : Statement (.scanXor x0 x1 x2 x3) := fields rfl fun h => by cases x1; exact nwDa_code _ _ false _ _ _ (Instr.scanXor · false) h; exact nwDa_code _ _ false _ _ _ (Instr.scanXor · true) h
theorem bcast x0 x1 x2 x3 : Statement (.bcast x0 x1 x2 x3) := fields rfl fun h => nwDab_code _ _ false _ _ _ _ h
theorem ld x0 x1 x2 : Statement (.ld x0 x1 x2) := fields rfl fun _ => dab_code ..
theorem st x0 x1 x2 : Statement (.st x0 x1 x2) := fields rfl fun _ => dab_code ..
theorem lds x0 x1 x2 : Statement (.lds x0 x1 x2) := fields rfl fun _ => dab_code ..
theorem sts x0 x1 x2 : Statement (.sts x0 x1 x2) := fields rfl fun _ => dab_code ..
theorem stm x0 x1 x2 : Statement (.stm x0 x1 x2) := fields rfl fun _ => dab_code ..
theorem ldacq x0 x1 x2 : Statement (.ldacq x0 x1 x2) := fields rfl fun _ => dab_code ..
theorem strel x0 x1 x2 : Statement (.strel x0 x1 x2) := fields rfl fun _ => dab_code ..
theorem fence x0 x1 : Statement (.fence x0 x1) := fields rfl fun h => decodeFence_code _ _ h
theorem pref x0 : Statement (.pref x0) := fields rfl fun _ => aFn_code ..
theorem clean x0 : Statement (.clean x0) := fields rfl fun _ => aFn_code ..
theorem inval x0 : Statement (.inval x0) := fields rfl fun _ => aFn_code ..
theorem monitor x0 : Statement (.monitor x0) := fields rfl fun _ => aOnly_code ..
theorem mwait : Statement .mwait := fields rfl fun _ => rfl
theorem atadd x0 x1 x2 x3 : Statement (.atadd x0 x1 x2 x3) := fields rfl fun h => nwDab_code _ _ false _ _ _ _ h
theorem atmin x0 x1 x2 x3 : Statement (.atmin x0 x1 x2 x3) := fields rfl fun h => nwDab_code _ _ false _ _ _ _ h
theorem atmax x0 x1 x2 x3 : Statement (.atmax x0 x1 x2 x3) := fields rfl fun h => nwDab_code _ _ false _ _ _ _ h
theorem atand x0 x1 x2 x3 : Statement (.atand x0 x1 x2 x3) := fields rfl fun h => nwDab_code _ _ false _ _ _ _ h
theorem ator x0 x1 x2 x3 : Statement (.ator x0 x1 x2 x3) := fields rfl fun h => nwDab_code _ _ false _ _ _ _ h
theorem atxor x0 x1 x2 x3 : Statement (.atxor x0 x1 x2 x3) := fields rfl fun h => nwDab_code _ _ false _ _ _ _ h
theorem atxchg x0 x1 x2 x3 : Statement (.atxchg x0 x1 x2 x3) := fields rfl fun h => nwDab_code _ _ false _ _ _ _ h
theorem atcas x0 x1 x2 : Statement (.atcas x0 x1 x2) := fields rfl fun _ => nwDa_code _ _ true _ _ _ _ rfl
theorem comb x0 x1 x2 x3 : Statement (.comb x0 x1 x2 x3) := fields rfl fun h => nwDab_code _ _ false _ _ _ _ h
theorem cmbarg x0 : Statement (.cmbarg x0) := fields rfl fun _ => dFn_code ..
theorem cmbreply x0 : Statement (.cmbreply x0) := fields rfl fun _ => aFn_code ..
theorem cmbend : Statement .cmbend := fields rfl fun _ => rfl
theorem arrive x0 x1 x2 x3 : Statement (.arrive x0 x1 x2 x3) := fields rfl fun h => nwDab_code _ _ false _ _ _ _ h
theorem waitb x0 x1 : Statement (.waitb x0 x1) := fields rfl fun _ => aAndB_code ..
theorem bar x0 x1 : Statement (.bar x0 x1) := fields rfl fun _ => aAndB_code ..
theorem qpush x0 x1 x2 x3 : Statement (.qpush x0 x1 x2 x3) := fields rfl fun h => nwDaq_code _ _ _ _ _ _ h
theorem qpop x0 x1 : Statement (.qpop x0 x1) := fields rfl (by simpa [Instr.WellFormed] using qpop_code x0 x1)
theorem qstat x0 x1 x2 : Statement (.qstat x0 x1 x2) := fields rfl (by simpa [Instr.WellFormed] using qstat_code x0 x1 x2)
theorem copy x0 x1 x2 x3 : Statement (.copy x0 x1 x2 x3) := fields rfl fun h => nwDab_code _ _ false _ _ _ _ h
theorem copym x0 x1 x2 x3 : Statement (.copym x0 x1 x2 x3) := fields rfl fun h => nwDab_code _ _ false _ _ _ _ h
theorem engwait x0 x1 : Statement (.engwait x0 x1) := fields rfl fun _ => aAndB_code ..
theorem sleepuntil x0 : Statement (.sleepuntil x0) := fields rfl fun _ => aOnly_code ..
theorem publish x0 : Statement (.publish x0) := fields rfl fun _ => aOnly_code ..
theorem quant2 x0 x1 x2 x3 : Statement (.quant2 x0 x1 x2 x3) := fields rfl fun h => nwDab_code _ _ false _ _ _ _ h
theorem mma x0 x1 : Statement (.mma x0 x1) := fields rfl fun _ => aAndB_code ..
theorem accz x0 : Statement (.accz x0) := fields rfl fun _ => aFn_code ..
theorem accrd x0 x1 : Statement (.accrd x0 x1) := fields rfl fun _ => daFn_code ..
theorem accwr x0 x1 : Statement (.accwr x0 x1) := fields rfl fun _ => daFn_code ..
theorem acccvt x0 x1 : Statement (.acccvt x0 x1) := fields rfl fun _ => daFn_code ..
theorem cbld x0 : Statement (.cbld x0) := fields rfl fun _ => aFn_code ..
theorem rotld x0 : Statement (.rotld x0) := fields rfl fun _ => aFn_code ..
theorem rot x0 x1 : Statement (.rot x0 x1) := fields rfl fun _ => daFn_code ..
theorem clockTick x0 x1 : Statement (.clockTick x0 x1) := fields rfl fun h => nwD_code _ _ _ _ _ h
theorem clockLogical x0 x1 : Statement (.clockLogical x0 x1) := fields rfl fun h => nwD_code _ _ _ _ _ h
theorem clockPeriod x0 x1 : Statement (.clockPeriod x0 x1) := fields rfl fun h => nwD_code _ _ _ _ _ h
theorem clockPod x0 x1 : Statement (.clockPod x0 x1) := fields rfl fun h => nwD_code _ _ _ _ _ h
theorem segopen x0 x1 x2 : Statement (.segopen x0 x1 x2) := fields rfl fun h => nwDa_code _ _ false _ _ _ _ h
theorem segseal x0 : Statement (.segseal x0) := fields rfl fun _ => aFn_code ..
theorem segref x0 x1 x2 : Statement (.segref x0 x1 x2) := fields rfl fun h => nwDa_code _ _ false _ _ _ _ h
theorem segdrop x0 : Statement (.segdrop x0) := fields rfl fun _ => aFn_code ..
theorem link x0 x1 x2 x3 : Statement (.link x0 x1 x2 x3) := fields rfl fun h => nwDab_code _ _ false _ _ _ _ h
theorem unlink x0 x1 x2 x3 : Statement (.unlink x0 x1 x2 x3) := fields rfl fun h => nwDab_code _ _ false _ _ _ _ h
theorem ctxpin x0 x1 x2 : Statement (.ctxpin x0 x1 x2) := fields rfl fun h => nwDa_code _ _ false _ _ _ _ h
theorem ctxunpin : Statement .ctxunpin := fields rfl fun _ => rfl
theorem tkpost x0 x1 x2 : Statement (.tkpost x0 x1 x2) := fields rfl fun h => nwDa_code _ _ false _ _ _ _ h
theorem tkdone : Statement .tkdone := fields rfl fun _ => rfl
theorem tkpull x0 x1 : Statement (.tkpull x0 x1) := fields rfl fun _ => daFn_code ..
theorem tkcancel x0 x1 x2 : Statement (.tkcancel x0 x1 x2) := fields rfl fun h => nwDa_code _ _ false _ _ _ _ h
theorem tkpark x0 x1 x2 : Statement (.tkpark x0 x1 x2) := fields rfl fun h => nwDa_code _ _ false _ _ _ _ h
theorem tkresume x0 x1 x2 : Statement (.tkresume x0 x1 x2) := fields rfl fun h => nwDa_code _ _ false _ _ _ _ h
theorem nput x0 x1 : Statement (.nput x0 x1) := fields rfl fun _ => daFn_code ..
theorem nputOrd x0 x1 : Statement (.nputOrd x0 x1) := fields rfl fun _ => daFn_code ..
theorem nget x0 x1 : Statement (.nget x0 x1) := fields rfl fun _ => daFn_code ..
theorem nsend x0 x1 : Statement (.nsend x0 x1) := fields rfl fun _ => daFn_code ..
theorem nsendOrd x0 x1 : Statement (.nsendOrd x0 x1) := fields rfl fun _ => daFn_code ..
theorem nrecv x0 x1 : Statement (.nrecv x0 x1) := fields rfl fun _ => daFn_code ..
theorem nfence : Statement .nfence := fields rfl fun _ => rfl
theorem launch x0 x1 x2 x3 : Statement (.launch x0 x1 x2 x3) := fields rfl fun h => nwDab_code _ _ false _ _ _ _ h
theorem csrr x0 x1 x2 : Statement (.csrr x0 x1 x2) := fields rfl (by simpa [Instr.WellFormed] using csrr_code x0 x1 x2)
theorem csrw x0 x1 : Statement (.csrw x0 x1) := fields rfl (by simpa [Instr.WellFormed] using csrw_code x0 x1)
theorem trapretResume : Statement .trapretResume := fields rfl fun _ => rfl
theorem trapretSkip : Statement .trapretSkip := fields rfl fun _ => rfl
theorem trapretExit : Statement .trapretExit := fields rfl fun _ => rfl
theorem cdmLaunch x0 x1 x2 : Statement (.cdmLaunch x0 x1 x2) := cdmLaunch_reads x0 x1 x2
theorem cdmLstat x0 x1 x2 : Statement (.cdmLstat x0 x1 x2) := cdmLstat_reads x0 x1 x2
theorem waveWake : ∀ x0 x1, Statement (.waveWake x0 x1) := fun _ _ => unit rfl rfl
theorem waveEnd : ∀ x0, Statement (.waveEnd x0) := fun _ => unit rfl rfl
theorem loadReply : ∀ x0 x1, Statement (.loadReply x0 x1) := fun _ _ => unit rfl rfl
theorem atomicRequest : ∀ x0, Statement (.atomicRequest x0) := fun _ => unit rfl rfl
theorem atomicReply : ∀ x0 x1, Statement (.atomicReply x0 x1) := fun _ _ => unit rfl rfl
theorem homeRead : ∀ x0, Statement (.homeRead x0) := fun _ => unit rfl rfl
theorem homeWrite : ∀ x0, Statement (.homeWrite x0) := fun _ => unit rfl rfl
theorem sectorWriteback : ∀ x0, Statement (.sectorWriteback x0) := fun _ => unit rfl rfl
theorem l2Fill : ∀ x0 x1, Statement (.l2Fill x0 x1) := fun _ _ => unit rfl rfl
theorem expandedRead : ∀ x0 x1, Statement (.expandedRead x0 x1) := fun _ _ => unit rfl rfl
theorem combRequest : ∀ x0, Statement (.combRequest x0) := fun _ => unit rfl rfl
theorem combinerBatch : ∀ x0, Statement (.combinerBatch x0) := fun _ => unit rfl rfl
theorem methodInstructionLimit : ∀ x0, Statement (.methodInstructionLimit x0) := fun _ => unit rfl rfl
theorem combReply : ∀ x0 x1, Statement (.combReply x0 x1) := fun _ _ => unit rfl rfl
theorem linkMethod : ∀ x0, Statement (.linkMethod x0) := fun _ => unit rfl rfl
theorem editionCommit : ∀ x0, Statement (.editionCommit x0) := fun _ => unit rfl rfl
theorem releaseRecordAppend : ∀ x0, Statement (.releaseRecordAppend x0) := fun _ => unit rfl rfl
theorem releaseComplete : ∀ x0, Statement (.releaseComplete x0) := fun _ => unit rfl rfl
theorem barrierArrival : ∀ x0, Statement (.barrierArrival x0) := fun _ => unit rfl rfl
theorem pageWalk : ∀ x0 x1 x2, Statement (.pageWalk x0 x1 x2) := fun _ _ _ => unit rfl rfl
theorem tlbinvAll : Statement .tlbinvAll := unit rfl rfl
theorem tlbinvAsid : ∀ x0, Statement (.tlbinvAsid x0) := fun _ => unit rfl rfl
theorem tlbinvPage : ∀ x0 x1, Statement (.tlbinvPage x0 x1) := fun _ _ => unit rfl rfl
theorem tlbinvComplete : Statement .tlbinvComplete := unit rfl rfl
theorem writeback : ∀ x0 x1 x2 x3, Statement (.writeback x0 x1 x2 x3) := fun _ _ _ _ => unit rfl rfl
theorem overflowRetry : ∀ x0 x1 x2 x3, Statement (.overflowRetry x0 x1 x2 x3) := fun _ _ _ _ => unit rfl rfl
theorem lineRead : ∀ x0 x1, Statement (.lineRead x0 x1) := fun _ _ => unit rfl rfl
theorem mcpgcmdPacked : ∀ x0 x1 x2, Statement (.mcpgcmdPacked x0 x1 x2) := fun _ _ _ => unit rfl rfl
theorem mcpgcmdFixed : ∀ x0 x1 x2 x3, Statement (.mcpgcmdFixed x0 x1 x2 x3) := fun _ _ _ _ => unit rfl rfl
theorem mcpgcmdUnbacked : ∀ x0 x1 x2, Statement (.mcpgcmdUnbacked x0 x1 x2) := fun _ _ _ => unit rfl rfl
theorem mcpgcmdReserved : ∀ x0 x1 x2, Statement (.mcpgcmdReserved x0 x1 x2) := fun _ _ _ => unit rfl rfl
theorem mccrd : ∀ x0 x1, Statement (.mccrd x0 x1) := fun _ _ => unit rfl rfl
theorem mcerrlogPop : ∀ x0, Statement (.mcerrlogPop x0) := fun _ => unit rfl rfl
theorem mcresvWrite : ∀ x0 x1 x2, Statement (.mcresvWrite x0 x1 x2) := fun _ _ _ => unit rfl rfl
theorem fwRegisterWrite : ∀ x0 x1 x2, Statement (.fwRegisterWrite x0 x1 x2) := fun _ _ _ => unit rfl rfl
theorem nvmeCompletion : ∀ x0 x1 x2 x3, Statement (.nvmeCompletion x0 x1 x2 x3) := fun _ _ _ _ => unit rfl rfl
theorem commandAccept : ∀ x0 x1, Statement (.commandAccept x0 x1) := fun _ _ => unit rfl rfl
theorem commandLanded : ∀ x0 x1, Statement (.commandLanded x0 x1) := fun _ _ => unit rfl rfl
theorem commandFailed : ∀ x0 x1 x2 x3, Statement (.commandFailed x0 x1 x2 x3) := fun _ _ _ _ => unit rfl rfl
theorem publishInstant : ∀ x0, Statement (.publishInstant x0) := fun _ => unit rfl rfl
theorem mmaStep : ∀ x0 x1, Statement (.mmaStep x0 x1) := fun _ _ => unit rfl rfl
theorem arrayEntryExecute : ∀ x0, Statement (.arrayEntryExecute x0) := fun _ => unit rfl rfl
theorem accownWrite : ∀ x0 x1 x2, Statement (.accownWrite x0 x1 x2) := fun _ _ _ => unit rfl rfl
theorem mgstrWrite : ∀ x0 x1, Statement (.mgstrWrite x0 x1) := fun _ _ => unit rfl rfl
theorem psctlRun : ∀ x0, Statement (.psctlRun x0) := fun _ => unit rfl rfl
theorem psctlStop : ∀ x0, Statement (.psctlStop x0) := fun _ => unit rfl rfl
theorem producerLoadWrite : ∀ x0 x1 x2, Statement (.producerLoadWrite x0 x1 x2) := fun _ _ _ => unit rfl rfl
theorem cmbctlStop : Statement .cmbctlStop := unit rfl rfl
theorem cmbctlResume : Statement .cmbctlResume := unit rfl rfl
theorem cmbMethodWrite : ∀ x0 x1, Statement (.cmbMethodWrite x0 x1) := fun _ _ => unit rfl rfl
theorem dlConfigWrite : ∀ x0 x1 x2, Statement (.dlConfigWrite x0 x1 x2) := fun _ _ _ => unit rfl rfl
theorem dldropRead : ∀ x0, Statement (.dldropRead x0) := fun _ => unit rfl rfl
theorem launchReady : ∀ x0, Statement (.launchReady x0) := fun _ => unit rfl rfl
theorem starvationBound : ∀ x0, Statement (.starvationBound x0) := fun _ => unit rfl rfl
theorem schctxRun : ∀ x0, Statement (.schctxRun x0) := fun _ => unit rfl rfl
theorem schctxStop : ∀ x0, Statement (.schctxStop x0) := fun _ => unit rfl rfl
theorem schboundWrite : ∀ x0, Statement (.schboundWrite x0) := fun _ => unit rfl rfl
theorem gangSave : ∀ x0, Statement (.gangSave x0) := fun _ => unit rfl rfl
theorem gangResume : ∀ x0, Statement (.gangResume x0) := fun _ => unit rfl rfl
theorem quantumEnd : ∀ x0, Statement (.quantumEnd x0) := fun _ => unit rfl rfl
theorem periodEnd : ∀ x0, Statement (.periodEnd x0) := fun _ => unit rfl rfl
theorem periodAdvance : ∀ x0, Statement (.periodAdvance x0) := fun _ => unit rfl rfl
theorem syscPost : ∀ x0 x1, Statement (.syscPost x0 x1) := fun _ _ => unit rfl rfl
theorem syscReply : ∀ x0 x1 x2 x3, Statement (.syscReply x0 x1 x2 x3) := fun _ _ _ _ => unit rfl rfl
theorem freezeRecordAppend : Statement .freezeRecordAppend := unit rfl rfl
theorem frzcmdThaw : ∀ x0, Statement (.frzcmdThaw x0) := fun _ => unit rfl rfl
theorem frzcmdKill : ∀ x0, Statement (.frzcmdKill x0) := fun _ => unit rfl rfl
theorem frzcmdHalt : ∀ x0, Statement (.frzcmdHalt x0) := fun _ => unit rfl rfl
theorem taskHandout : ∀ x0, Statement (.taskHandout x0) := fun _ => unit rfl rfl
theorem taskIrrevocable : ∀ x0, Statement (.taskIrrevocable x0) := fun _ => unit rfl rfl
theorem resumeRecordAppend : ∀ x0, Statement (.resumeRecordAppend x0) := fun _ => unit rfl rfl
theorem catctlStop : Statement .catctlStop := unit rfl rfl
theorem catctlResume : Statement .catctlResume := unit rfl rfl
theorem packetArrival : ∀ x0 x1 x2, Statement (.packetArrival x0 x1 x2) := fun _ _ _ => unit rfl rfl
theorem packetForward : ∀ x0, Statement (.packetForward x0) := fun _ => unit rfl rfl
theorem orderedDelivery : Statement .orderedDelivery := unit rfl rfl
theorem remoteAccess : ∀ x0, Statement (.remoteAccess x0) := fun _ => unit rfl rfl
theorem netReply : ∀ x0, Statement (.netReply x0) := fun _ => unit rfl rfl
theorem heldPush : ∀ x0, Statement (.heldPush x0) := fun _ => unit rfl rfl
theorem beacon : ∀ x0, Statement (.beacon x0) := fun _ => unit rfl rfl
theorem watermarkStall : ∀ x0, Statement (.watermarkStall x0) := fun _ => unit rfl rfl
theorem klresume : ∀ x0, Statement (.klresume x0) := fun _ => unit rfl rfl
theorem klportEnable : ∀ x0 x1, Statement (.klportEnable x0 x1) := fun _ _ => unit rfl rfl
theorem podset : ∀ x0, Statement (.podset x0) := fun _ => unit rfl rfl
theorem ptpEventMessage : ∀ x0 x1, Statement (.ptpEventMessage x0 x1) := fun _ _ => unit rfl rfl
theorem ethernetFrame : ∀ x0 x1 x2, Statement (.ethernetFrame x0 x1 x2) := fun _ _ _ => unit rfl rfl
theorem powerOnReset : ∀ x0 x1 x2, Statement (.powerOnReset x0 x1 x2) := fun _ _ _ => unit rfl rfl
theorem bootWatchdog : Statement .bootWatchdog := unit rfl rfl
theorem bootstatWrite : ∀ x0, Statement (.bootstatWrite x0) := fun _ => unit rfl rfl
theorem partclWrite : ∀ x0 x1, Statement (.partclWrite x0 x1) := fun _ _ => unit rfl rfl
theorem pwrlimWrite : ∀ x0, Statement (.pwrlimWrite x0) := fun _ => unit rfl rfl
theorem thermalTrip : ∀ x0, Statement (.thermalTrip x0) := fun _ => unit rfl rfl
theorem marginReplan : ∀ x0, Statement (.marginReplan x0) := fun _ => unit rfl rfl
theorem vddarrWrite : ∀ x0 x1, Statement (.vddarrWrite x0 x1) := fun _ _ => unit rfl rfl
theorem counterSelectWrite : ∀ x0 x1 x2, Statement (.counterSelectWrite x0 x1 x2) := fun _ _ _ => unit rfl rfl
theorem registerWrite : ∀ x0 x1, Statement (.registerWrite x0 x1) := fun _ _ => unit rfl rfl
theorem hostBarAccess : ∀ x0, Statement (.hostBarAccess x0) := fun _ => unit rfl rfl
theorem powerThermalThrottle : ∀ x0 x1, Statement (.powerThermalThrottle x0 x1) := fun _ _ => unit rfl rfl

end Sys2Proof.Laws.RoundTrip
end

