-- ==== Sys2Proof/Safety.lean ====
section
/-! DEFINITION. What counts as a safe run: the invariants of the machine, that a step answers, and the conditions under
which an instruction of a wave executes undisturbed, in the terms that statements use. -/

namespace Sys2Proof.Machine

/-- The stores of a core keep their canonical form: scratchpad, slice, shelves, accumulator pairs. -/
def Core.storesWf (c : Core) : Bool :=
  c.scratch.wf && c.stackMem.wf && c.codebook.wf && c.rotation.wf && SMap.wf (fun _ => 0) c.acc

/-- The canonical form of what other statements ask it of: line space, the stores of the cores and their accumulators, the flash
and the message memories of the functions, the registers, deficits, task table, cluster TLBs and page states. -/
def State.memoryWf (s : State) : Bool :=
  s.mem.wf && s.cores.toList.all Core.storesWf && s.device.flash.wf && s.device.functions.all (·.message.wf)
    && SMap.wf regReset s.regs && SMap.wf (fun _ => 0) s.deficits && SMap.wf (fun _ => TaskEntry.empty) s.tasks
    && SMap.wf (fun _ => []) s.clusterTlbs && s.controllers.toList.all fun c => SMap.wf (fun _ => PageState.reset) c.pages

/-- Program counters are multiples of 4 below 2^55 (R260). -/
def Wave.pcsOk (w : Wave) : Bool := w.paths.all fun p => p.pc % 4 == 0 && decide (p.pc < 2 ^ 55)

/-- The step answers with a next state. -/
def State.goes (s : State) : Bool :=
  match step s with
  | .next _ => true
  | _ => false

/-! ## An instruction that executes undisturbed -/

/-- The path executes: the state names it, and its instruction starts from its checks (R60). -/
structure State.Runs (s : State) (w : Wave) (p : Path) : Prop where
  cursor : s.cursor? = some { w := w, p := p }
  starts : p.stage = .none

/-- The place of the instruction is no switch point and delivers no late cancellation: no first instruction of a handler,
no instruction after TRAPRET, no join (R55, R329). -/
def Path.calm (p : Path) : Bool := !p.swNext && p.wj != some p.pc && !p.late

/-- A field that its card accepts, with no invalid latch and no pending register (R43, R46, R53, R54, R60). -/
def Field.free (f : Field) (w : Wave) (p : Path) : Bool :=
  f.ok w && !f.stale p && !(f.regs.any fun r => p.pending.contains r)

/-- Fields that are all free. -/
def allFree (l : List Field) (w : Wave) (p : Path) : Bool := l.all fun f => f.free w p

/-- No source that must be uniform is streamed (R30). -/
def noneStreamed (l : List Field) (p : Path) : Bool := !(l.any fun f => f.streamed p)

/-- No report waits for the wave: none of its engine commands and COMBs, no missed promise that another report went
before, no race of its workgroup, no cancellation of its task (R329). -/
def State.quiet (s : State) (w : Wave) : Bool :=
  w.reports.isEmpty && w.missed.isNone && (s.takeRace? w).isNone && (s.cancelNow? w).isNone

/-- An instruction that is no switch point is ready: its path executes, its fields are free, and no source that must be
uniform is streamed (R30, R54, R60). -/
structure State.Ready (s : State) (w : Wave) (p : Path) (fields uniform : List Field) : Prop where
  runs : s.Runs w p
  calm : p.calm = true
  free : allFree fields w p = true
  plain : noneStreamed uniform p = true

/-- A wave that is not asked to stop, and whose task has not outgrown its version (R327, R331). -/
def Wave.undisturbed (w : Wave) : Bool := !w.stopReq && !w.outgrown

/-- Step 4 of the period has come to the wave, where its launch is deterministic (R306, R312). -/
def Wave.mayAct (w : Wave) : Bool := match w.det with | some d => d.atEnd | none => true

/-- The pipe stays with the path at a switch point: no other path goes before it, or the switch is behind it (R31). -/
def State.keepsPipe (s : State) (w : Wave) (p : Path) : Bool := p.swDone || (s.rival? w p).isNone

/-- The wave at a switch point: the latches of its executing path are invalid (R53). -/
def Wave.switched (w : Wave) (p : Path) : Wave := w.modPath p.tag fun _ => p.atSwitch

/-- The state behind a switch point (R31, R53, R423). -/
def State.switched (s : State) (w : Wave) (p : Path) : State :=
  let s' := s.modWave w.id fun _ => w.switched p
  if p.swDone then s' else s'.count (.core w.core) 0x11 1

/-- An instruction that delivers reports, or that a period or a version may hold, is ready: no report waits, and its wave
may act (R306, R312, R327, R329, R331). -/
structure State.ReadyClear (s : State) (w : Wave) (p : Path) (fields uniform : List Field) : Prop
    extends s.Ready w p fields uniform where
  quiet : s.quiet w = true
  undisturbed : w.undisturbed = true
  mayAct : w.mayAct = true

/-- An instruction that is a switch point is ready, and its path keeps the pipe (R31, R55). -/
structure State.ReadySwitch (s : State) (w : Wave) (p : Path) (fields uniform : List Field) : Prop where
  runs : s.Runs w p
  free : allFree fields w p.atSwitch = true
  plain : noneStreamed uniform p.atSwitch = true
  quiet : s.quiet w = true
  undisturbed : w.undisturbed = true
  mayAct : w.mayAct = true
  keeps : s.keepsPipe w p = true

/-! ## What an instruction leaves -/

/-- The state differs in one wave only, which has become `w'`. -/
structure State.OnlyWave (s t : State) (id : Nat) (w' : Wave) : Prop where
  wave : t.wave? id = some w'
  others : ∀ k, k ≠ id → t.wave? k = s.wave? k
  rest : { t with waves := s.waves } = s

/-- The result that register v[r] receives of an instruction with destination d. -/
def Operand.vecResult? (d : Operand) (rs : List Lanes) (r : Fin 128) : Option Lanes :=
  match d with
  | .v k => if k.val ≤ r.val then rs[r.val - k.val]? else none
  | _ => none

/-- The result that register s[r] receives. -/
def Operand.scaResult? (d : Operand) (rs : List Lanes) (r : Fin 64) : Option Lanes :=
  match d with
  | .s k => if k.val ≤ r.val then rs[r.val - k.val]? else none
  | _ => none

/-- The result that predicate p[k] receives. -/
def Operand.predResult? (d : Operand) (rs : List Lanes) (k : Fin 8) : Option Lanes :=
  match d with
  | .p j => if j = k then rs.head? else none
  | _ => none

/-- The wave after an instruction with the results `rs` for `d`: the destination written in the lanes of EXEC, a scalar
once, a predicate bit by bit (R45, R231); every other register, predicate and path as before; the results in the latches,
the first one first (R51); the program counter 4 further on (R261), the mode, the mask and the pending registers of the
path kept; one more instruction retired (R300). -/
structure Wave.Delivered (w w' : Wave) (p : Path) (nw : Bool) (d : Operand) (streamed : Bool) (exec : Mask)
    (rs : List Lanes) : Prop where
  vec : ∀ (r : Fin 128) (i : Fin 32), w'.v[r][i] =
    match (if nw then none else Operand.vecResult? d rs r) with
    | some x => if inMask exec i then x[i] else w.v[r][i]
    | none => w.v[r][i]
  sca : ∀ r : Fin 64, w'.s[r] =
    match (if nw then none else Operand.scaResult? d rs r) with
    | some x => x[0]
    | none => w.s[r]
  pred : ∀ (k : Fin 8) (i : Fin 32), (w'.p[k]).getLsbD i.val =
    match (if nw then none else Operand.predResult? d rs k) with
    | some x => if inMask exec i then (x[i]).getLsbD i.val else (w.p[k]).getLsbD i.val
    | none => (w.p[k]).getLsbD i.val
  path : w'.path? p.tag = some { p.retire (p.pc + 4) with
    latches := (rs.map fun r => if streamed then streamEntry exec r else uniformEntry r[0]).foldl pushLatch p.latches }
  paths : ∀ t, t ≠ p.tag → w'.path? t = w.path? t
  clock : w'.clock = w.clock + 1
  rest : { w' with v := w.v, s := w.s, p := w.p, paths := w.paths, clock := w.clock, heldCycles := w.heldCycles,
                   det := w.det } = w

/-- The instruction completes with the results `rs` for d, and changes nothing but its own wave. -/
def State.Answers (s : State) (w : Wave) (p : Path) (i : Instr) (nw : Bool) (d : Operand) (streamed : Bool)
    (rs : List Lanes) : Prop :=
  ∃ t w', exec i s = .next t ∧ s.OnlyWave t w.id w' ∧ w.Delivered w' p nw d streamed (execMask w p) rs

/-- A two-source instruction of the types `types` completes with `f` of its operands in every lane, or once where it is
uniform; `dsrc` says that d is a source too (R30, R230 to R232). -/
def TwoSourceRule (mk : Bool → Operand → Operand → Operand → Instr) (types : ElemType → Bool) (dsrc : Bool)
    (f : Mode → DWord → DWord → DWord → DWord) : Prop :=
  ∀ (nw : Bool) (d a b : Operand) (s : State) (w : Wave) (p : Path),
    let wide := isWide p.mode.type
    let dst := Field.dstOf wide d
    let srcs := [Field.srcOf wide a, Field.srcOf wide b]
    let st := resultStreamed nw dsrc dst srcs p
    types p.mode.type = true → s.Ready w p (resultFields nw dsrc dst srcs) (resultUniform nw dst srcs) →
      s.Answers w p (mk nw d a b) nw d st (resultWords wide st fun i =>
        f p.mode (srcOf wide w p a i) (srcOf wide w p b i) (if dsrc then srcOf wide w p d i else 0))

/-- A one-source instruction (R240, R253). -/
def OneSourceRule (mk : Bool → Operand → Operand → Instr) (types : ElemType → Bool) (f : Mode → DWord → DWord) : Prop :=
  ∀ (nw : Bool) (d a : Operand) (s : State) (w : Wave) (p : Path),
    let wide := isWide p.mode.type
    let dst := Field.dstOf wide d
    let srcs := [Field.srcOf wide a]
    let st := resultStreamed nw false dst srcs p
    types p.mode.type = true → s.Ready w p (resultFields nw false dst srcs) (resultUniform nw dst srcs) →
      s.Answers w p (mk nw d a) nw d st (resultWords wide st fun i => f p.mode (srcOf wide w p a i))

/-- An error-free instruction (R252): fp32, an even d that receives the result and its error. -/
def ErrorFreeRule (mk : Bool → Operand → Operand → Operand → Instr) (f : DWord → DWord → DWord) : Prop :=
  ∀ (nw : Bool) (d a b : Operand) (s : State) (w : Wave) (p : Path),
    let dst := Field.group isReg 2 2 d
    let srcs := [Field.src a, Field.src b]
    let st := resultStreamed nw false dst srcs p
    p.mode.type = .fp32 → s.Ready w p (resultFields nw false dst srcs) (resultUniform nw dst srcs) →
      s.Answers w p (mk nw d a b) nw d st (resultWords true st fun i => f (srcOf false w p a i) (srcOf false w p b i))

/-- A PACK function (R259): every type; d a vector or scalar register, a source too where the function inserts. -/
def PackRule (mk : Bool → Operand → Operand → Instr) (dsrc : Bool) (f : DWord → DWord → DWord) : Prop :=
  ∀ (nw : Bool) (d a : Operand) (s : State) (w : Wave) (p : Path),
    let dst := Field.group isReg 1 1 d
    let srcs := [Field.src a]
    let st := resultStreamed nw dsrc dst srcs p
    s.Ready w p (resultFields nw dsrc dst srcs) (resultUniform nw dst srcs) →
      s.Answers w p (mk nw d a) nw d st
        (resultWords false st fun i => f (srcOf false w p a i) (if dsrc then srcOf false w p d i else 0))

/-- An instruction across lanes with result `g` for a lane completes; a scalar destination enters as a uniform value
(R241). -/
def CrossRule (s : State) (w : Wave) (p : Path) (i : Instr) (nw pair : Bool) (dst : Field) (srcs uniform : List Field)
    (g : Fin 32 → DWord) : Prop :=
  let entry := resultStreamed nw false dst srcs p && (nw || !isSca dst.op)
  s.Ready w p (resultFields nw false dst srcs) uniform →
    s.Answers w p i nw dst.op entry (resultWords pair entry g)

/-- A shuffle (R242): lane `src i n` of a, the lane's own value where that lane is out of range or inactive. -/
def ShuffleRule (mk : Bool → Operand → Operand → Operand → Instr) (src : Nat → Nat → Option Nat) : Prop :=
  ∀ (nw : Bool) (d a b : Operand) (s : State) (w : Wave) (p : Path),
    let wide := isWide p.mode.type
    CrossRule s w p (mk nw d a b) nw wide (if wide then .group isVec 2 2 d else .group isVec 1 1 d)
      [.srcOf wide a, .src b] [] fun i =>
        let n := (srcLane w p b i).toNat
        let j := if n ≥ 32 then i.val else (src i.val n).getD i.val
        if h : j < 32 then (if inMask (execMask w p) ⟨j, h⟩ then srcOf wide w p a ⟨j, h⟩ else srcOf wide w p a i)
        else srcOf wide w p a i

/-- A VOTE function (R243): 1 or 0 by a test of the lane values in EXEC; a predicate gets the result in every lane of
EXEC. -/
def VoteRule (mk : Bool → Operand → Operand → Instr) (f : List DWord → Bool) : Prop :=
  ∀ (nw : Bool) (d a : Operand) (s : State) (w : Wave) (p : Path),
    let src := Field.srcOf (isWide p.mode.type) a
    let dst := Field.dstOf false d
    let r := f ((lanesIn (execMask w p)).map fun i => srcOf (isWide p.mode.type) w p a i)
    let entry := resultStreamed nw false dst [src] p && (nw || !isSca d)
    s.Ready w p (resultFields nw false dst [src]) [] →
      ∃ t w', exec (mk nw d a) s = .next t ∧ s.OnlyWave t w.id w'
        ∧ Wave.Delivered w { w' with p := if isPred d then w.p else w'.p } p (nw || isPred d) d entry (execMask w p)
            [splat (if r then 1 else 0)]
        ∧ ∀ (k : Fin 8) (i : Fin 32), (w'.p[k]).getLsbD i.val =
            if nw = false ∧ d = .p k ∧ inMask (execMask w p) i = true then r else (w.p[k]).getLsbD i.val

/-- REDUCE (R244): the fixed tree over the lanes in EXEC, the identity where there are none. -/
def ReduceRule (mk : Bool → Operand → Operand → Instr) (types : ElemType → Bool)
    (f : Mode → DWord → DWord → DWord → DWord) (ident : Mode → DWord) : Prop :=
  ∀ (nw : Bool) (d a : Operand) (s : State) (w : Wave) (p : Path),
    let wide := isWide p.mode.type
    types p.mode.type = true →
      CrossRule s w p (mk nw d a) nw wide (if wide then .group isReg 2 2 d else .group isReg 1 1 d) [.srcOf wide a] []
        fun _ => (treeReduce (fun x y => f p.mode x y 0) (execVals w p a)).getD (ident p.mode)

/-- SCAN (R245): the running total in lane order, with the lane's own value or without it. -/
def ScanRule (mk : Bool → Bool → Operand → Operand → Instr) (types : ElemType → Bool)
    (f : Mode → DWord → DWord → DWord → DWord) (ident : Mode → DWord) : Prop :=
  ∀ (nw excl : Bool) (d a : Operand) (s : State) (w : Wave) (p : Path),
    let wide := isWide p.mode.type
    types p.mode.type = true →
      CrossRule s w p (mk nw excl d a) nw wide (if wide then .group isVec 2 2 d else .group isVec 1 1 d) [.srcOf wide a] []
        fun i => (scanUpTo (fun x y => f p.mode x y 0)
          ((execVals w p a).take (if excl then i.val else i.val + 1))).getD (ident p.mode)

/-! ## What an instruction without a result leaves -/

/-- The state differs in one wave, in event counters (R422) and in who holds a pipe (R31). -/
structure State.OnlyWaveSwitched (s t : State) (id : Nat) (w' : Wave) : Prop where
  wave : t.wave? id = some w'
  others : ∀ k, k ≠ id → t.wave? k = s.wave? k
  rest : { t with waves := s.waves, regs := s.regs, holders := s.holders } = s

/-- The wave after an instruction that writes no register: its executing path has become `p'`, every other path stands
where it stood, one more instruction has retired, and registers, stacks and everything else of the wave are as before. -/
structure Wave.Went (w w' : Wave) (p' : Path) : Prop where
  path : w'.path? p'.tag = some p'
  paths : ∀ t, t ≠ p'.tag → w'.path? t = w.path? t
  clock : w'.clock = w.clock + 1
  rest : { w' with paths := w.paths, clock := w.clock, heldCycles := w.heldCycles, det := w.det } = w

/-- Nothing stops the wave at a taken backward branch: it is not asked to stop, and it has not held its pipe for 4,096
cycles (R38, R273, R331). -/
def Wave.unhurried (w : Wave) : Bool := !w.stopReq && decide (w.heldCycles + 1 < 4096)

/-- The handler of the wave is entered at once by a trap: a launched wave outside handler state whose context has a
handler, without a task, and whose deferred results have all come (R321, R322). -/
structure State.TrapsPlainly (s : State) (w : Wave) : Prop where
  launched : w.kind = .launched
  outside : w.handler = none
  base : s.regBit (Reg.trapBase w.asid.toNat) 63 = true
  noTask : w.task = none
  drained : w.inflight.all Inflight.settled = true

/-- The wave after a trap outside task mode (R321, R323): in handler state at the handler's address with M = 0x0040 and
invalid latches, jp and wj invalid; the pending set empty on every path and in every open split; the trap CSRs hold the record;
everything else as before. -/
structure State.Entered (s : State) (w w' : Wave) (p : Path) (word : Word) (info : TrapInfo) : Prop where
  path : w'.path? p.tag =
    some { p with pc := bitsOf (s.reg (Reg.trapBase w.asid.toNat)).toNat 54 2 * 4, mode := Mode.initial,
                  latches := Vector.replicate 4 Latch.empty, pending := [], jp := none, wj := none, status := .ready,
                  stage := .none, swDone := false, swNext := true, late := false }
  paths : ∀ t, t ≠ p.tag → w'.path? t = (w.path? t).map fun q => { q with pending := [] }
  splits : w'.splits = w.splits.map fun (e : Split) => { e with pending := [], armPending := [] }
  handler : w'.handler = some (p.tag, w.splits.length)
  cause : w'.csr.cause = BitVec.ofNat 32 (info.kind.toNat * 256 + info.code.code.toNat)
  pc : w'.csr.pc = BitVec.ofNat 55 p.pc ∧ w'.csr.xpc = BitVec.ofNat 55 p.pc
  word : w'.csr.word = word
  mask : w'.csr.mask = info.mask ∧ w'.csr.path = p.mask
  mode : w'.csr.mode = p.mode
  values : w'.csr.info = info.info ∧ w'.csr.addr = info.addr ∧ w'.csr.aux = info.aux
  task : w'.csr.task = BitVec.ofNat 32 0xFFFFFFFF
  faulted : w'.csr.faulted = w.faultedList
  tick : w'.csr.tick = BitVec.ofNat 64 s.tick
  rest : { w' with paths := w.paths, splits := w.splits, csr := w.csr, handler := w.handler, inflight := w.inflight, det := w.det } = w

/-! ## Accesses -/

/-- A wave of a launched kernel outside deterministic mode and task mode, whose accesses nothing holds (R152, R155, R186,
R309). -/
structure Wave.Plain (w : Wave) : Prop where
  launched : w.kind = .launched
  notDet : w.det = none
  noVersion : w.versioned = false
  noHolds : w.holds = []
  fits : w.outgrown = false

/-- The byte that a core has written last and that no home holds yet: dirty in its L1, or on its way (R142, R143). -/
def State.coreByte? (s : State) (c : Fin 256) (a : Nat) : Option Byte :=
  let x := (s.core c).sector (a / 32)
  if x.dirty && x.mask.getLsbD (a % 32) then some (byteAt x.bytes (a % 32))
  else s.messages.reverse.findSome? fun m =>
    match m.op with
    | .sector pa bytes mask _ =>
      if m.req.core = c ∧ pa / 32 = a / 32 ∧ mask.getLsbD (a % 32) = true then some (byteAt bytes (a % 32)) else none
    | _ => none

/-- Every line stands once in the L1 and its lent capacity (R140, R159). -/
def Core.distinct (c : Core) : Prop := ((c.l1 ++ c.lent).map (·.line)).Nodup

/-- One register has a new value, and nothing else has changed. -/
structure State.SetsReg (s t : State) (pa : Nat) (x : DWord) : Prop where
  value : t.reg pa = x
  others : ∀ q, q ≠ pa → t.reg q = s.reg q
  rest : { t with regs := s.regs } = s

/-- A packet that asks for something at its destination. -/
def asksRemote : PacketKind → Bool
  | .put .. | .get .. | .send .. | .engineWrite .. | .engineRead .. => true
  | .reply .. | .engineData .. | .ack _ | .beacon => false

/-- The last byte that a list of writes gives an address. -/
def lastByte? (ws : List (Nat × Byte)) (a : Nat) : Option Byte := (ws.reverse.find? fun x => x.1 == a).map (·.2)

/-- The bytes of the lanes of a store, in their order. -/
def laneBytes (l : List (Fin 32 × Nat × List (Nat × List Byte))) : List (Nat × Byte) :=
  l.flatMap fun x => x.2.2.flatMap fun y => y.2.zipIdx.map fun (b, k) => (y.1 + k, b)

/-- A unit of the core can read and write these lines at their homes now: its core holds no dirty bytes of them, none are on
their way, and the homes serve them (R118, R133, R141). -/
def State.homesFree (s : State) (c : Fin 256) (lines : List Nat) : Bool :=
  !(lines.any (s.core c).dirtyLine) && !(lines.any (s.lineComing c)) && s.servesAll lines

/-- The state in which a unit of the core works on these lines: the core's copies are gone, and the homes hold the lines
(R115, R141). -/
def State.atHome (s : State) (c : Fin 256) (lines : List Nat) (asid : BitVec 8) : State :=
  (s.dropCopies c lines).readLines lines asid 0

/-- The lines that the lanes of a store write have no direct access of the wave outstanding (R168). -/
def State.linesFree (s : State) (w : Wave) (l : List (Fin 32 × Nat × List (Nat × List Byte))) : Bool :=
  l.all fun x => x.2.2.all fun y => !s.lineBusy w.id (y.1 / 128)

/-- An access changed what waves, caches and messages hold, and nothing at any home: every byte there reads as before. -/
structure State.AccessFrame (s t : State) (id : Nat) : Prop where
  others : ∀ k, k ≠ id → t.wave? k = s.wave? k
  rest : { t with waves := s.waves, cores := s.cores, messages := s.messages, nextId := s.nextId, regs := s.regs } = s
  homes : ∀ a, t.homeByte a = s.homeByte a
  cores : ∀ c, { t.core c with l1 := (s.core c).l1, lent := (s.core c).lent, fifo := (s.core c).fifo } = s.core c

/-- A deferred result has the value of a lane: the low word in the first destination, the high word in the second
(R54, R230). -/
def Inflight.has (f : Inflight) (i : Fin 32) (v : DWord) : Prop :=
  f.vals[0]?.map (·[i]) = some (lo32 v) ∧ (f.dst.length = 2 → f.vals[1]?.map (·[i]) = some (hi32 v))

/-- The wave after an instruction with a deferred result: the destinations pending, no register written (R54). -/
structure Wave.Issued (w w' : Wave) (p : Path) (f : Inflight) : Prop where
  inflight : w'.inflight = w.inflight ++ [f]
  path : w'.path? p.tag =
    some { p.retire (p.pc + 4) with pending := p.pending ++ f.dst.filter fun r => !p.pending.contains r }
  paths : ∀ t, t ≠ p.tag → w'.path? t = w.path? t
  clock : w'.clock = w.clock + 1
  rest : { w' with paths := w.paths, inflight := w.inflight, clock := w.clock, heldCycles := w.heldCycles,
                   holds := w.holds, det := w.det } = w

/-- The deferred result of a load before any value: of the lanes of `exec`, for the destination d. -/
def Inflight.ofLoad (s : State) (f : Inflight) (k : DeferKind) (wide uni : Bool) (exec : Mask) (d : Operand)
    (p : Path) : Prop :=
  f.id = s.nextId ∧ f.kind = k ∧ f.dst = dstRegs wide d ∧ f.mask = exec ∧ f.uniform = uni ∧ f.failed = [] ∧ f.pc = p.pc

/-- A load at the L1 (R142, R151, R152), behind the walks that it needs: a checked lane that the L1 serves has its value, any other
waits for the fill that its home has been asked for. No sector changes but one that held another version's bytes. -/
def State.LoadsL1 (s : State) (w : Wave) (p : Path) (i : Instr) (k : DeferKind) (d a b : Operand) (n : Nat)
    (holds : List Hold) : Prop :=
  let wide := isWide p.mode.type
  let uni := isSca d
  let exec := if uni then p.mask else execMask w p
  ∀ l, s.loadLanes w p uni exec n a b = .ok l → (l.all fun x => !s.lineBusy w.id (x.2.2 / 128)) = true →
    let u := State.walked { s with nextId := s.nextId + 1 } w (l.map (·.2.1))
    let xs := u.laneWaits w p.mode.type n l
    ∃ t w' f, Sys2Proof.Machine.exec i s = .next t ∧ t.wave? w.id = some w' ∧ w.Issued w' p f ∧ w'.holds = holds ∧ u.AccessFrame t w.id
      ∧ (∀ c sec, (t.core c).sector sec = (u.core c).sector sec ∨ c = w.core ∧ ((u.core c).sector sec).visible none = false)
      ∧ f.ofLoad s k wide uni exec d p
      ∧ f.waiting = xs.filter (fun x => (u.l1Hit? w x).isNone)
      ∧ (∀ x ∈ xs, ∀ v, u.l1Hit? w x = some v → f.has x.lane v)
      ∧ (∀ x ∈ f.waiting, ∃ m ∈ t.messages, m.op = .fill (x.pa / 32) (some f.id)
          ∧ m.home = homeOf (32 * (x.pa / 32)) ∧ m.req.core = w.core ∧ m.req.wave = w.id)

/-- The addresses of the bytes that the lanes of a store write. -/
def laneEas (l : List (Fin 32 × Nat × List (Nat × List Byte))) : List Nat := l.flatMap fun x => x.2.2.map fun _ => x.2.1

/-- A store at the L1 (R142, R152), behind the walks that it needs: the bytes of its lanes in lane order, the last at each address, and every other byte
that the core has written as before. -/
def State.StoresL1 (s : State) (w : Wave) (p : Path) (i : Instr) (l : List (Fin 32 × Nat × List (Nat × List Byte))) :
    Prop :=
  s.linesFree w l = true →
    ∃ t w', exec i s = .next t ∧ t.wave? w.id = some w' ∧ w.Went w' (p.retire (p.pc + 4))
      ∧ (s.walked w (laneEas l)).AccessFrame t w.id
      ∧ ((s.core w.core).distinct → (t.core w.core).distinct
        ∧ ∀ c a, t.coreByte? c a = (if c = w.core then lastByte? (laneBytes l) a else none).or (s.coreByte? c a))

/-- What an atomic instruction leaves (R124 to R129): one request for every lane that acts, in a release at the scope of M;
with nw = 0 a deferred result whose reply is an acquire. A failing check traps; a version holds the operations that it can
hold. -/
def AtomicRule (i : Instr) (op : AtomicOp) (nw : Bool) (d a b : Operand) (s : State) (w : Wave) (p : Path) : Prop :=
  let wide := isWide p.mode.type
  let cas := op == .cas
  let uni := atomicUni cas nw wide d a b p
  let lanes := if uni then p.mask else execMask w p
  let cost := if uni then 1 else streamCost lanes
  let checks := collectLanes ((actLanes uni lanes).map fun j =>
    (j, pairEa w p a j, s.place w (pairEa w p a j) (if wide then 8 else 4) .rw)) (if uni then some p.mask else none)
  let walk := fun (l : List (Fin 32 × Nat × Nat)) => (s.settleHolds w.id).walked w (l.map (·.2.1))
  let reqs := fun (l : List (Fin 32 × Nat × Nat)) =>
    l.map fun x => atomicReq op w p d b x.1 x.2.1 x.2.2 (if nw then none else some (walk l).nextId)
  w.kind = .launched → atomicType op p.mode.type = true →
  s.ReadyClear w p (atomicFields cas nw wide d a b) (atomicUniform cas nw wide d a b) →
  (w.versioned = false → ∀ info, checks = .error info → exec i s = .next (s.trap w p (wordOf i) info))
  ∧ (w.Plain → ∀ l, checks = .ok l → ∃ t w', exec i s = .next t ∧ t.wave? w.id = some w'
      ∧ { t with waves := (walk l).waves, cores := (walk l).cores, messages := (walk l).messages, nextId := (walk l).nextId,
                 releases := (walk l).releases } = walk l
      ∧ (∀ k, k ≠ w.id → t.wave? k = s.wave? k)
      ∧ ((s.core w.core).distinct → ∀ c q, t.coreByte? c q = s.coreByte? c q)
      ∧ (nw = true → w.Went w' (p.retire (p.pc + 4)))
      ∧ (nw = false → ∃ f, w.Issued w' p f ∧ f.ofLoad (walk l) .atomic wide uni lanes d p ∧ f.acquire = some p.mode.scope
          ∧ ∀ i : Fin 32, inMask f.due i = true ↔ ∃ x ∈ l, x.1 = i)
      ∧ (l = [] → t.releases = s.releases)
      ∧ (l ≠ [] → ∃ r, t.releases = s.releases ++ [r] ∧ r.req.wave = w.id
          ∧ r.act = .store ((reqs l).map fun x => (homeOf x.pa, .atomic x)) ∧ (∀ k ∈ s.directOf w.id, k ∈ r.waits.deps)))
  ∧ (heldAtomic op nw p.mode.type = true → w.holds = [] → ∀ v l, s.versionOf? w = some v → checks = .ok l →
      exec i s = .next ((State.modVersion { walk l with nextId := (walk l).nextId + 1 } v.part v.ver fun (x : Version) =>
        { x with atomics := x.atomics ++ (reqs l).map fun r => (s.requester w r.ea, r) }).advance p cost))

end Sys2Proof.Machine
end

