-- ==== Sys2Proof/Certificates/Slice0/Obligations.lean ====
section
/-! DEFINITION. The statements of the model, for the provers. -/

open Sys2Proof Sys2Proof.Machine

/-! ## Words, steps, the start -/

/-- R40 to R43, R49, R56, R58: the word of every well-formed instruction decodes to that instruction, with every operand at
every value that the encoding admits. -/
def Obligations.EncodeDecode : Prop := ∀ i : Instr, Sys2Proof.Laws.RoundTrip.Statement i

/-- R40 to R43, R47: a word that the decoder accepts stands for a well-formed instruction, and is that instruction's one
word: no bit of it is ignored. -/
def Obligations.DecodeEncode : Prop :=
  ∀ (x : Word) (i : Instr), decodeWord x = .ok i → i.WellFormed = true ∧ encode i = some x

/-- R42, R55, R56, R58: words that the spec writes out. -/
def Obligations.WordsDecode : Prop :=
  decodeWord 0x80018000#32 = .ok (.ld (.v 1) (.s 0) (.v 0))
  ∧ decodeWord 0x21000203#32 = .ok (.add true (.v 0) (.v 2) (.v 3))
  ∧ decodeWord 0x2404C002#32 = .ok (.mul false (.v 4) (.l 0) (.v 2))
  ∧ decodeWord 0x200501C0#32 = .ok (.add false (.v 5) (.v 1) (.l 0))
  ∧ decodeWord 0x4A040312#32 = .ok (.cmp false 1 .lt (.v 3) (.v 4))
  ∧ decodeWord 0x56050612#32 = .ok (.sqrt false (.v 5) (.v 6))
  ∧ decodeWord 0x02000000#32 = .ok .nop ∧ decodeWord 0x18000000#32 = .ok .exit ∧ decodeWord 0x1A000000#32 = .ok .yield

/-- R31, R57, R60, R261, R285: a step runs the decoded instruction: that of the path which holds its pipe, of the combiner
engine's method, of a control core, or a unit's step. What a step adds: the turn is used up, the word's line is fetched, the
issue is counted, time passes, and no path is executing between steps. A word of the launch extension that is none of its
instructions raises the illegal-instruction exception.
Clauses rest on choices of the model: log 1 (DESIGN CHOICE), log 5 (DESIGN CHOICE), log 7 (DESIGN CHOICE), log 77
(PRESUMED), log 130 (DESIGN CHOICE); these clauses are the model's, not the spec's. -/
def Obligations.StepRuns : Prop :=
  ∀ s : State,
    let s0 : State := { s with turns := s.turns.tail }
    (∀ c p w q x, (s.turns = [] ∧ s.focus = (c, p) ∨ s.turns.head? = some (.pipe c p)) → s0.issuer c p = some (w, q) →
      w.haltReq = false → w.atJoin q = false → s0.fetchWaits w q.pc = false → s0.fetch w q.pc = .ok x →
      let t0 := (s0.fetched w q.pc).running w q
      (∀ i, decodeWord x = .ok i → step s = afterStep (match t0.ofWave w (exec i) with
          | .next t => .next (t.countIssue t0 c w.id)
          | r => r))
      ∧ (∀ e, decodeWord x = .error e → step s = afterStep (match t0.ofWave w (exec (.illegal x)) with
          | .next t => .next (t.countIssue t0 c w.id)
          | r => r))
      ∧ (w.det = none → ∀ i, t0.ofWave w (exec i) = exec i t0)
      ∧ (s0.wave? w.id = some w → w.path? q.tag = some q →
          ∃ w', t0.cursor? = some { w := w', p := q } ∧ { w' with heldCycles := w.heldCycles } = w))
    ∧ (∀ i, s.turns.head? = some (.unit i) → step s = afterStep (exec i { s0 with cur := none }))
    ∧ (∀ h w p b x i, s.turns.head? = some (.combiner h) → s0.methodPath? h = some (w, p, b) → w.atJoin p = false →
        b.inBody p.pc = true → w.clock < 4096 → s0.fetch w p.pc = .ok x → decodeWord x = .ok i →
        step s = afterStep (exec i { s0 with cur := some (w.id, p.tag) }))
    ∧ (∀ k, s.turns.head? = some (.control k) → (s.control[k]).held = false →
        (∀ i, decodeCdm (s.control[k]).fetch = some i → step s = afterStep (exec i { s0 with cur := some (k.val, Tag.root) }))
        ∧ (decodeCdm (s.control[k]).fetch = none →
            (cdmReserved (s.control[k]).fetch = true →
              ∃ t, step s = .next t ∧ t.control = s.control.set k { s.control[k] with exception := some 2 } ∧ t.waves = s.waves)
            ∧ (cdmReserved (s.control[k]).fetch = false → step s = .refused .riscvInstruction)))
    ∧ ∀ u t : State, afterStep (.next u) = .next t → t.cur = none ∧ t.tick = u.tick + 1 + Config.tickGap u.freeCtr
        ∧ t.mem = u.mem ∧ t.cores = u.cores ∧ t.homes = u.homes ∧ t.waves = u.waves

/-- R91, R95, R99, R104, R150, R213, R224, R296, R370, R404, R416: the machine after reset, where the spec gives the value.
Clauses rest on choices of the model: log 9 (DESIGN CHOICE), log 10 (DESIGN CHOICE); these clauses are the model's,
not the spec's. -/
def Obligations.ResetState : Prop :=
  let r := State.reset
  r.memoryWf = true ∧ (∀ pa, r.pageState pa = { state := 0, part := 0 } ∧ r.entryOf pa = ConcEntry.zero)
  ∧ (∀ mc : Fin 8, (r.ctl mc).free = 2919235584 ∧ (r.ctl mc).overflow = [] ∧ (r.ctl mc).errlog = []
      ∧ (∀ p, (r.ctl mc).usedBy p = 0) ∧ r.reg (Reg.mcLowWm mc) = 0x1000000)
  ∧ (∀ c : Fin 256, (∀ a, (r.core c).codebook.read a = 0 ∧ (r.core c).rotation.read a = 0) ∧ r.reg (Reg.mg c 0x10) = 4)
  ∧ r.reg Reg.tlbInvStat = 1 ∧ r.reg Reg.schBound = 0x100000 ∧ r.reg Reg.margCad = 36
  ∧ (∀ a : BitVec 8, r.reg (Reg.trapBase a.toNat) = 0 ∧ r.reg (Reg.schCtx a.toNat) = 0 ∧ r.reg (Reg.trRoot a.toNat) = 0)
  ∧ (∀ x, r.task x = TaskEntry.empty) ∧ r.waves = [] ∧ r.launches = [] ∧ r.fabric.podTime = 0 ∧ r.fabric.floor = 0

/-- R16: a wave begins execution with M = 0x0040: that of a launched kernel, of a combiner method, of a producer slot. -/
def Obligations.FreshWave : Prop :=
  let starts := fun (w : Wave) => ∃ p, w.paths = [p] ∧ p.mode.toWord = 0x0040#16 ∧ p.mode.type = .i32 ∧ p.mode.round = .rne
    ∧ p.mode.gen = false ∧ p.mode.sat = false ∧ p.mode.scope = .wg
  (∀ (s : State) x gang gangid stage wg j c u, starts (s.newWave x gang gangid stage wg j c u).1)
  ∧ (∀ (s : State) h reqs obj n header bytes m, ∃ w, (s.startMethod h reqs obj n header bytes m).waves = s.waves ++ [w] ∧ starts w)
  ∧ (∀ (s : State) c, starts (s.producerWave c).1)

/-! ## Lanes -/

/-- R234 to R238, R250: the instructions with two sources complete, with the value of their lane function. -/
def Obligations.TwoSourceCompletes : Prop :=
  TwoSourceRule .add (fun m => intT m || m == .fp32 || m == .pair) false laneAdd
  ∧ TwoSourceRule .sub (fun m => intT m || m == .fp32 || m == .pair) false laneSub
  ∧ TwoSourceRule .mul (fun m => intT m || m == .fp32) false laneMul
  ∧ TwoSourceRule .mulh intT false laneMulh
  ∧ TwoSourceRule .mad (fun m => intT m || m == .fp32) true laneMad
  ∧ TwoSourceRule .min (fun m => intT m || m == .fp32) false laneMin
  ∧ TwoSourceRule .max (fun m => intT m || m == .fp32) false laneMax
  ∧ TwoSourceRule .addmin (fun m => intT m || m == .fp32) true laneAddmin
  ∧ TwoSourceRule .addmax (fun m => intT m || m == .fp32) true laneAddmax
  ∧ TwoSourceRule .and bitsT false laneAnd
  ∧ TwoSourceRule .or bitsT false laneOr
  ∧ TwoSourceRule .xor bitsT false laneXor
  ∧ TwoSourceRule .shl bitsT false laneShl
  ∧ TwoSourceRule .shr bitsT false laneShr
  ∧ TwoSourceRule .sha bitsT false laneSha
  ∧ TwoSourceRule .fshl wordT true laneFshl
  ∧ TwoSourceRule .fshr wordT true laneFshr
  ∧ TwoSourceRule .rol bitsT false laneRol
  ∧ TwoSourceRule .sel bitsT true laneSel
  ∧ TwoSourceRule .bfx wordT false laneBfx
  ∧ TwoSourceRule .bfi wordT true laneBfi
  ∧ TwoSourceRule .div (fun m => m == .fp32) false laneDiv

/-- R240, R253, R255: the instructions with one source complete, with the value of their lane function.
Clauses rest on choices of the model: log 23 (DESIGN CHOICE); these clauses are the model's, not the spec's. -/
def Obligations.OneSourceCompletes : Prop :=
  OneSourceRule .not bitsT laneNot
  ∧ OneSourceRule .neg (fun m => intT m || m == .fp32) laneNeg
  ∧ OneSourceRule .abs (fun m => intT m || m == .fp32) laneAbs
  ∧ OneSourceRule .popc bitsT lanePopc
  ∧ OneSourceRule .clz bitsT laneClz
  ∧ OneSourceRule .ctz bitsT laneCtz
  ∧ OneSourceRule .brev bitsT laneBrev
  ∧ OneSourceRule .rcp (· == .fp32) laneRcp
  ∧ OneSourceRule .rsq (· == .fp32) laneRsq
  ∧ OneSourceRule .sqrt (· == .fp32) laneSqrt
  ∧ OneSourceRule .exp2 (· == .fp32) laneExp2
  ∧ OneSourceRule .log2 (· == .fp32) laneLog2
  ∧ OneSourceRule .sin2pi (· == .fp32) laneSin2pi
  ∧ OneSourceRule .cos2pi (· == .fp32) laneCos2pi
  ∧ OneSourceRule .floor (· == .fp32) laneFloor
  ∧ OneSourceRule .ceil (· == .fp32) laneCeil
  ∧ OneSourceRule .trunc (· == .fp32) laneTrunc
  ∧ OneSourceRule .rint (· == .fp32) laneRint
  ∧ OneSourceRule .frac (· == .fp32) laneFrac
  ∧ OneSourceRule .class (· == .fp32) laneClass

/-- R45, R84, R232, R233, R252, R259: LI, LIH, MOV and the other constants, the error-free instructions, CVT and PACK complete with the
values of their rules.
Clauses rest on choices of the model: log 120 (DEDUCED); these clauses are the model's, not the spec's. -/
def Obligations.ConstantsConversionsComplete : Prop :=
  (∀ (nw : Bool) (d : Operand) (imm : BitVec 16) (s : State) (w : Wave) (p : Path),
     let wide := isWide p.mode.type
     let reg := Field.group isReg 1 1 d
     let sum := if wide then Field.dstOf true d else reg
     (s.Ready w p (resultFields nw false (.dstOf false d) []) (resultUniform nw (.dstOf false d) []) →
       s.Answers w p (.li nw d imm) nw d (resultStreamed nw false (.dstOf false d) [] p)
         (resultWords false (resultStreamed nw false (.dstOf false d) [] p) fun _ => imm.signExtend 64))
     ∧ (s.Ready w p (resultFields nw true reg []) (resultUniform nw reg []) →
       s.Answers w p (.lih nw d imm) nw d (resultStreamed nw true reg [] p)
         (resultWords false (resultStreamed nw true reg [] p) fun i =>
           ((imm ++ (srcLane w p d i).truncate 16 : BitVec 32)).setWidth 64))
     ∧ (bitsT p.mode.type = true → s.Ready w p (resultFields nw true sum []) (resultUniform nw sum []) →
       s.Answers w p (.addi nw d imm) nw d (resultStreamed nw true sum [] p)
         (resultWords wide (resultStreamed nw true sum [] p) fun i =>
           p.mode.intTy.fix (p.mode.intTy.read (srcOf wide w p d i) + imm.toInt))))
  ∧ (ErrorFreeRule .twosum laneTwosum ∧ ErrorFreeRule .fasttwosum laneFasttwosum ∧ ErrorFreeRule .twoprod laneTwoprod
     ∧ (∀ (nw : Bool) (src : ElemType) (d a : Operand) (s : State) (w : Wave) (p : Path),
         let wide := isWide p.mode.type
         let dst := Field.dstOf wide d
         let srcs := [Field.srcOf (isWide src) a]
         let st := resultStreamed nw false dst srcs p
         cvtAccepts src p.mode.type = true → s.Ready w p (resultFields nw false dst srcs) (resultUniform nw dst srcs) →
           s.Answers w p (.cvt nw src d a) nw d st
             (resultWords wide st fun i => laneCvt src p.mode (srcOf (isWide src) w p a i)))
     ∧ (∀ k : Fin 8, PackRule (.packXn · k) false fun x _ => BitVec.ofNat 64 (bitsOf x.toNat (4 * k.val + 3) (4 * k.val)))
     ∧ (∀ k : Fin 4, PackRule (.packXb · k) false fun x _ => BitVec.ofNat 64 (bitsOf x.toNat (8 * k.val + 7) (8 * k.val)))
     ∧ (∀ k : Fin 2, PackRule (.packXh · k) false fun x _ => BitVec.ofNat 64 (bitsOf x.toNat (16 * k.val + 15) (16 * k.val)))
     ∧ (∀ k : Fin 8, PackRule (.packIn · k) true (laneInsert 4 k.val))
     ∧ (∀ k : Fin 4, PackRule (.packIb · k) true (laneInsert 8 k.val))
     ∧ (∀ k : Fin 2, PackRule (.packIh · k) true (laneInsert 16 k.val)))

/-- R58, R239: CMP completes: the outcome of every lane of EXEC in its bit of P[k] and, as 1 or 0, in l0; with nw = 1 the
predicate is not written. -/
def Obligations.CmpCompletes : Prop :=
  ∀ (nw : Bool) (k : Fin 8) (c : Cond) (a b : Operand) (s : State) (w : Wave) (p : Path),
    let wide := isWide p.mode.type
    let holds := fun i => condHolds c p.mode (srcOf wide w p a i) (srcOf wide w p b i)
    condAccepts c p.mode.type = true → s.Ready w p [.srcOf wide b, .srcOf wide a] [] →
      ∃ t w', exec (.cmp nw k c a b) s = .next t ∧ s.OnlyWave t w.id w'
        ∧ Wave.Delivered w { w' with p := w.p } p true (.p k) true (execMask w p) [lanesOf fun i => if holds i then 1 else 0]
        ∧ ∀ (j : Fin 8) (i : Fin 32), (w'.p[j]).getLsbD i.val =
            if nw = false ∧ j = k ∧ inMask (execMask w p) i = true then holds i else (w.p[j]).getLsbD i.val

/-- R241 to R246: the shuffles, BALLOT, VOTE, MATCH, REDUCE, SCAN and BCAST complete with the values of their rules. -/
def Obligations.CrossLanesComplete : Prop :=
  (ShuffleRule .shfl (fun _ n => some n) ∧ ShuffleRule .shflup (fun i n => if n ≤ i then some (i - n) else none)
   ∧ ShuffleRule .shfldn (fun i n => some (i + n)) ∧ ShuffleRule .shflx (fun i n => some (i ^^^ n))
   ∧ (∀ (nw : Bool) (d a : Operand) (s : State) (w : Wave) (p : Path),
       CrossRule s w p (.ballot nw d a) nw false (.dstOf false d) [.srcOf (isWide p.mode.type) a] [] fun _ =>
         (execMask w p &&& maskOf fun i => srcOf (isWide p.mode.type) w p a i != 0).setWidth 64)
   ∧ VoteRule .voteAny (fun l => l.any (· != 0)) ∧ VoteRule .voteAll (fun l => l.all (· != 0))
   ∧ VoteRule .voteUni (fun l => l.all (· == l.headD 0))
   ∧ (∀ (nw : Bool) (d a : Operand) (s : State) (w : Wave) (p : Path),
       CrossRule s w p (.match_ nw d a) nw false (.group isVec 1 1 d) [.srcOf (isWide p.mode.type) a] [] fun i =>
         (execMask w p &&& maskOf fun j =>
           srcOf (isWide p.mode.type) w p a j == srcOf (isWide p.mode.type) w p a i).setWidth 64))
  ∧ (ReduceRule .reduceAdd (fun m => intT m || m == .fp32 || m == .pair) laneAdd identAdd
     ∧ ReduceRule .reduceMin (fun m => intT m || m == .fp32) laneMin identMin
     ∧ ReduceRule .reduceMax (fun m => intT m || m == .fp32) laneMax identMax
     ∧ ReduceRule .reduceAnd bitsT laneAnd identAnd ∧ ReduceRule .reduceOr bitsT laneOr identOr
     ∧ ReduceRule .reduceXor bitsT laneXor identXor
     ∧ ScanRule .scanAdd (fun m => intT m || m == .fp32 || m == .pair) laneAdd identAdd
     ∧ ScanRule .scanMin (fun m => intT m || m == .fp32) laneMin identMin
     ∧ ScanRule .scanMax (fun m => intT m || m == .fp32) laneMax identMax
     ∧ ScanRule .scanAnd bitsT laneAnd identAnd ∧ ScanRule .scanOr bitsT laneOr identOr
     ∧ ScanRule .scanXor bitsT laneXor identXor
     ∧ (∀ (nw : Bool) (d a b : Operand) (s : State) (w : Wave) (p : Path),
         let wide := isWide p.mode.type
         CrossRule s w p (.bcast nw d a b) nw wide (if wide then .group isReg 2 2 d else .group isReg 1 1 d)
           [.srcOf wide a, .src b] [.src b] fun _ =>
             if h : (srcLane w p b 0).toNat < 32 then
               (if inMask (execMask w p) ⟨(srcLane w p b 0).toNat, h⟩ then srcOf wide w p a ⟨(srcLane w p b 0).toNat, h⟩ else 0)
             else 0))

/-- R234, R236 to R238, R240: the results under i32 and ui32 with M.sat = 0, as operations on 32-bit words. -/
def Obligations.WordResults : Prop :=
  ∀ m : Mode, (m.type = .i32 ∨ m.type = .ui32) → m.sat = false → ∀ x y c : DWord,
    let n := shiftCount y
    let a := lo32 x
    let b := lo32 y
    let d := lo32 c
    lo32 (laneAdd m x y c) = a + b ∧ lo32 (laneSub m x y c) = a - b ∧ lo32 (laneMul m x y c) = a * b
    ∧ lo32 (laneMad m x y c) = a * b + d ∧ lo32 (laneAnd m x y c) = a &&& b ∧ lo32 (laneOr m x y c) = a ||| b
    ∧ lo32 (laneXor m x y c) = a ^^^ b ∧ lo32 (laneShl m x y c) = a <<< n ∧ lo32 (laneShr m x y c) = a >>> n
    ∧ lo32 (laneSha m x y c) = a.sshiftRight n ∧ lo32 (laneRol m x y c) = a.rotateLeft (n % 32)
    ∧ lo32 (laneFshl m x y c) = ((d ++ a) <<< min n 32).extractLsb' 32 32
    ∧ lo32 (laneFshr m x y c) = ((d ++ a) >>> min n 32).extractLsb' 0 32
    ∧ lo32 (laneSel m x y c) = (a &&& d) ||| (b &&& ~~~d) ∧ lo32 (laneNot m x) = ~~~a ∧ lo32 (laneNeg m x) = -a
    ∧ lo32 (laneMin m x y c) = (if (if m.type = .i32 then a.sle b else a.ule b) then a else b)
    ∧ lo32 (laneMax m x y c) = (if (if m.type = .i32 then a.sle b else a.ule b) then b else a)

/-- R235: DIV truncates toward zero, REM leaves x - y·q, which takes the sign of the dividend; a zero divisor gives all ones
in w bits and x, without a trap; the most negative dividend by -1 goes through fix; M.round is ignored. -/
def Obligations.DivisionRule : Prop :=
  TwoSourceRule .div intT false laneDiv ∧ TwoSourceRule .rem intT false laneRem
  ∧ ∀ m : Mode, intT m.type = true → ∀ x y c : DWord,
    let t := m.intTy
    (t.read y = 0 → t.pat (laneDiv m x y c) = 2 ^ t.w - 1 ∧ t.read (laneRem m x y c) = t.read x)
    ∧ (t.read y ≠ 0 → laneDiv m x y c = t.fix ((t.read x).tdiv (t.read y))
        ∧ t.read (laneRem m x y c) = t.read x - t.read y * (t.read x).tdiv (t.read y)
        ∧ (t.read (laneRem m x y c) = 0 ∨ (t.read (laneRem m x y c)).sign = (t.read x).sign))
    ∧ ∀ r, laneDiv { m with round := r } x y c = laneDiv m x y c ∧ laneRem { m with round := r } x y c = laneRem m x y c

/-- R64, R65: an exact result wraps modulo 2^w with M.sat = 0 and is clamped to the type's range with M.sat = 1, then
extended by the type's signedness. R231: under b32 it is reduced modulo 2^32 whatever M.sat says. -/
def Obligations.SaturationRule : Prop :=
  ∀ (m : Mode) (x : Int),
    (intT m.type = true →
      let t := m.intTy
      (m.sat = false → (t.pat (t.fix x) : Int) = x % 2 ^ t.w)
      ∧ (m.sat = true → t.read (t.fix x) = max (intRange t.w t.signed).1 (min (intRange t.w t.signed).2 x))
      ∧ lo32 (t.fix x) = BitVec.ofInt 32 (t.read (t.fix x)))
    ∧ (m.type = .b32 → ((lo32 (m.intTy.fix x)).toNat : Int) = x % 2 ^ 32)

/-- R19: EXEC is the active mask of the path, cut by the guard where it is enabled. -/
def Obligations.GuardRule : Prop :=
  ∀ (w : Wave) (p : Path) (i : Fin 32), inMask (execMask w p) i =
    (inMask p.mask i && (!p.mode.gen || ((w.p[p.mode.gidx]).getLsbD i.val != p.mode.ginv)))

/-- R51, R53: what a result does to the latches, and a switch point. -/
def Obligations.LatchRule : Prop :=
  ∀ (ls : Vector Latch 4) (x : Latch) (exec : Mask) (r : Lanes) (v : Word) (p : Path),
    (pushLatch ls x)[3] = ls[2] ∧ (pushLatch ls x)[2] = ls[1] ∧ (pushLatch ls x)[1] = ls[0] ∧ (pushLatch ls x)[0] = x
    ∧ (streamEntry exec r).valid = true ∧ (streamEntry exec r).uniform = false
    ∧ (∀ i : Fin 32, (streamEntry exec r).val[i] = if inMask exec i then r[i] else 0)
    ∧ (uniformEntry v).valid = true ∧ (uniformEntry v).uniform = true ∧ (∀ i : Fin 32, (uniformEntry v).val[i] = v)
    ∧ (∀ k : Fin 4, (p.atSwitch.latches[k]).valid = false)

/-! ## Control flow and traps -/

/-- R17, R272, R278: NOP, MODE, JPT and YIELD complete; MODE with a reserved code raises ILLEGAL_OPERAND. -/
def Obligations.NopModeJptYield : Prop :=
  ∀ (s : State) (w : Wave) (p : Path), s.Ready w p [] [] →
    (∃ t w', exec .nop s = .next t ∧ s.OnlyWave t w.id w' ∧ w.Went w' (p.retire (p.pc + 4)))
    ∧ (∀ imm m, Mode.ofWord? imm = some m → ∃ t w', exec (.mode imm) s = .next t ∧ s.OnlyWave t w.id w'
        ∧ w.Went w' { p.retire (p.pc + 4) with mode := m })
    ∧ (∀ imm, Mode.ofWord? imm = none →
        exec (.mode imm) s = .next (s.trap w p (wordOf (.mode imm)) (TrapInfo.plain .illegalOperand)))
    ∧ (∀ off, ∃ t w', exec (.jpt off) s = .next t ∧ s.OnlyWave t w.id w'
        ∧ w.Went w' { p.retire (p.pc + 4) with jp := some (pcOffset p.pc off) })
    ∧ ((∀ h, w.kind ≠ .combiner h) → ∃ t w', exec .yield s = .next t ∧ t.wave? w.id = some w'
        ∧ { t with waves := s.waves, nextId := s.nextId } = s ∧ (∀ k, k ≠ w.id → t.wave? k = s.wave? k)
        ∧ w.Went { w' with rank := w.rank } (p.retire (p.pc + 4)) ∧ w'.rank = s.nextId ∧ w'.heldCycles = 0)

/-- R263, R264, R271: BR where every lane goes one way: the path continues at the target or at the next instruction, its
join watched; its lanes, its mode and its registers are as they were. Where lanes go both ways: one entry more on the split
stack, with the join, the lanes, the mode, the pending set and the tag of the path that split; the path is gone, and the
arm with the lowest lane runs, at its own address and with its own lanes; the other arm runs beside it, or waits.
Clauses rest on choices of the model: log 19 (DEDUCED), log 20 (DESIGN CHOICE); these clauses are the model's, not the
spec's. -/
def Obligations.BranchCompletes : Prop :=
  (∀ (off : BitVec 25) (s : State) (w : Wave) (p : Path), s.ReadySwitch w p [] [] → w.unhurried = true →
     let T := pcOffset p.pc off
     let F := (p.pc + 4) % 2 ^ 55
     let J := p.jp.getD (if 0 < off.toInt then T else F)
     let tk := execMask w p
     let nt := p.mask &&& ~~~tk
     (nt = 0 → ∃ t w', exec (.br off) s = .next t ∧ s.OnlyWaveSwitched t w.id w'
       ∧ w.Went w' { p.atSwitch.retire T with jp := none, wj := some J })
     ∧ (nt ≠ 0 → tk = 0 → ∃ t w', exec (.br off) s = .next t ∧ s.OnlyWaveSwitched t w.id w'
       ∧ w.Went w' { p.atSwitch.retire F with jp := none, wj := some J }))
  ∧ (∀ (off : BitVec 25) (s : State) (w : Wave) (p : Path), s.ReadySwitch w p [] [] → w.unhurried = true →
       (w.kind == .launched && decide (w.resident ≥ 8) && !s.hasSaveArea w.asid) = false →
       (∀ q ∈ w.paths, q.tag.entry ≤ w.splits.length) →
       let T := pcOffset p.pc off
       let F := (p.pc + 4) % 2 ^ 55
       let tk := execMask w p
       let nt := p.mask &&& ~~~tk
       let num := w.splits.length + 1
       let mode := p.mode
       nt ≠ 0 → tk ≠ 0 →
         ∃ t w' e rest first second, exec (.br off) s = .next t ∧ t.wave? w.id = some w'
           ∧ { t with waves := s.waves, regs := s.regs, holders := s.holders } = s
           ∧ w'.splits = e :: rest ∧ rest.length = w.splits.length
           ∧ e.num = num ∧ e.join = p.jp.getD (if 0 < off.toInt then T else F) ∧ e.mask = p.mask ∧ e.arrived = 0
           ∧ e.mode = mode ∧ e.pending = p.pending ∧ e.tag = p.tag
           ∧ byLowLane (T, tk) (F, nt) = [first, second]
           ∧ w'.path? p.tag = none
           ∧ w'.path? ⟨num, 0⟩ = some (armPath num mode p.pending { num := 0, mask := first.2, target := first.1 })
           ∧ (if e.dual then w'.path? ⟨num, 1⟩ =
                 some (armPath num mode p.pending { num := 1, mask := second.2, target := second.1 }) ∧ e.waiting = []
              else e.waiting = [{ num := 1, mask := second.2, target := second.1 }])
           ∧ w'.v = w.v ∧ w'.s = w.s ∧ w'.p = w.p ∧ w'.clock = w.clock + 1)

/-- R272, R274, R275: JMP, CALL and RET. A forward JMP is no switch point; the others are. RET goes to the most recent
address that the same path pushed, or to the kernel base and a register, which a vector register gives only where every
lane of the path agrees.
Clauses rest on choices of the model: log 17 (DEDUCED); these clauses are the model's, not the spec's. -/
def Obligations.JumpCallRet : Prop :=
  (∀ (s : State) (w : Wave) (p : Path), w.unhurried = true →
     (∀ off : BitVec 25, 0 < off.toInt → s.Ready w p [] [] → ∃ t w', exec (.jmp off) s = .next t ∧ s.OnlyWave t w.id w'
       ∧ w.Went w' (p.retire (pcOffset p.pc off)))
     ∧ (∀ off : BitVec 25, off.toInt ≤ 0 → s.ReadySwitch w p [] [] → ∃ t w', exec (.jmp off) s = .next t
       ∧ s.OnlyWaveSwitched t w.id w' ∧ w.Went w' (p.atSwitch.retire (pcOffset p.pc off)))
     ∧ (w.kind = .launched → ∀ off : BitVec 25, s.ReadySwitch w p [] [] →
       (w.returns.length < 16 → ∃ t w', exec (.call off) s = .next t ∧ s.OnlyWaveSwitched t w.id w'
         ∧ w'.returns = ((p.pc + 4) % 2 ^ 55, p.tag) :: w.returns
         ∧ w.Went { w' with returns := w.returns } (p.atSwitch.retire (pcOffset p.pc off)))
       ∧ (16 ≤ w.returns.length → exec (.call off) s = .next ((s.switched w p).trap (w.switched p) p.atSwitch
           (wordOf (.call off)) (stackTrap .callDepth w))))
     ∧ (w.kind = .launched → ∀ a : Operand, s.ReadySwitch w p [.group (fun o => isReg o || o == .zero) 1 1 a] [] →
       match retTarget w p a with
       | .error info => exec (.ret a) s =
           .next ((s.switched w p).trap (w.switched p) p.atSwitch (wordOf (.ret a)) info)
       | .ok (x, pop) =>
         (x % 4 ≠ 0 → exec (.ret a) s = .next ((s.switched w p).trap (w.switched p) p.atSwitch (wordOf (.ret a))
           (TrapInfo.mem .memAlign p.mask x)))
         ∧ (x % 4 = 0 → ∃ t w', exec (.ret a) s = .next t ∧ s.OnlyWaveSwitched t w.id w'
           ∧ w'.returns = (if pop then dropFirst (fun e => e.2 == p.tag) w.returns else w.returns)
           ∧ w.Went { w' with returns := w.returns } (p.atSwitch.retire x))))
  ∧ (∀ (w : Wave) (p : Path),
       (∀ r : Fin 64, retTarget w p (.s r) = .ok (w.base + (w.s[r]).toNat, false))
       ∧ (∀ (r : Fin 128) (v : Word), p.mask ≠ 0 → (∀ i : Fin 32, inMask p.mask i = true → w.v[r][i] = v) →
           retTarget w p (.v r) = .ok (w.base + v.toNat, false))
       ∧ (∀ (r : Fin 128) (i j : Fin 32), inMask p.mask i = true → inMask p.mask j = true → w.v[r][i] ≠ w.v[r][j] →
           retTarget w p (.v r) = .error (stackTrap .retDiverge w))
       ∧ (∀ (e : Nat × Tag) (before after : List (Nat × Tag)), w.returns = before ++ e :: after → e.2 = p.tag →
           (∀ x ∈ before, x.2 ≠ p.tag) → retTarget w p .zero = .ok (e.1, true))
       ∧ ((∀ x ∈ w.returns, x.2 ≠ p.tag) → retTarget w p .zero = .error (stackTrap .retEmpty w)))

/-- R276, R277: JTAB, its checks passed: no lane in EXEC goes to the join, one group with no lane outside goes to its
target, and otherwise the path splits, its groups in the order of their lowest index; a failing check or a failed read of the
table traps, and a part of the table that the L1 lacks is read as a plain load, for which the instruction waits.
Clauses rest on choices of the model: log 18 (DESIGN CHOICE), log 30 (DESIGN CHOICE: the walk of a page that no TLB
holds); these clauses are the model's, not the spec's. -/
def Obligations.JtabCompletes : Prop :=
  ∀ (a b : Operand) (s : State) (w : Wave) (p : Path), w.kind = .launched → w.unhurried = true →
    s.ReadySwitch w p [{ op := a, allow := fun o => isSrc o && !isPred o, align := 1, span := 1, latches := 1 }, baseField b]
      [] →
    let w1 := w.switched p
    let p1 := p.atSwitch
    let s1 := (s.switched w p).settleHolds w.id
    let f := w1.tableWait? p1
    let w2 := w1.endTable p1
    let s2 := if f.isSome then s1.modWave w.id fun x => x.endTable p1 else s1
    s1.tableHeld w1 p1 a b = false → (∀ x, f = some x → x.arrived = true) →
    (∀ x e, f = some x → x.failed.head? = some e →
      exec (.jtab a b) s = .next (s2.trap w2 p1 (wordOf (.jtab a b)) e.info))
    ∧ ((∀ x, f = some x → x.failed = []) →
      (∀ info, s2.jumpPlan w2 p1 a b = .error (.trap info) →
        exec (.jtab a b) s = .next (s2.trap w2 p1 (wordOf (.jtab a b)) info))
      ∧ (∀ x lanes, s2.jumpPlan w2 p1 a b = .error (.need x lanes) →
        exec (.jtab a b) s = (s2.askTable w2 p1 x lanes).stall)
      ∧ (∀ plan, s2.jumpPlan w2 p1 a b = .ok plan →
        let s3 := (s2.walked w1 (tableEas w1 p1 a b)).touchTable w1 p1 a b
        let joined := s3.modCurPath fun q => { q with jp := none, wj := some plan.join }
        (plan.groups = [] → exec (.jtab a b) s = .next (joined.retireTo plan.join 1))
        ∧ (∀ g, plan.groups = [g] → p.mask &&& ~~~(execMask w p) = 0 →
            exec (.jtab a b) s = .next (joined.retireTo g.2.1 1))
        ∧ (∀ g, plan.groups = [g] → p.mask &&& ~~~(execMask w p) ≠ 0 →
            exec (.jtab a b) s = .next (s3.split w1 p1 plan.join [(g.2.1, g.2.2)] (p.mask &&& ~~~(execMask w p)) 1))
        ∧ (2 ≤ plan.groups.length → exec (.jtab a b) s = .next (s3.split w1 p1 plan.join
            (plan.groups.map fun g => (g.2.1, g.2.2)) (p.mask &&& ~~~(execMask w p)) 1))))

/-- R267, R278: EXIT. An empty EXEC ends nothing; an EXIT that leaves lanes live ends the lanes in EXEC, which leave their
path and every open entry, and is no switch point; the last one ends the wave once its duties are met, and waits for them
off its pipe before.
Clauses rest on choices of the model: log 39 (DEDUCED); these clauses are the model's, not the spec's. -/
def Obligations.ExitCompletes : Prop :=
  ∀ (s : State) (w : Wave) (p : Path), (∀ h, w.kind ≠ .combiner h) →
    let m := execMask w p
    (m = 0 → s.ReadyClear w p [] [] → ∃ t w', exec .exit s = .next t ∧ s.OnlyWave t w.id w'
      ∧ w.Went w' (p.retire (p.pc + 4)))
    ∧ (m ≠ 0 → w.liveMask &&& ~~~m ≠ 0 → s.ReadyClear w p [] [] →
        exec .exit s = .next (s.endExec w p m (p.pc + 4)))
    ∧ (m ≠ 0 → w.liveMask &&& ~~~m ≠ 0 → p.mask &&& ~~~m ≠ 0 → s.ReadyClear w p [] [] →
        ∃ t w', exec .exit s = .next t ∧ s.OnlyWave t w.id w'
          ∧ w'.path? p.tag = some { p.retire (p.pc + 4) with mask := p.mask &&& ~~~m }
          ∧ w'.splits = w.splits.map fun (e : Split) => { e with mask := e.mask &&& ~~~m })
    ∧ (m ≠ 0 → w.liveMask &&& ~~~m = 0 → s.Runs w p → s.quiet w = true → w.undisturbed = true →
        ((s.switched w p).endStalls (w.switched p) m = false →
          exec .exit s = .next ((s.switched w p).endExec (w.switched p) p.atSwitch m (p.pc + 4)))
        ∧ ((s.switched w p).endStalls (w.switched p) m = true →
          exec .exit s = (s.switched w p).endStall (w.switched p)))

/-- R321, R323: a trap of a launched wave outside task mode enters the handler of its context, with the record in the trap
CSRs. -/
def Obligations.TrapEntry : Prop :=
  ∀ (s : State) (w : Wave) (p : Path) (word : Word) (info : TrapInfo),
    s.wave? w.id = some w → w.path? p.tag = some p → s.TrapsPlainly w → info.code ≠ .boundary →
      ∃ w', s.OnlyWave (s.trap w p word info) w.id w' ∧ s.Entered w w' p word info

/-- R57: a word of opcode 0x00, or of an opcode that the map reserves, decodes to no instruction but to the word itself,
which raises ILLEGAL_OP whatever its other bits hold; the all-zero and the all-ones word are among them. -/
def Obligations.ReservedOpcodes : Prop :=
  (∀ x : Word, x.toNat / 2 ^ 25 ∈ [0x00, 0x2E, 0x2F, 0x3A, 0x3B, 0x3C, 0x3D, 0x3E, 0x3F, 0x4B, 0x5C, 0x5D, 0x5E, 0x5F, 0x6A,
      0x6B, 0x6C, 0x6D, 0x6E, 0x6F, 0x78, 0x79, 0x7A, 0x7B, 0x7C, 0x7D, 0x7E, 0x7F] → decodeWord x = .ok (.illegal x))
  ∧ decodeWord 0x00000000#32 = .ok (.illegal 0) ∧ decodeWord 0xFFFFFFFF#32 = .ok (.illegal 0xFFFFFFFF)
  ∧ ∀ (s : State) (w : Wave) (p : Path) (x : Word), s.Runs w p →
      exec (.illegal x) s = .next (s.trap w p x (TrapInfo.plain .illegalOp))

/-- R342: TRAP raises SOFT with its lanes and its immediate, and does nothing where EXEC is empty. -/
def Obligations.TrapInstruction : Prop :=
  ∀ (s : State) (w : Wave) (p : Path) (imm : BitVec 16), w.kind = .launched → s.Ready w p [] [] →
    (execMask w p = 0 → ∃ t w', exec (.trap imm) s = .next t ∧ s.OnlyWave t w.id w' ∧ w.Went w' (p.retire (p.pc + 4)))
    ∧ (execMask w p ≠ 0 → exec (.trap imm) s = .next (s.trap w p (wordOf (.trap imm))
        { TrapInfo.plain .soft with mask := execMask w p, info := imm.setWidth 32 }))

/-- R59, R343: CSRR delivers a trap CSR and CSRW writes a writable one, in handler state and in system contexts; elsewhere,
in a combiner wave and a producer slot too, both and the returns from a trap raise PRIVILEGED. -/
def Obligations.CsrAccess : Prop :=
  ∀ (s : State) (w : Wave) (p : Path) (n : BitVec 8),
    (∀ nw d v, csrAllowed w = true → s.csrRead w n.toNat = some v →
      s.Ready w p (if nw then [] else [.group isSca 1 1 d]) [] →
        s.Answers w p (.csrr nw d n) nw d false [splat v])
    ∧ (∀ d, csrAllowed w = true → csrWritable n.toNat = true → s.Ready w p [.src d] [.src d] →
        ∃ t w', exec (.csrw d n) s = .next t ∧ s.OnlyWave t w.id w'
          ∧ w'.csr = w.csr.write n.toNat (srcLane w p d 0)
          ∧ w.Went { w' with csr := w.csr } (p.retire (p.pc + 4)))
    ∧ (csrAllowed w = false → ∀ nw d, s.Ready w p [] [] →
        exec (.csrr nw d n) s = .next (s.trap w p (wordOf (.csrr nw d n)) (TrapInfo.plain .privileged))
        ∧ exec (.csrw d n) s = .next (s.trap w p (wordOf (.csrw d n)) (TrapInfo.plain .privileged))
        ∧ ∀ i ∈ [Instr.trapretResume, .trapretSkip, .trapretExit],
            exec i s = .next (s.trap w p (wordOf i) (TrapInfo.plain .privileged)))

/-- R343: the returns from a trap: RESUME at TPC, SKIP behind it, both with TMODE; EXIT ends the lanes of the path. Handler
state ends, and the next instruction is a switch point. With a split of the handler open, or outside handler state, the
wave freezes with cause 6. -/
def Obligations.TrapReturn : Prop :=
  ∀ (s : State) (w : Wave) (p : Path), w.kind = .launched → csrAllowed w = true → s.Ready w p [] [] →
    w.unhurried = true →
    (trapretPlaced w = true →
      (∃ t w', exec .trapretResume s = .next t ∧ s.OnlyWave t w.id w' ∧ w'.handler = none
        ∧ w'.path? p.tag = some { p.retire (w.csr.pc.toNat / 4 * 4) with mode := w.csr.mode, swNext := true, late := true }
        ∧ w'.v = w.v ∧ w'.s = w.s ∧ w'.p = w.p ∧ w'.csr = w.csr ∧ w'.splits = w.splits ∧ w'.returns = w.returns)
      ∧ (∃ t w', exec .trapretSkip s = .next t ∧ s.OnlyWave t w.id w' ∧ w'.handler = none
        ∧ w'.path? p.tag = some { p.retire (w.csr.pc.toNat / 4 * 4 + 4) with mode := w.csr.mode, swNext := true, late := true }
        ∧ w'.v = w.v ∧ w'.s = w.s ∧ w'.p = w.p ∧ w'.csr = w.csr ∧ w'.splits = w.splits ∧ w'.returns = w.returns)
      ∧ (s.endStalls w p.mask = true → exec .trapretExit s = s.endStall w)
      ∧ (s.endStalls w p.mask = false → ∃ t, exec .trapretExit s = .next t
          ∧ t = (s.endExec w p p.mask (p.pc + 4)).modWave w.id fun x =>
              { x.leaveHandler with paths := x.paths.map fun (q : Path) => { q with swNext := true } }))
    ∧ (trapretPlaced w = false →
      exec .trapretResume s = .next (s.freezeWave w 6 0) ∧ exec .trapretSkip s = .next (s.freezeWave w 6 0)
      ∧ exec .trapretExit s = .next (s.freezeWave w 6 0))


/-! ## Memory -/

/-- R152, R324: the checks of all lanes come before any access; where some fail, the trap is that of the lowest failing
lane, and its mask names the lanes that fail with the same code; where none fails, every lane has its place. -/
def Obligations.LaneChecks : Prop :=
  ∀ (l : List (Fin 32 × Nat × Except TrapCode Nat)),
    (l.map (·.1)).Nodup →
    (∀ ok, collectLanes l none = .ok ok ↔ l = ok.map fun x => (x.1, x.2.1, .ok x.2.2))
    ∧ (∀ info, collectLanes l none = .error info → ∃ before i ea after,
        l = before ++ (i, ea, .error info.code) :: after
        ∧ (∀ x ∈ before, ∃ v, x.2.2 = .ok v) ∧ info.addr = BitVec.ofNat 64 ea
        ∧ ∀ j : Fin 32, inMask info.mask j = true ↔ ∃ e, (j, e, .error info.code) ∈ l)
    ∧ ∀ (s : State) (w : Wave) (ea n : Nat) (r : Rights), w.kind = .launched → ∀ c, s.placeAny w ea n n r = .error c →
        (2 ^ 55 ≤ ea → c = .memFault) ∧ (ea < 2 ^ 55 → ea % n ≠ 0 → c = .memAlign)
        ∧ (ea < 2 ^ 55 → ea % n = 0 → ∀ e, s.translate w ea r = .error e → c = e)

/-- R141, R142, R151, R152, R154, R155: LD and an LDACQ of wg scope complete at the L1; a failing check traps. The LDACQ holds the
wave's later loads. An LDACQ of a wider scope reads at the homes: the lines leave the L1, their dirty bytes on their way
before the reads, and the wave's later loads wait for the values. A load that must wait stands in the memory queue with what
it waits for, its destinations pending, and the wave goes on.
Clauses rest on choices of the model: log 16 (DEDUCED: TMASK = PATH for a failing uniform access), log 30 (DESIGN
CHOICE: the walk of a page that no TLB holds), log 123 (DEDUCED: what a queued access waits for); these clauses are
the model's, not the spec's. -/
def Obligations.LoadsComplete : Prop :=
  (∀ (d a b : Operand) (s : State) (w : Wave) (p : Path) (n : Nat),
     let wide := isWide p.mode.type
     let uni := isSca d
     let unis := if uni then [offsetField b] else []
     let lanes := if uni then p.mask else execMask w p
     w.kind = .launched → accessWidth? p.mode.type = some n → s.Ready w p (loadFields wide d a b) unis →
     (w.Plain → s.LoadsL1 w p (.ld d a b) .load d a b n [])
     ∧ (w.Plain → syncType p.mode.type = true → p.mode.scope = .wg →
         s.LoadsL1 w p (.ldacq d a b) .loadAcquire d a b n
           [{ classes := [.load], through := none, deps := [], loads := [s.nextId], commands := [], netOps := [],
              acquire := false }])
     ∧ (w.det = none → ∀ l, s.loadLanes w p uni lanes n a b = .ok l → l ≠ [] →
         let u := State.walked { s.settleHolds w.id with nextId := s.nextId + 1 } w (l.map (·.2.1))
         let x := u.globalWaits w [.load] (l.map (·.2.1)) (l.map (·.2.2 / 128))
         x.isNone = false → ∃ t w' f r, exec (.ld d a b) s = .next t ∧ t.wave? w.id = some w' ∧ w.Issued w' p f
           ∧ { t with waves := u.waves, nextId := u.nextId, releases := u.releases } = u
           ∧ f.ofLoad s .load wide uni lanes d p ∧ f.waiting = []
           ∧ (∀ i : Fin 32, inMask f.due i = true ↔ ∃ y ∈ l, y.1 = i)
           ∧ t.releases = u.releases ++ [r] ∧ r.req.wave = w.id ∧ r.waits = x
           ∧ r.act = .load f.id (u.laneWaits w p.mode.type n l))
     ∧ (∀ info, s.loadLanes w p uni lanes n a b = .error info →
         exec (.ld d a b) s = .next (s.trap w p (wordOf (.ld d a b)) info)
         ∧ (syncType p.mode.type = true → exec (.ldacq d a b) s = .next (s.trap w p (wordOf (.ldacq d a b)) info))))
  ∧ (∀ (d a b : Operand) (s : State) (w : Wave) (p : Path) (n : Nat),
       let wide := isWide p.mode.type
       let uni := isSca d
       let lanes := if uni then p.mask else execMask w p
       syncType p.mode.type = true → p.mode.scope ≠ .wg → accessWidth? p.mode.type = some n → w.Plain →
       s.Ready w p (loadFields wide d a b) (if uni then [offsetField b] else []) →
       ∀ l, s.loadLanes w p uni lanes n a b = .ok l → (l.all fun x => !s.lineBusy w.id (x.2.2 / 128)) = true →
         let u := State.walked { s with nextId := s.nextId + 1 } w (l.map (·.2.1))
         ∃ t w' f, exec (.ldacq d a b) s = .next t ∧ t.wave? w.id = some w' ∧ w.Issued w' p f ∧ u.AccessFrame t w.id
           ∧ f.ofLoad s .loadAcquire wide uni lanes d p ∧ f.acquire = some p.mode.scope
           ∧ (∀ i : Fin 32, inMask f.due i = true ↔ ∃ x ∈ l, x.1 = i)
           ∧ w'.holds = [{ classes := [.load], through := none, deps := [], loads := [f.id], commands := [], netOps := [],
                           acquire := false }]
           ∧ (∀ x ∈ l, (t.core w.core).l1At? (x.2.2 / 128) = none
               ∧ ∃ m ∈ t.messages, ∃ y, m.op = .read f.id y ∧ y.lane = x.1 ∧ y.ea = x.2.1 ∧ y.pa = x.2.2 ∧ y.width = n
                   ∧ m.home = homeOf x.2.2 ∧ m.req.wave = w.id)
           ∧ ((s.core w.core).distinct → ∀ c q, t.coreByte? c q = s.coreByte? c q))

/-- R142, R144, R151, R152, R154, R155, R171: ST, STM, and a STREL of wg scope with nothing left to release, store at the L1; a
failing check traps. Any other STREL completes as a release and its wave goes on: it stores nothing at once, and its writes
leave, for their homes or at wg scope for the L1, when the wave's direct accesses and, beyond wg scope, the write-backs of its
core have been performed. A store that must wait stands in the memory queue, and the wave goes on.
Clauses rest on choices of the model: log 16 (DEDUCED: TMASK = PATH for a failing uniform access), log 26 (DESIGN
CHOICE: STREL waits in the queue), log 30 (DESIGN CHOICE: the walk of a page that no TLB holds), log 122 (DEDUCED),
log 123 (DEDUCED: what a queued access waits for); these clauses are the model's, not the spec's. -/
def Obligations.StoresComplete : Prop :=
  (∀ (d a b : Operand) (s : State) (w : Wave) (p : Path) (n : Nat),
     let wide := isWide p.mode.type
     let m := execMask w p
     let masked := collectLanes ((lanesIn m).map fun i => (i, laneEa w p a b i, s.maskedBytes w d (laneEa w p a b i) i)) none
     (w.kind = .launched → accessWidth? p.mode.type = some n → s.Ready w p [valueField wide d, baseField a, offsetField b] [] →
       (∀ l, s.storeLanes w p m wide n d a b = .ok l → w.Plain →
         s.StoresL1 w p (.st d a b) l
         ∧ (syncType p.mode.type = true → p.mode.scope = .wg → s.directOf w.id = [] → s.quiet w = true →
             s.StoresL1 w p (.strel d a b) l))
       ∧ (∀ l, s.storeLanes w p m wide n d a b = .ok l → w.det = none → w.versioned = false → laneEas l ≠ [] →
           let u := (s.walked w (laneEas l)).settleHolds w.id
           let flat := l.flatMap fun x => x.2.2.map fun y => (some (s.stampOf w x.2.1), x.2.1, y.1, y.2)
           let x := u.globalWaits w [.store] (flat.map (·.2.1)) (flat.map fun y => y.2.2.1 / 128)
           x.isNone = false → ∃ t w' r, exec (.st d a b) s = .next t ∧ t.wave? w.id = some w'
             ∧ w.Went { w' with holds := w.holds } (p.retire (p.pc + 4))
             ∧ { t with waves := u.waves, nextId := u.nextId, releases := u.releases } = u
             ∧ t.releases = u.releases ++ [r] ∧ r.req.wave = w.id ∧ r.waits = x ∧ r.act = .plain flat)
       ∧ (∀ info, s.storeLanes w p m wide n d a b = .error info →
         exec (.st d a b) s = .next (s.trap w p (wordOf (.st d a b)) info)
         ∧ (syncType p.mode.type = true → s.quiet w = true →
             exec (.strel d a b) s = .next (s.trap w p (wordOf (.strel d a b)) info))))
     ∧ (w.kind = .launched → s.Ready w p [.group isVec 2 2 d, baseField a, offsetField b] [] →
       (∀ l, masked = .ok l → w.Plain → s.StoresL1 w p (.stm d a b) l)
       ∧ (∀ info, masked = .error info → exec (.stm d a b) s = .next (s.trap w p (wordOf (.stm d a b)) info))))
  ∧ (∀ (d a b : Operand) (s : State) (w : Wave) (p : Path) (n : Nat),
       let wide := isWide p.mode.type
       syncType p.mode.type = true → accessWidth? p.mode.type = some n → w.Plain → s.quiet w = true →
       s.Ready w p [valueField wide d, baseField a, offsetField b] [] →
       ∀ l, s.storeLanes w p (execMask w p) wide n d a b = .ok l →
         (p.mode.scope = .wg → s.directOf w.id ≠ []) →
         let u := s.walked w (laneEas l)
         ∃ t w' r, exec (.strel d a b) s = .next t ∧ t.wave? w.id = some w' ∧ w.Went w' (p.retire (p.pc + 4))
           ∧ { t with waves := u.waves, cores := u.cores, messages := u.messages, nextId := u.nextId,
                      releases := u.releases } = u
           ∧ (∀ k, k ≠ w.id → t.wave? k = s.wave? k)
           ∧ t.releases = s.releases ++ [r] ∧ r.req.wave = w.id
           ∧ r.act = (if p.mode.scope = .wg then .plain (l.flatMap fun x => x.2.2.map fun y => (none, x.2.1, y.1, y.2))
               else .store (l.flatMap fun x => x.2.2.map fun y => (homeOf y.1, .write y.1 y.2)))
           ∧ (∀ k ∈ s.directOf w.id, k ∈ r.waits.deps)
           ∧ (p.mode.scope ≠ .wg → ∀ k ∈ t.writebacksOf w.core, k ∈ r.waits.deps)
           ∧ ((s.core w.core).distinct → ∀ c q, t.coreByte? c q = s.coreByte? c q))

/-- R155, R156, R157, R311: FENCE, PREF, CLEAN, INVAL, MONITOR and MWAIT complete, and write no byte. A PREF, CLEAN or INVAL that
stands behind other accesses joins the memory queue, and the wave goes on.
Clauses rest on choices of the model: log 16 (DEDUCED: TMASK = PATH for a failing uniform access), log 24 (DEDUCED),
log 25 (DESIGN CHOICE: a prefetch carries no tag), log 30 (DESIGN CHOICE: the walk of a page that no TLB holds), log
123 (DEDUCED: what a queued access waits for); these clauses are the model's, not the spec's. -/
def Obligations.FenceCacheWatch : Prop :=
  ∀ (s : State) (w : Wave) (p : Path), w.kind = .launched →
    (∀ q sc, s.ReadyClear w p [] [] →
      exec (.fence q sc) s = .next (if w.isDet then s.advance p 1
        else ((s.fenceHold w q sc).2.addHold w.id (s.fenceHold w q sc).1).advance p 1))
    ∧ (∀ a, s.Ready w p [.group isReg 2 2 a] [] →
      let l := (actLanes (isSca a) (execMask w p)).filterMap fun i => match s.place w (pairEa w p a i) 1 .r with
        | .ok pa => some (pairEa w p a i, pa)
        | .error _ => none
      let u := (s.settleHolds w.id).walked w (l.map (·.1))
      let x := u.globalWaits w [.load] (l.map (·.1)) (l.map (·.2 / 128))
      ∃ t w', exec (.pref a) s = .next t ∧ t.wave? w.id = some w' ∧ w.Went { w' with holds := w.holds } (p.retire (p.pc + 4))
        ∧ ((s.core w.core).distinct → ∀ c q, t.coreByte? c q = s.coreByte? c q)
        ∧ { t with waves := u.waves, messages := u.messages, nextId := u.nextId, releases := u.releases } = u
        ∧ (x.isNone = true → t.releases = u.releases
            ∧ ∀ y ∈ l, ∀ k < 4, ((u.core w.core).sector (4 * (y.2 / 128) + k)).full = false →
                ∃ m ∈ t.messages, m.op = .fill (4 * (y.2 / 128) + k) none ∧ m.home = homeOf y.2)
        ∧ (x.isNone = false → l ≠ [] → t.messages = u.messages ∧ ∃ r, t.releases = u.releases ++ [r] ∧ r.req.wave = w.id
            ∧ r.waits = x ∧ r.act = .prefetch (l.map (·.2))))
    ∧ (∀ drop a, s.Ready w p [.group isReg 2 2 a] [] →
      let i := if drop then Instr.inval a else .clean a
      let uni := isSca a
      let checks := collectLanes ((actLanes uni (execMask w p)).map fun j => (j, pairEa w p a j, s.placeClean w (pairEa w p a j)))
        (if uni then some p.mask else none)
      (∀ info, checks = .error info → exec i s = .next (s.trap w p (wordOf i) info))
      ∧ ∀ l, checks = .ok l →
        let u := (s.settleHolds w.id).walked w (l.map (·.2.1))
        let x := u.globalWaits w [.load, .store] (l.map (·.2.1)) (l.map (·.2.2 / 128))
        ∃ t w', exec i s = .next t ∧ t.wave? w.id = some w' ∧ w.Went { w' with holds := w.holds } (p.retire (p.pc + 4))
        ∧ (x.isNone = false → l ≠ [] → { t with waves := u.waves, nextId := u.nextId, releases := u.releases } = u
            ∧ ∃ r, t.releases = u.releases ++ [r] ∧ r.req.wave = w.id ∧ r.waits = x
              ∧ r.act = .clean p.mode.scope drop (l.map (·.2.2))
              ∧ ∃ h ∈ w'.holds, h.deps = [r.id] ∧ h.classes = [.load, .store])
        ∧ (x.isNone = true → u.AccessFrame t w.id
        ∧ (∀ x ∈ l, (drop = true → ∀ k < 4, (t.core w.core).sector (4 * (x.2.2 / 128) + k) = Sector.empty)
            ∧ (p.mode.scope = .dev ∨ p.mode.scope = .pod → ∃ m ∈ t.messages, ∃ h ∈ w'.holds,
                m.op = (if drop then .inval (x.2.2 / 128) else .clean (x.2.2 / 128)) ∧ m.id ∈ h.deps
                ∧ h.classes = [.load, .store]))
        ∧ ((s.core w.core).distinct → (∀ c q, t.coreByte? c q = s.coreByte? c q)
            ∧ ∀ x ∈ l, ∀ k < 4, ((t.core w.core).sector (4 * (x.2.2 / 128) + k)).dirty = false)))
    ∧ (∀ a, s.Ready w p [baseField a] [] →
      let ea := (scalar64 w a).toNat
      match (if 2 ^ 55 ≤ ea then .error .memFault else s.translate w ea .r) with
      | .error c => exec (.monitor a) s = .next (s.trap w p (wordOf (.monitor a)) (TrapInfo.mem c p.mask ea))
      | .ok pa => ∃ t w', exec (.monitor a) s = .next t ∧ (s.walked w [ea]).OnlyWave t w.id w'
          ∧ w'.watch = some { line := pa / 128, fired := false, entry := false }
          ∧ w.Went { w' with watch := w.watch } (p.retire (p.pc + 4)))
    ∧ (s.ReadySwitch w p [] [] →
      let wake := w.wakePending || (match w.watch with | some x => x.fired | none => true)
      (wake = true → w.det = none → ∃ t w', exec .mwait s = .next t ∧ s.OnlyWaveSwitched t w.id w' ∧ w'.watch = none
        ∧ w'.wakePending = false
        ∧ w.Went { w' with watch := w.watch, wakePending := w.wakePending } (p.atSwitch.retire (p.pc + 4)))
      ∧ (wake = false → exec .mwait s = .next ((s.switched w p).block .watch)))

/-- R155, R161: LDS and STS complete: an access of the scratchpad through the window, each lane after its checks; LDS reads, and
STS writes the bytes of its lanes in their order and no other byte. One that must wait stands in the memory queue with what it
waits for, and the wave goes on.
Clauses rest on choices of the model: log 16 (DEDUCED: TMASK = PATH for a failing uniform access), log 50 (DESIGN
CHOICE), log 123 (DEDUCED: what a queued access waits for); these clauses are the model's, not the spec's. -/
def Obligations.ScratchpadComplete : Prop :=
  ∀ (d a b : Operand) (s : State) (w : Wave) (p : Path) (n : Nat),
    let wide := isWide p.mode.type
    let x := fun (l : List (Fin 32)) => (s.settleHolds w.id).scratchWaits w (l.map (laneOffset w p a b))
    accessWidth? p.mode.type = some n → w.kind = .launched → w.det = none →
    (let uni := isSca d
     let lanes := if uni then p.mask else execMask w p
     s.Ready w p [regField wide d, .group isSca 1 1 a, offsetField b] (if uni then [offsetField b] else []) →
     (∀ i ∈ actLanes uni lanes, s.windowAligned w.gang (laneOffset w p a b i) n = .ok ()) →
       let u := s.settleHolds w.id
       ∃ t w' f, exec (.lds d a b) s = .next t ∧ t.wave? w.id = some w' ∧ w.Issued w' p f
         ∧ { t with waves := u.waves, nextId := u.nextId, regs := u.regs, releases := u.releases } = u
         ∧ (∀ k, k ≠ w.id → t.wave? k = s.wave? k) ∧ f.ofLoad s .lds wide uni lanes d p ∧ f.waiting = []
         ∧ ((x (actLanes uni lanes)).isNone = true → t.releases = s.releases ∧ f.due = 0 ∧ ∀ i ∈ actLanes uni lanes,
             f.has i (loadValue (loadSigned p.mode.type) n (s.readWindow w.gang (laneOffset w p a b i) n)))
         ∧ ((x (actLanes uni lanes)).isNone = false → actLanes uni lanes ≠ [] →
             (∀ i : Fin 32, inMask f.due i = true ↔ i ∈ actLanes uni lanes)
             ∧ ∃ r, t.releases = s.releases ++ [r] ∧ r.req.wave = w.id ∧ r.waits = x (actLanes uni lanes)
               ∧ r.act = .lds f.id ((actLanes uni lanes).map fun i => (i, laneOffset w p a b i, n, loadSigned p.mode.type))))
    ∧ (s.Ready w p [valueField wide d, .group isSca 1 1 a, offsetField b] [] →
       (∀ i ∈ lanesIn (execMask w p), s.windowAligned w.gang (laneOffset w p a b i) n = .ok ()) →
       let ws := (lanesIn (execMask w p)).flatMap fun i =>
         ((leBytes n (srcOf wide w p d i).toNat).zipIdx (laneOffset w p a b i)).filterMap fun (x, k) =>
           (s.windowPlace? w.gang false k).map fun cq => (cq, x)
       let u := s.settleHolds w.id
       ∃ t w', exec (.sts d a b) s = .next t ∧ t.wave? w.id = some w' ∧ w.Went { w' with holds := w.holds } (p.retire (p.pc + 4))
         ∧ { t with waves := u.waves, cores := u.cores, nextId := u.nextId, regs := u.regs, releases := u.releases,
                    struck := u.struck } = u
         ∧ (∀ k, k ≠ w.id → t.wave? k = s.wave? k)
         ∧ (∀ c, { t.core c with scratch := (u.core c).scratch } = u.core c)
         ∧ ((x (lanesIn (execMask w p))).isNone = true → t.releases = s.releases ∧ t.nextId = s.nextId
           ∧ ((∀ c, (s.core c).scratch.wf = true) → (∀ c, (t.core c).scratch.wf = true)
             ∧ ∀ c q, (t.core c).scratch.read q =
                 ((ws.reverse.find? fun x => x.1 == (c, q)).map (·.2)).getD ((s.core c).scratch.read q)))
         ∧ ((x (lanesIn (execMask w p))).isNone = false → execMask w p ≠ 0 → t.cores = u.cores
           ∧ ∃ r, t.releases = s.releases ++ [r] ∧ r.req.wave = w.id ∧ r.waits = x (lanesIn (execMask w p))
             ∧ r.act = .sts ((lanesIn (execMask w p)).map fun i =>
                 (laneOffset w p a b i, leBytes n (srcOf wide w p d i).toNat))))

/-! ## Synchronisation, queues, clocks -/

/-- R162, R163: an arrival of n at a valid barrier word: with fewer than the expected count the arrivals rise and the phase
stays; otherwise the arrivals are 0 and the phase rises by 1 modulo 2^15; the expected count and bit 63 stay. -/
def Obligations.BarrierWordRule : Prop :=
  ∀ x n : Nat, x < 2 ^ 64 → barValid x = true → n < 2 ^ 16 →
    let e := bitsOf x 31 0
    let r := bitsOf x 47 32
    let y := barWordArrive x n
    y < 2 ^ 64 ∧ barValid y = true ∧ bitsOf y 31 0 = e ∧ bitsOf y 63 63 = bitsOf x 63 63
    ∧ (r + n < e → bitsOf y 47 32 = r + n ∧ barPhase y = barPhase x)
    ∧ (e ≤ r + n → bitsOf y 47 32 = 0 ∧ barPhase y = (barPhase x + 1) % 2 ^ 15)

/-- R163, R298, R299: ARRIVE returns the phase and starts its release, which arrives with the count; WAITB returns where the
phase differs, after an acquire, and otherwise waits; BAR starts its release and waits.
Clauses rest on choices of the model: log 16 (DEDUCED: TMASK = PATH for a failing uniform access), log 109 (DEDUCED: a
deterministic WAITB blocks before its checks); these clauses are the model's, not the spec's. -/
def Obligations.BarrierInstructions : Prop :=
  ∀ (a b : Operand) (s : State) (w : Wave) (p : Path), w.kind = .launched →
    let o := (srcUni w p a).toNat
    let s1 := s.switched w p
    let w1 := w.switched p
    (∀ nw d, w.holds = [] →
      s.ReadyClear w p ((if nw then [] else [Field.group isSca 1 1 d]) ++ uniFields [a, b]) (uniFields [a, b]) →
      (∀ c, s.barWord? w o = .error c →
        exec (.arrive nw d a b) s = .next (s.trap w p (wordOf (.arrive nw d a b)) (TrapInfo.mem c p.mask o)))
      ∧ ∀ x, s.barWord? w o = .ok x →
        let n := bitsOf (srcUni w p b).toNat 15 0
        let s0 := s.settleHolds w.id
        let go := fun (c : Fin 256) (q : Nat) => if w.isDet then s0.arriveAt c q n
          else s0.arriveAfter w p.mode.scope o (.arrive c q n)
        let s2 := match (if n = 0 then none else s0.windowPlace? w.gang false o) with
          | none => s0
          | some (c, q) => go c q
        exec (.arrive nw d a b) s = .next (s2.result w p nw d false [splat (BitVec.ofNat 32 (barPhase x))]))
    ∧ (s.ReadySwitch w p (uniFields [a, b]) (uniFields [a, b]) →
      let ph := bitsOf (srcUni w p b).toNat 14 0
      (w.isDet = true → exec (.waitb a b) s = .next (s1.block (.phase o ph)))
      ∧ (w.isDet = false → ∀ x, s1.barWord? w1 o = .ok x → exec (.waitb a b) s =
          .next (if barPhase x ≠ ph then (s1.acquire w.core p.mode.scope).advance p 1 else s1.block (.phase o ph)))
      ∧ (w.isDet = false → ∀ c, s1.barWord? w1 o = .error c → exec (.waitb a b) s =
          .next (s1.trap w1 p.atSwitch (wordOf (.waitb a b)) (TrapInfo.mem c p.mask o))))
    ∧ (s.ReadySwitch w p (uniFields [a, b]) (uniFields [a, b]) → w.isDet = false →
      let m := srcUni w p a
      let sel := srcUni w p b
      (∀ info, s1.barCheck w1 p.atSwitch m sel = some info →
        exec (.bar a b) s = .next (s1.trap w1 p.atSwitch (wordOf (.bar a b)) info))
      ∧ (∀ sc, barScope? sel = some sc → s1.barCheck w1 p.atSwitch m sel = none → exec (.bar a b) s =
          .next ((s1.startRelease w1 (s1.requester w1 0) (barMemScope sc) (.bar m sel)).2.block (.bar (wordOf (.bar a b))))))

/-- R164, R165: QPUSH appends the lanes' words where there is room and says so, QPOP takes the oldest record or waits, QSTAT
counts; a queue outside the wave's mask raises MEM_PROT, its TADDR a free value.
Clauses rest on choices of the model: log 22 (DESIGN CHOICE: a TADDR that no rule states); these clauses are the
model's, not the spec's. -/
def Obligations.QueuesComplete : Prop :=
  ∀ (q : BitVec 8) (s : State) (w : Wave) (p : Path) (hq : q.toNat < 16),
    let k : Fin 16 := ⟨q.toNat, hq⟩
    let len := (s.core w.core).queues[k].length
    let fault := fun (s : State) (w : Wave) (p : Path) (i : Instr) =>
      State.trap { s with freeCtr := s.freeCtr + 1 } w p (wordOf i)
        { TrapInfo.plain .memProt with mask := p.mask, addr := Config.freeDWord s.freeCtr }
    (∀ nw d a, (∀ h, w.kind ≠ .combiner h) →
      s.ReadyClear w p ((if nw then [] else [Field.group isSca 1 1 d]) ++ [Field.group isVec 1 1 a]) [] →
      (s.mayQueue w q = false → exec (.qpush nw d a q) s = .next (fault s w p (.qpush nw d a q)))
      ∧ (s.mayQueue w q = true → ∃ t w', exec (.qpush nw d a q) s = .next t ∧ t.wave? w.id = some w'
        ∧ w.Delivered w' p nw d false (execMask w p) [splat (if len < 32 then 1 else 0)]
        ∧ { t with waves := s.waves, cores := s.cores } = s ∧ (∀ j, j ≠ w.id → t.wave? j = s.wave? j)
        ∧ ∀ c, t.core c = if c = w.core ∧ len < 32 then
            { s.core c with queues := (s.core c).queues.set k ((s.core c).queues[k]
              ++ [lanesOf fun i => if inMask (execMask w p) i then srcLane w p a i else 0]) }
          else s.core c))
    ∧ (∀ d : Fin 128, w.kind = .launched → s.ReadySwitch w p [.group isVec 1 1 (.v d)] [] → s.mayQueue w q = true →
      ((len = 0 ∨ w.isDet = true) → exec (.qpop (.v d) q) s = .next ((s.switched w p).block (.queue k d)))
      ∧ (len ≠ 0 → w.isDet = false → ∃ t w' f, exec (.qpop (.v d) q) s = .next t ∧ t.wave? w.id = some w'
        ∧ (w.switched p).Issued w' p.atSwitch f ∧ f.dst = [.v d] ∧ f.mask = execMask w p
        ∧ some f.vals = ((s.core w.core).queues[k].head?).map ([·]) ∧ f.waiting = [] ∧ f.due = 0
        ∧ ∀ c, t.core c = if c = w.core then
            { s.core c with queues := (s.core c).queues.set k (s.core c).queues[k].tail } else s.core c))
    ∧ (∀ nw d, (∀ h, w.kind ≠ .combiner h) → s.Ready w p (if nw then [] else [.group isSca 1 1 d]) [] →
      (s.mayQueue w q = false → exec (.qstat nw d q) s = .next (fault s w p (.qstat nw d q)))
      ∧ (s.mayQueue w q = true →
        s.Answers w p (.qstat nw d q) nw d false [splat (BitVec.ofNat 32 len)]))

/-- R300, R318: the clocks. -/
def Obligations.ClocksComplete : Prop :=
  ∀ (nw : Bool) (d : Operand) (s : State) (w : Wave) (p : Path), w.kind = .launched →
    s.Ready w p (if nw then [] else [.group isSca 2 2 d]) [] →
    let rule := fun (i : Instr) (x : Nat) =>
      s.Answers w p i nw d false [splat (lo32 (BitVec.ofNat 64 x)), splat (hi32 (BitVec.ofNat 64 x))]
    rule (.clockTick nw d) (if w.isDet then s.periodOf w else s.tick)
    ∧ rule (.clockLogical nw d) w.clock
    ∧ rule (.clockPeriod nw d) (if w.isDet then s.periodOf w else 0)
    ∧ rule (.clockPod nw d) (if w.isDet then s.periodOf w else s.fabric.podTime)

/-! ## Atomics, COMB, the combiner group -/

/-- R124 to R129, R157: the atomics complete, each with one request for every lane that acts; the new values under i32 and ui32, and
which of them store.
Clauses rest on choices of the model: log 16 (DEDUCED: TMASK = PATH for a failing uniform access), log 27 (DEDUCED:
the atomics that a version holds), log 30 (DESIGN CHOICE: the walk of a page that no TLB holds), log 123 (DEDUCED:
what a queued access waits for); these clauses are the model's, not the spec's. -/
def Obligations.AtomicsComplete : Prop :=
  (∀ (nw : Bool) (d a b : Operand) (s : State) (w : Wave) (p : Path),
     AtomicRule (.atadd nw d a b) .add nw d a b s w p ∧ AtomicRule (.atmin nw d a b) .min nw d a b s w p
     ∧ AtomicRule (.atmax nw d a b) .max nw d a b s w p ∧ AtomicRule (.atand nw d a b) .and nw d a b s w p
     ∧ AtomicRule (.ator nw d a b) .or nw d a b s w p ∧ AtomicRule (.atxor nw d a b) .xor nw d a b s w p
     ∧ AtomicRule (.atxchg nw d a b) .xchg nw d a b s w p ∧ AtomicRule (.atcas nw d a) .cas nw d a .zero s w p)
  ∧ (∀ (r : AtomicReq) (old : DWord), (r.type = .i32 ∨ r.type = .ui32) → r.sat = false →
       let a := lo32 old
       let b := lo32 r.val
       let low := if r.type = .i32 then a.sle b else a.ule b
       let new := lo32 (r.newValue old)
       (r.op = .add → new = a + b) ∧ (r.op = .min → new = if low then a else b) ∧ (r.op = .max → new = if low then b else a)
       ∧ (r.op = .and → new = a &&& b) ∧ (r.op = .or → new = a ||| b) ∧ (r.op = .xor → new = a ^^^ b)
       ∧ (r.op = .xchg → new = b) ∧ (r.op = .cas → new = if a = lo32 r.cmp then b else a)
       ∧ (r.stores old = true ↔ ¬(r.op = .cas ∧ a ≠ lo32 r.cmp)))

/-- R131, R134 to R136, R139: COMB sends one request for every lane; in a combiner wave CMBARG gives each lane its request's
argument, CMBREPLY keeps the replies of the lanes in EXEC, and CMBEND commits where the header is kept and the path holds
every lane of the batch, and aborts with status 5 otherwise.
Clauses rest on choices of the model: log 16 (DEDUCED: TMASK = PATH for a failing uniform access), log 30 (DESIGN
CHOICE: the walk of a page that no TLB holds), log 54 (DESIGN CHOICE), log 123 (DEDUCED: what a queued access waits
for); these clauses are the model's, not the spec's. -/
def Obligations.CombAndCombiner : Prop :=
  ∀ (s : State) (w : Wave) (p : Path),
    (∀ nw d a b, w.kind = .launched → s.ReadyClear w p (combFields nw d a b) (combUniform nw d a b) → w.Plain →
      (∀ info, s.combLanes w p nw d a b = .error info →
        exec (.comb nw d a b) s = .next (s.trap w p (wordOf (.comb nw d a b)) info))
      ∧ ∀ l, s.combLanes w p nw d a b = .ok l →
        let parts := ((s.settleHolds w.id).walked w (l.map (·.2.1))).combRequests w p nw d a b l
        let s1 := parts.2.2.2.addCombOp w.id parts.2.2.1
        let msgs := parts.1.map fun r => (homeOf r.obj, HomeOp.comb r)
        let s2 := s1.sendReleased w p.mode.scope
          (s1.globalWaits w [.load, .store] (l.map (·.2.1)) (msgs.flatMap (·.2.lines))) msgs
        let cost := if combUni nw d a b p then 1 else streamCost (execMask w p)
        parts.1.map (fun r => (r.lane, r.objVa, r.obj)) = l ∧ (∀ r ∈ parts.1, r.arg = src64 w p b r.lane)
        ∧ (l = [] → s2.releases = s.releases)
        ∧ (l ≠ [] → ∃ r, s2.releases = s.releases ++ [r] ∧ r.req.wave = w.id ∧ r.act = .store msgs
            ∧ ∀ k ∈ s.directOf w.id, k ∈ r.waits.deps)
        ∧ exec (.comb nw d a b) s = .next (if nw then s2.advance p cost else s2.defer w p parts.2.1 cost))
    ∧ (∀ h b, w.kind = .combiner h → (s.home h).batch = some b →
      (∀ d, s.Ready w p [.group isVec 2 2 d] [] → s.Answers w p (.cmbarg d) false d true
        [lanesOf fun i => lo32 (b.arg i.val), lanesOf fun i => hi32 (b.arg i.val)])
      ∧ (∀ a, s.Ready w p [.group isVec 2 2 a] [] → ∃ t w' b', exec (.cmbreply a) s = .next t
        ∧ t.wave? w.id = some w' ∧ w.Went w' (p.retire (p.pc + 4)) ∧ (∀ k, k ≠ w.id → t.wave? k = s.wave? k)
        ∧ { t with waves := s.waves, homes := s.homes } = s
        ∧ (t.home h).batch = some b' ∧ { b' with replies := b.replies } = b
        ∧ (∀ i : Fin 32, inMask (execMask w p) i = true → b'.reply i.val = src64 w p a i)
        ∧ (∀ k, (∀ i : Fin 32, inMask (execMask w p) i = true → k ≠ i.val) → b'.reply k = b.reply k))
      ∧ (s.Ready w p [] [] → exec .cmbend s = .next
        (if p.mask = b.lanes ∧ b.headerKept = true then s.commitBatch h else s.abortBatch h 5 0)))

/-! ## The homes -/

/-- R51, R54, R127, R152, R154: a reply that has come whole writes its destinations in the lanes that have values, a scalar
where its one request succeeded, and nothing else of the wave; its acquire drops what the L1 holds clean.
Clauses rest on choices of the model: log 115 (DEDUCED); these clauses are the model's, not the spec's. -/
def Obligations.RepliesWrite : Prop :=
  ∀ (s : State) (id d : Nat) (w : Wave) (y : Inflight) (i : Instr), s.wave? id = some w →
    w.inflight.find? (fun x => x.id == d) = some y → y.arrived = true → y.vals ≠ [] → y.dst.Nodup →
    ((i = .loadReply id d ∧ y.kind ∈ [.load, .loadAcquire, .lds, .qpop, .tkpull]) ∨ (i = .atomicReply id d ∧ y.kind = .atomic)
      ∨ (i = .combReply id d ∧ y.kind = .comb)) →
    ∃ t w', exec i s = .next t ∧ t.wave? id = some w' ∧ (∀ k, k ≠ id → t.wave? k = s.wave? k)
      ∧ { t with waves := s.waves, cores := s.cores } = s
      ∧ ((y.acquire = none ∨ y.acquire = some .wg) → t.cores = s.cores)
      ∧ (∀ sc, y.acquire = some sc → sc ≠ .wg → ∀ sec, ((t.core w.core).sector sec).full = false)
      ∧ (∀ (r : Fin 128) (i : Fin 32), w'.v[r][i] =
          match (y.dst.zip y.vals).find? fun x => x.1 == .v r with
          | some x => if inMask y.mask i then x.2[i] else w.v[r][i]
          | none => w.v[r][i])
      ∧ (∀ r : Fin 64, w'.s[r] =
          match (y.dst.zip y.vals).find? fun x => x.1 == .s r with
          | some x => if y.uniform = true ∧ y.mask ≠ 0 then x.2[0] else w.s[r]
          | none => w.s[r])
      ∧ (∀ x ∈ w'.inflight, x.id = d → x.settled = true ∧ x.failed = y.failed ∧ x.failed ≠ [])
      ∧ { w' with v := w.v, s := w.s, inflight := w.inflight } = w

/-- R115, R116, R126, R157: a line that a home serves holds the bytes as they read before; a write to a line puts its bytes
there and no others, and fires the watches of the line; where the line was resident no byte of another line changes.
Clauses rest on choices of the model: log 46 (DESIGN CHOICE); these clauses are the model's, not the spec's. -/
def Obligations.HomeBytes : Prop :=
  ∀ (s : State) (asid : BitVec 8) (m : DWord),
    (∀ line l t, s.ensureL2 line asid m = .ok (l, t) → l.line = line ∧ t.l2Line? line = some l
      ∧ ∀ k < 128, s.homeByte (line * 128 + k) = .ok (byteAt l.data k))
    ∧ (∀ pa bs t, pa % 128 + bs.length ≤ 128 → s.homeWrite pa bs asid m = .ok t →
      (∀ k (hk : k < bs.length), t.homeByte (pa + k) = .ok bs[k])
      ∧ (∀ a, a / 128 = pa / 128 → (a < pa ∨ pa + bs.length ≤ a) → t.homeByte a = s.homeByte a)
      ∧ ((s.l2Line? (pa / 128)).isSome = true → ∀ a, a / 128 ≠ pa / 128 → t.homeByte a = s.homeByte a)
      ∧ (∀ w ∈ t.waves, ∀ x, w.watch = some x → x.line = pa / 128 → x.fired = true))

/-- R115 to R128, R141 to R145, R171, R176, R178, R186: the steps of the homes complete: reads and fills, writes, CLEAN and INVAL,
write-backs, atomics with their old value, releases and what follows them, accesses that waited in the memory queue. Bytes
under a version become version data. A message that its home cannot serve yet is no step.
Clauses rest on choices of the model: log 28 (DEDUCED), log 29 (DESIGN CHOICE), log 37 (DESIGN CHOICE), log 51 (DESIGN
CHOICE), log 52 (DESIGN CHOICE), log 53 (DESIGN CHOICE), log 56 (DESIGN CHOICE), log 124 (DESIGN CHOICE), log 137
(DESIGN CHOICE), log 139 (DESIGN CHOICE); these clauses are the model's, not the spec's. -/
def Obligations.HomeSteps : Prop :=
  ∀ (s : State) (m : Nat),
    (∀ x l t, s.served? m = some x →
      let s' := s.dropMessage m
      let q := x.req
      let fetched := s'.ensureL2 x.op.line q.asid (s.masterOf q) = .ok (l, t)
      (∀ sec infl, x.op = .fill sec infl → fetched → exec (.homeRead m) s = .next (t.serveFill q l sec infl))
      ∧ (∀ infl y, x.op = .read infl y → fetched → exec (.homeRead m) s = .next (t.serveRead q l infl y))
      ∧ (∀ pa bs u, x.op = .write pa bs → q.ver = none → s'.homeWrite pa bs q.asid (s.masterOf q) = .ok u →
          exec (.homeWrite m) s = .next (u.modCore q.core fun k => k.unclean (pa / 128)))
      ∧ (∀ pa bs v, x.op = .write pa bs → q.ver = some v → fetched → exec (.homeWrite m) s =
          .next ((t.modVersion q.part v fun y => y.write none pa bs).modCore q.core fun k => k.unclean (pa / 128)))
      ∧ (∀ line, x.op = .clean line → exec (.homeWrite m) s = .next (s'.cleanL2 line false (s.masterOf q)))
      ∧ (∀ line, x.op = .inval line → exec (.homeWrite m) s = .next (s'.cleanL2 line true (s.masterOf q)))
      ∧ (∀ pa bytes mask tag v, x.op = .sector pa bytes mask tag → q.ver = some v → fetched → exec (.sectorWriteback m) s =
          .next (t.modVersion q.part v fun y => (maskedRuns pa bytes mask).foldl (fun y z => y.write tag z.1 [z.2]) y))
      ∧ (∀ pa bytes mask y, x.op = .sector pa bytes mask none → q.ver = none → fetched → t.l2Line? (pa / 128) = some y →
          exec (.sectorWriteback m) s = .next (t.mergeSector y pa bytes mask))
      ∧ (∀ pa bytes mask tag y, x.op = .sector pa bytes mask (some tag) → q.ver = none → fetched →
          (t.tagSector (pa / 32) tag).l2Line? (pa / 128) = some y →
          exec (.sectorWriteback m) s = .next ((t.tagSector (pa / 32) tag).mergeSector y pa bytes mask))
      ∧ (∀ r old u, x.op = .atomic r →
          (r.orderSensitive && ((s.l2Line? (r.pa / 128)).map fun y => s.logBusy y.asid).getD (s.logBusy q.asid)) = false →
          s'.atomicAt q q.stamp r (s.masterOf q) = .ok (old, u) →
          exec (.atomicRequest m) s = .next ((u.modCore q.core fun k => k.unclean (r.pa / 128)).toRequester q r.infl
            fun y => y.arrive r.lane old)))
    ∧ (∀ line asid x l t, s.wanted? line asid = some x → s.l2Line? line = none →
      s.ensureL2 line asid (s.masterOf x.req) = .ok (l, t) →
      (inLineSpace (line * 128) = true → exec (.l2Fill line asid) s = .next t)
      ∧ (inExpanded (line * 128) = true → exec (.expandedRead line asid) s = .next t))
    ∧ (∀ x r, s.message? m = some x → x.op = .comb r → s.isFirst x = true → (s.home x.home).combQ.length < 1024 →
      ∃ t, exec (.combRequest m) s = .next t ∧ (t.home x.home).combQ = (s.home x.home).combQ ++ [r]
        ∧ t.message? m = none ∧ t.waves = s.waves ∧ t.mem = s.mem)
    ∧ (∀ h r rest, (s.home h).combQ = r :: rest → s.combFree h = true →
      exec (.combinerBatch h) s = .next (s.formBatch h r))
    ∧ (∀ h b w, (s.home h).batch = some b → s.wave? b.wave = some w → 4096 ≤ w.clock →
      exec (.methodInstructionLimit h) s = .next (s.abortBatch h 4 0))
    ∧ (∀ x, s.release? m = some x → s.waitsDone x.req x.waits = true →
      let s0 := s.settleHolds x.req.wave
      let s' : State := { s0 with releases := s0.releases.filter fun y => y.id != m }
      ((∀ c off n, x.act ≠ .arrive c off n) → exec (.releaseComplete m) s = .next (s'.performQueued x))
      ∧ (x.act = .none → exec (.releaseComplete m) s = .next s')
      ∧ (∀ ms, x.act = .store ms → ∃ t, exec (.releaseComplete m) s = .next t ∧ t.releases.length ≤ s.releases.length
          ∧ t.mem = s.mem ∧ ∀ k ∈ ms, (∀ c, k.2 ≠ .comb c) → ∃ y ∈ t.messages, y.home = k.1 ∧ y.op = k.2 ∧ y.req.wave = x.req.wave)
      ∧ (∀ w mask sel, x.act = .bar mask sel → s0.wave? x.req.wave = some w →
          exec (.releaseComplete m) s = .next (s'.barArrive w mask sel))
      ∧ (∀ l, x.act = .plain l → x.waits.resolve = false →
          exec (.releaseComplete m) s = .next (s'.queuedStores x l))
      ∧ (∀ w infl l f, x.act = .load infl l → s0.wave? x.req.wave = some w → w.inflight.find? (fun y => y.id == infl) = some f →
          let parts := s'.loadL1 w { f with due := 0 } (s'.relane w x.waits l)
          exec (.releaseComplete m) s = .next (parts.2.modInflight w.id infl fun _ => parts.1))
      ∧ (∀ c off n, x.act = .arrive c off n →
          exec (.releaseComplete m) s =
            .next { s0 with releases := s0.releases.map fun y => if y.id = m then { y with waits := Waits.none } else y }
          ∧ exec (.barrierArrival m) s =
            .next (State.arriveAt { s with releases := s.releases.filter fun y => y.id != m } c off n)))
    ∧ (s.served? m = none → exec (.homeRead m) s = notEnabled ∧ exec (.homeWrite m) s = notEnabled
      ∧ exec (.sectorWriteback m) s = notEnabled ∧ exec (.atomicRequest m) s = notEnabled)

/-! ## Waking, ending, freezing -/

/-- R54, R278, R321, R330, R339, R341: a path whose condition holds wakes, to execute the instruction it waits at; a drained
trap enters its handler; a wave whose lanes have exited ends; freeze records go to the ring; a frozen master is thawed,
killed or halted.
Clauses rest on choices of the model: log 84 (DESIGN CHOICE), log 85 (DESIGN CHOICE); these clauses are the model's,
not the spec's. -/
def Obligations.WaveSteps : Prop :=
  ∀ (s : State) (id : Nat) (w : Wave), s.wave? id = some w →
    (∀ tag p c, w.path? tag = some p → p.status = .blocked c → w.frozen = none → w.stopped = false → p.halted = false →
      (w.det = none → (∀ r b, c ≠ .reply r b) → (∀ i x y, c ≠ .drain i x y) → s.wakes w c = true →
        ∃ t w', exec (.waveWake id tag) s = .next t ∧ s.OnlyWave t id w'
          ∧ w'.path? tag = some { p with status := .ready, stage := .woken } ∧ { w' with paths := w.paths } = w)
      ∧ (∀ r b, c = .reply r b → w.repliesIn r = true →
        ∃ t w', exec (.waveWake id tag) s = .next t ∧ s.OnlyWave t id w'
          ∧ w'.path? tag = some { p with status := .ready, stage := .none } ∧ { w' with paths := w.paths } = w)
      ∧ (∀ info pc word, c = .drain info pc word → w.inflight.all Inflight.settled = true → w.task = none →
        ∃ t w', exec (.waveWake id tag) s = .next t ∧ s.OnlyWave t id w' ∧ w'.handler = some (p.tag, w.splits.length)
          ∧ w'.csr.pc = BitVec.ofNat 55 pc ∧ w'.csr.word = word ∧ w'.csr.faulted = w.faultedList ∧ w'.inflight = []
          ∧ ∀ q ∈ w'.paths, q.pending = [])
      ∧ (s.wakes w c = false → s.cancelNow? w = none → exec (.waveWake id tag) s = notEnabled))
    ∧ (∀ t, w.exited = true → w.frozen = none → w.inflight.all Inflight.arrived = true → w.det = none →
        s.queueLeft id = false → s.endWave w = some t →
        exec (.waveEnd id) s = .next t)
    ∧ (∀ r rest, s.freezeRecords = r :: rest →
        let wr := (s.reg Reg.frzWr).toNat
        wr + 1 < 2 ^ 64 → (wr + 2 ^ 64 - (s.reg Reg.frzRd).toNat) % 2 ^ 64 < 256 →
        s.serves ((bitsOf (s.reg Reg.frzBase).toNat 51 12 * 4096 + 16 * (wr % 256)) / 128) = true →
        ∃ t, exec .freezeRecordAppend s = .next t ∧ t.freezeRecords = rest ∧ (t.reg Reg.frzWr).toNat = wr + 1
          ∧ t.interrupts = s.interrupts ++ [.freeze])
    ∧ (∀ m : DWord, s.mastered (frzMaster m) = [w] → w.id = id → w.frozen.isSome = true → w.again = none →
        (s.freezeRecords.any fun r => r.master == frzMaster m) = false →
        ∃ t w', exec (.frzcmdThaw m) s = .next t ∧ t.wave? id = some w' ∧ w' = { w with frozen := none, again := none })
    ∧ (∀ m l, bitsOf (frzMaster m).toNat 63 60 = 1 → (s.mastered (frzMaster m)).findSome? s.launchOf? = some l →
        ((s.launchWaves l).all s.pinFree) = true → exec (.frzcmdKill m) s = .next (s.killLaunch l))
    ∧ (∀ m, s.mastered (frzMaster m) = [w] → w.frozen = none →
        (w.paths.all fun p => p.stage == .none && (match p.status with | .blocked (.drain ..) => false | _ => true)) = true →
        ∃ t w', exec (.frzcmdHalt m) s = .next t ∧ t.wave? id = some w' ∧ w'.frozen = some (7, 0x38) ∧ w'.haltReq = false)

/-! ## The copy engine -/

/-- R187, R189, R199, R200, R316: COPY, COPYM and QUANT2, their block read and checked, are issued; where the release is
complete and an entry is free the engine accepts at once, and otherwise the path waits; it waits too while its block cannot be
read. A deterministic command returns 0
and waits for step 5 of its period. A failing check traps. A command is accepted where its checks still pass: its path goes
on with the promise in its destination, and the engine holds it with its translations. The slack of a promise is a free
value.
Clauses rest on choices of the model: log 16 (DEDUCED: TMASK = PATH for a failing uniform access), log 41 (DEDUCED),
log 43 (DEDUCED), log 44 (DESIGN CHOICE), log 111 (DESIGN CHOICE); these clauses are the model's, not the spec's. -/
def Obligations.EngineCommands : Prop :=
  (∀ (nw : Bool) (d a b : Operand) (s : State) (w : Wave) (p : Path) (kind : CmdKind) (i : Instr),
     ((i, kind) = (.copy nw d a b, CmdKind.copy) ∨ (i, kind) = (.copym nw d a b, .copym) ∨ (i, kind) = (.quant2 nw d a b, .quant2)) →
     w.kind = .launched → w.holds = [] → s.quiet w = true →
     s.Ready w p ((if nw then [] else [.group isSca 2 2 d]) ++ [baseField a, .src b]) [.src b] →
     let blk := blockEa w p a b
     let s0 := s.settleHolds w.id
     (∀ c, blockAddrFault? blk (blockSize kind) = some c → exec i s = .next (s.trap w p (wordOf i) (TrapInfo.mem c p.mask blk)))
     ∧ (∀ s', blockAddrFault? blk (blockSize kind) = none → s0.blockSync w blk = some s' → exec i s = s'.stall)
     ∧ (blockAddrFault? blk (blockSize kind) = none → s0.blockSync w blk = none →
       let u := s0.blockRead w blk
       (∀ c, u.blockBytes w blk (blockSize kind) = .error c →
         exec i s = .next (u.trap w p (wordOf i) (TrapInfo.mem c p.mask blk)))
       ∧ ∀ bs, u.blockBytes w blk (blockSize kind) = .ok bs →
         (∀ info, u.checkCommand w p kind blk bs = .error info → exec i s = .next (u.trap w p (wordOf i) info))
         ∧ ∀ x, u.checkCommand w p kind blk bs = .ok x →
           let s1 : State := { u with nextId := u.nextId + 1 }
           let s2 := (s1.beginRelease w .dev).2
           let c := s2.newCommand w p kind (wordOf i) nw d blk bs x (s1.beginRelease w .dev).1 u.nextId
           let s3 := (s2.modCore w.core fun k => { k with engine := k.engine ++ [c] }).modCurPath fun q =>
             { q with stage := .command u.nextId, swDone := true }
           (w.isDet = false → exec i s = .next (if s3.canAccept w.core c then s3.acceptCommand w.core c else s3))
           ∧ (w.isDet = true → ∃ t w' c', exec i s = .next t ∧ t.wave? w.id = some w'
               ∧ w.Delivered { w' with holds := w.holds } p nw d false (execMask w p) [splat 0, splat 0]
               ∧ (t.core w.core).engine = (s.core w.core).engine ++ [c'] ∧ c'.det = true ∧ c'.state = .issued ∧ c'.blk = bs)))
  ∧ (∀ (s : State) (core : Fin 256) (id : Nat) (c : EngCmd) (w : Wave) (p : Path),
       s.cmd? core id = some c → s.canAccept core c = true → s.wave? c.req.wave = some w →
       w.paths.find? (fun q => q.stage == .command id) = some p → w.path? p.tag = some p →
       (∀ info, s.checkCommand w p c.kind c.blkVa c.blk = .error info → exec (.commandAccept core id) s =
         .next (((s.dropCmd core id).modPath w.id p.tag fun q => { q with stage := .none }).trap
           (w.modPath p.tag fun q => { q with stage := .none }) p c.word info))
       ∧ ∀ x, s.checkCommand w p c.kind c.blkVa c.blk = .ok x →
         let promise := s.tick + 1 + Config.promiseSlack s.freeCtr
         ∃ t w' c', exec (.commandAccept core id) s = .next t ∧ t.wave? w.id = some w'
           ∧ w.Delivered w' p c.dst.isNone (match c.dst with | some r => .s r | none => .zero) false 0
               [splat (lo32 (BitVec.ofNat 64 promise)), splat (hi32 (BitVec.ofNat 64 promise))]
           ∧ (∀ k, k ≠ w.id → t.wave? k = s.wave? k) ∧ t.mem = s.mem ∧ t.homes = s.homes
           ∧ t.cmd? core id = some c' ∧ c'.state = .accepted ∧ c'.promise = promise ∧ c'.srcPages = x.src
           ∧ c'.dstPages = x.dst ∧ c'.release = none ∧ c'.kind = c.kind ∧ c'.blk = c.blk)

/-- R202, R203, R204, R205: ENGWAIT, SLEEPUNTIL and PUBLISH complete. A PUBLISH holds those later accesses of its wave that resolve
through its entry.
Clauses rest on choices of the model: log 16 (DEDUCED: TMASK = PATH for a failing uniform access), log 39 (DEDUCED),
log 40 (DEDUCED), log 48 (DEDUCED); these clauses are the model's, not the spec's. -/
def Obligations.EngineWaits : Prop :=
  ∀ (s : State) (w : Wave) (p : Path), w.kind = .launched → w.det = none →
    let s1 := s.switched w p
    let w1 := w.switched p
    (∀ a b, s.ReadySwitch w p (uniFields [a, b]) (uniFields [a, b]) →
      let o := (srcUni w p a).toNat
      let ph := bitsOf (srcUni w p b).toNat 14 0
      (∀ c, s1.barWord? w1 o = .error c →
        exec (.engwait a b) s = .next (s1.trap w1 p.atSwitch (wordOf (.engwait a b)) (TrapInfo.mem c p.mask o)))
      ∧ (∀ x, s1.barWord? w1 o = .ok x → exec (.engwait a b) s =
          .next (if barPhase (s1.barWord w.gang o) ≠ ph ∧ s1.engineBusy w1 o = false then (s1.acquire w.core .dev).advance p 1
            else s1.block (.engine o ph))))
    ∧ (∀ a, s.ReadySwitch w p [.group isSca 2 2 a] [] →
      let tk := (scalar64 w a).toNat
      (s.tick < tk → exec (.sleepuntil a) s = .next (s1.block (.tick tk)))
      ∧ (tk ≤ s.tick → (∀ c ∈ (s.core w.core).accepted, c.req.wave = w.id → tk < c.promise) →
          ∃ t w', exec (.sleepuntil a) s = .next t ∧ s.OnlyWaveSwitched t w.id w'
            ∧ w.Went w' (p.atSwitch.retire (p.pc + 4)))
      ∧ (tk ≤ s.tick → w.handler = none → ∀ c, s.missed? w tk = some c → exec (.sleepuntil a) s =
          .next ((s.modWave w.id fun x => { x with missed := none }).trap w p (wordOf (.sleepuntil a)) (missedInfo c)))
      ∧ (tk ≤ s.tick → w.handler ≠ none → ∀ c, s1.missed? w1 tk = some c → exec (.sleepuntil a) s =
          .next (s1.trap w1 p.atSwitch (wordOf (.sleepuntil a)) (missedInfo c))))
    ∧ (∀ a, s.ReadyClear w p (uniFields [a]) (uniFields [a]) → w.holds = [] →
      ∀ e, s.pubEntry? w (srcUni w p a) = some e → s.hiddenFailed.contains (pubKey w e) = false →
        ∃ t w' x r h, exec (.publish a) s = .next t ∧ t.wave? w.id = some w'
          ∧ w.Went { w' with holds := w.holds } (p.retire (p.pc + 4)) ∧ w'.holds = [h]
          ∧ t.publishes = s.publishes ++ [x] ∧ x.remap = e.1 ∧ x.wg = e.2.1 ∧ x.entry = e.2.2
          ∧ x.commands = s.hiddenCommands w e ∧ t.releases = s.releases ++ [r] ∧ r.id = x.release ∧ r.act = .none
          ∧ h.deps = [x.id] ∧ h.classes = [.load, .store, .scratch, .engine] ∧ h.through = some e
          ∧ t.mem = s.mem ∧ t.homes = s.homes)

/-- R141, R181, R182, R187 to R189, R193, R205: an accepted command lands with its bytes, one of them perhaps ahead, or fails with a
cause of its own, a drive answers, and a PUBLISH takes effect at one instant. The engine works on lines at their homes, behind
its core's own bytes of them, which a step before sends home.
Clauses rest on choices of the model: log 33 (DESIGN CHOICE), log 36 (DESIGN CHOICE), log 37 (DESIGN CHOICE), log 45
(DESIGN CHOICE), log 130 (DESIGN CHOICE); these clauses are the model's, not the spec's. -/
def Obligations.EngineSteps : Prop :=
  ∀ (s : State) (core : Fin 256) (id : Nat),
    (∀ lines asid go, (s.homesFree core lines = true → s.atHomes core lines asid go = go (s.atHome core lines asid))
      ∧ (lines.any (s.core core).dirtyLine = true → s.atHomes core lines asid go = .next (s.dropCopies core lines)))
    ∧ (∀ c p, s.cmd? core id = some c → s.engineGoes core c = true → s.homesFree core (s.linesOfCmd core c) = true →
      let u := s.atHome core (s.linesOfCmd core c) c.req.asid
      c.det = false → u.readyPlan? core c = some p → p.crosses = false →
      (p.causes = [] → u.followRoom core c = true →
        exec (.commandLanded core { cmd := id, early := none }) s = .next ((u.dropCmdOps c).landCmd core c (p.rest c)))
      ∧ (∀ n t, u.writeEarly? core c p n = some t → exec (.commandLanded core { cmd := id, early := some n }) s = .next t)
      ∧ (∀ n e t, (p.rest c).writes[n]? = some e → u.writeEarly? core c p n = some t →
          ∃ c', t.cmd? core id = some c' ∧ c'.early = c.early ++ [(e.space, e.addr)] ∧ c'.state = c.state))
    ∧ (∀ c p, s.cmd? core id = some c → s.engineFrozen core = false → c.sided 4 = false → c.det = false →
      s.readyPlan? core c = some p → p.crosses = false →
      (∀ cause : BitVec 8, cause.toNat ∈ p.causes → s.homesFree core (s.readsOf core c ++ (p.rest c).lines c) = true →
        let u := s.atHome core (s.readsOf core c ++ (p.rest c).lines c) c.req.asid
        exec (.commandFailed core id cause 0) s = .next ((u.dropCmdOps c).failCmd core c (p.rest c) cause.toNat 0))
      ∧ (∀ cause : BitVec 8, cause.toNat ∉ p.causes → exec (.commandFailed core id cause 0) s = notEnabled))
    ∧ (∀ c, s.cmd? core id = some c → s.engineGoes core c = true → s.homesFree core (s.linesOfCmd core c) = true →
      let u := s.atHome core (s.linesOfCmd core c) c.req.asid
      u.readyPlan? core c = none → c.state = .accepted → c.det = false → c.sided 5 = true → (u.sendPlan core c).crosses = false →
      (u.sendPlan core c).causes = [] →
      exec (.commandLanded core { cmd := id, early := none }) s = .next (u.sendRuns core c (u.sendPlan core c)))
    ∧ (∀ c data status, s.cmd? core id = some c → s.engineFrozen core = false → c.state = .accepted → c.det = false →
      c.sided 4 = true → (CopyBlock.ofBytes c.blk).sspace = 4 → data.length = (CopyBlock.ofBytes c.blk).total →
      (CopyBlock.ofBytes c.blk).dspace ≠ 4 →
      let plan := s.planOf core c data
      let p : EngPlan := { plan with writes := plan.writes.filter fun w => w.space != .archive }
      s.homesFree core (s.readsOf core c ++ p.lines c) = true →
      let u := s.atHome core (s.readsOf core c ++ p.lines c) c.req.asid
      (status ≠ 0 → exec (.nvmeCompletion core id status data) s = .next (u.failCmd core c p 0x0A status))
      ∧ (status = 0 → p.causes = [] → s.followRoom core c = true →
          exec (.nvmeCompletion core id status data) s = .next (u.landCmd core c p)))
    ∧ (∀ k x, s.publishes[k]? = some x → (s.releases.any fun r => r.id == x.release) = false →
      (x.commands.any fun c => (s.cmd? c.1 c.2).isSome) = false → ((s.publishes.take k).any fun y => x.same y) = false →
      s.pubBusy x = false →
      ∃ t, exec (.publishInstant k) s = .next t ∧ t.publishes = s.publishes.eraseIdx k
        ∧ (x.remap = true → { t with gangs := s.gangs, publishes := s.publishes } = s
          ∧ ∀ g, s.wg? x.gang x.wg = some g → ∃ g', t.wg? x.gang x.wg = some g' ∧ { g' with remap := g.remap } = g
            ∧ ∀ j : Fin 8, g'.remap[j] = if j.val = x.entry then g.remap[j] ^^^ 0x80000000#32 else g.remap[j]))

/-! ## The matrix array -/

/-- R208, R212, R216, R221, R223, R226, R227, R228: MMA, the ACC group and the shelf loads enter the array queue, their row
groups claimed; a full queue holds the pipe. ROT rotates at once, and a byte that is lost raises ECC_UNCORR. A group of another
context raises ACC_OWNED, a bad descriptor MEM_FAULT, and CBLD and ROTLD outside a system context raise PRIVILEGED.
Clauses rest on choices of the model: log 16 (DEDUCED: TMASK = PATH for a failing uniform access), log 22 (DESIGN
CHOICE: a TADDR that no rule states), log 39 (DEDUCED); these clauses are the model's, not the spec's. -/
def Obligations.MatrixInstructions : Prop :=
  ∀ (a d : Operand) (s : State) (w : Wave) (p : Path), w.kind = .launched → w.holds = [] →
    let s0 := s.settleHolds w.id
    let word := srcUni w p a
    let lanes := execMask w p
    let enter := fun (u : State) (gs : List (Fin 16)) (op : ArrayOp) => ((u.claimGroups w.core w.asid gs).enterArray w p op).2
    let ty := p.mode.type
    let reg := if ty = .pair then Field.group isVec 2 2 d else .group isVec 1 1 d
    let full := s.arrayRoom w = false
    let refused := fun (i : Instr) (gs : List (Fin 16)) => s.refusedGroups w.core w.asid gs ≠ 0 → exec i s = .next (s.trap w p
      (wordOf i) { TrapInfo.plain .accOwned with info := BitVec.ofNat 32 (s.refusedGroups w.core w.asid gs) })
    let bad := fun (v : State) (code : TrapCode) (m : Mask) (i : Instr) =>
      exec i s = .next ((v.freeMem code m).2.trap w p (wordOf i) (v.freeMem code m).1)
    (∀ b, s.Ready w p [baseField a, .src b] [.src b] →
      let i := Instr.mma a b
      let blk := blockEa w p a b
      (∀ c, blockAddrFault? blk 64 = some c → exec i s = .next (s.trap w p (wordOf i) (TrapInfo.mem c p.mask blk)))
      ∧ (∀ s', blockAddrFault? blk 64 = none → s0.blockSync w blk = some s' → exec i s = s'.stall)
      ∧ (blockAddrFault? blk 64 = none → s0.blockSync w blk = none →
        let u := s0.blockRead w blk
        (∀ c, u.blockBytes w blk 64 = .error c → exec i s = .next (u.trap w p (wordOf i) (TrapInfo.mem c p.mask blk)))
        ∧ ∀ bs, u.blockBytes w blk 64 = .ok bs →
          (∀ info, u.mmaFault? w p blk bs = some info → exec i s = .next (u.trap w p (wordOf i) info))
          ∧ (u.mmaFault? w p blk bs = none → u.arrayRoom w = false → exec i s = u.stall)
          ∧ (u.mmaFault? w p blk bs = none → u.arrayRoom w = true → exec i s =
              .next ((enter u (MmaBlock.ofBytes bs).groups (.mma blk bs 0 none none)).advance p 1))))
    ∧ (s.Ready w p [.src a] [.src a] →
      (AccRegion.ofWord? word = none → bad s .memFault p.mask (.accz a))
      ∧ ∀ r, AccRegion.ofWord? word = some r → refused (.accz a) r.groups ∧ (s.refusedGroups w.core w.asid r.groups = 0 →
        (full → exec (.accz a) s = s.stall)
        ∧ (s.arrayRoom w = true → exec (.accz a) s = .next ((enter s r.groups (.accz word)).advance p 1))))
    ∧ (s.Ready w p [reg, .src a] [.src a] → ∀ i, (i = .accrd d a ∧ accType ty = true
          ∨ i = .accwr d a ∧ (ty = .fp32 ∨ ty = .pair)) →
      (accRow? word = none → bad s .memFault p.mask i)
      ∧ ∀ row col, accRow? word = some (row, col) → refused i [Fin.ofNat 16 (row / 16)]
        ∧ (s.refusedGroups w.core w.asid [Fin.ofNat 16 (row / 16)] = 0 → full → exec i s = s.stall))
    ∧ (∀ row col, s.Ready w p [reg, .src a] [.src a] → accRow? word = some (row, col) →
        s.refusedGroups w.core w.asid [Fin.ofNat 16 (row / 16)] = 0 → s.arrayRoom w = true →
      (accType ty = true → ∃ t w' f e, exec (.accrd d a) s = .next t ∧ t.wave? w.id = some w' ∧ w.Issued w' p f
        ∧ f.kind = .accrd ∧ f.dst = dstRegs (ty == .pair) d ∧ f.mask = lanes ∧ f.due = lanes
        ∧ (t.core w.core).arrayQ = (s.core w.core).arrayQ ++ [e] ∧ e.op = .accrd row col lanes p.mode f.id
        ∧ (∀ k, k ≠ w.id → t.wave? k = s.wave? k) ∧ t.mem = s.mem ∧ t.homes = s.homes)
      ∧ (ty = .fp32 ∨ ty = .pair → exec (.accwr d a) s = .next ((enter s [Fin.ofNat 16 (row / 16)] (.accwr row col lanes
          (lanesOf fun i => lo32 (srcOf (ty == .pair) w p d i)) (lanesOf fun i => hi32 (srcOf (ty == .pair) w p d i)))).advance p
            (streamCost lanes))))
    ∧ (s.Ready w p [.group isSca 2 2 d, .src a] [.src a] → accType ty = true →
      let i := Instr.acccvt d a
      let off := (lo32 (scalar64 w d)).toNat
      let pitch := (hi32 (scalar64 w d)).toNat
      (AccRegion.ofWord? word = none → bad s .memFault p.mask i)
      ∧ ∀ r, AccRegion.ofWord? word = some r →
        (∀ c o, s.rangeFault? w.gang (acccvtRanges r off pitch (accWidth ty)) = some (c, o) →
          exec i s = .next (s.trap w p (wordOf i) (TrapInfo.mem c p.mask o)))
        ∧ (s.rangeFault? w.gang (acccvtRanges r off pitch (accWidth ty)) = none → s0.refusedGroups w.core w.asid r.groups = 0 →
          let op := ArrayOp.acccvt word off pitch p.mode
          let u := enter s0 r.groups op
          (s0.arrayRoom w = false → exec i s = s0.stall)
          ∧ (s0.arrayRoom w = true → exec i s = .next ((if w.isDet then u else u.addHold w.id
              { classes := [.scratch], through := none, deps := [((s0.claimGroups w.core w.asid r.groups).enterArray w p op).1],
                loads := [], commands := [], netOps := [], acquire := false }).advance p 1))))
    ∧ (∀ rot pages, s.Ready w p [baseField a] [] →
      let i := if rot then Instr.rotld a else .cbld a
      let va := (scalar64 w a).toNat
      (w.system = false → exec i s = .next (s.trap w p (wordOf i) (TrapInfo.plain .privileged)))
      ∧ (w.system = true → blockAddrFault? va 128 = none → s.imagePages w va (shelfSize rot) = .ok pages → full →
          exec i s = s.stall)
      ∧ (w.system = true → blockAddrFault? va 128 = none → s.imagePages w va (shelfSize rot) = .ok pages →
          s.arrayRoom w = true → ∃ t w' e, exec i s = .next t ∧ t.wave? w.id = some w' ∧ (t.core w.core).arrayQ.getLast? = some e
          ∧ (t.core w.core).arrayQ.length = (s.core w.core).arrayQ.length + 1 ∧ e.op = .shelf rot va pages
          ∧ w'.path? p.tag = some { p with stage := .entry e.id, swDone := true } ∧ { w' with paths := w.paths } = w))
    ∧ (s.Ready w p [.group isVec 2 2 d, .group isVec 2 2 a] [] → ty = .fp32 → (s.core w.core).rotLoading = false →
      let z := fun (i : Fin 32) => (s.core w.core).rotLane (lo32 (src64 w p a i)) (hi32 (src64 w p a i))
        (lo32 (src64 w p d i)) (hi32 (src64 w p d i))
      (s.rotLost w p a = 0 → s.Answers w p (.rot d a) false d true [lanesOf fun i => (z i).1, lanesOf fun i => (z i).2])
      ∧ (s.rotLost w p a ≠ 0 → bad s .eccUncorr (s.rotLost w p a) (.rot d a)))

/-- R208, R212, R217, R220, R221, R223 to R227: the array executes its entries in order: ACCZ, ACCRD and ACCWR on the pairs they
name, an MMA step by step until one meets a byte that is lost, a shelf load whole; a step replayed gives what it gives alone;
free groups that are claimed read zero; the owner and stretch registers.
Clauses rest on choices of the model: log 49 (DEDUCED), log 125 (DESIGN CHOICE); these clauses are the model's, not
the spec's. -/
def Obligations.ArraySteps : Prop :=
  ∀ (s : State) (core : Fin 256),
    (∀ e word r, (s.core core).head? = some e → e.op = .accz word → AccRegion.ofWord? word = some r →
      SMap.wf (fun _ => 0) (s.core core).acc = true →
      ∃ t, exec (.arrayEntryExecute core) s = .next t ∧ t.waves = s.waves ∧ t.mem = s.mem
        ∧ ∀ i j, j < 128 → (t.core core).accPair i j =
            if r.row ≤ i ∧ i < r.row + r.rows ∧ r.col ≤ j ∧ j < r.col + r.cols then (0, 0) else (s.core core).accPair i j)
    ∧ (∀ e row col lanes h l, (s.core core).head? = some e → e.op = .accwr row col lanes h l → col ≤ 96 →
      SMap.wf (fun _ => 0) (s.core core).acc = true →
      ∃ t, exec (.arrayEntryExecute core) s = .next t ∧ t.waves = s.waves ∧ t.mem = s.mem
        ∧ (∀ i : Fin 32, inMask lanes i = true → (t.core core).accPair row (col + i.val) = (h[i], l[i]))
        ∧ ∀ i j, j < 128 → (i ≠ row ∨ ∀ k : Fin 32, inMask lanes k = true → j ≠ col + k.val) →
            (t.core core).accPair i j = (s.core core).accPair i j)
    ∧ (∀ e row col lanes mode infl w f, (s.core core).head? = some e → e.op = .accrd row col lanes mode infl →
      s.wave? e.req.wave = some w → w.inflight.find? (fun x => x.id == infl) = some f → f.dst.length ≤ 2 →
      ∃ t, exec (.arrayEntryExecute core) s = .next t ∧ t.mem = s.mem
        ∧ t.wave? w.id = some (w.settleInflight
            { f with vals := ([lanesOf fun i => lo32 (accValue mode ((s.core core).accPair row (col + i.val))),
                               lanesOf fun i => hi32 (accValue mode ((s.core core).accPair row (col + i.val)))] : List Lanes).take f.dst.length, due := 0 }))
    ∧ (∀ e word off pitch mode r, (s.core core).head? = some e → e.op = .acccvt word off pitch mode →
      AccRegion.ofWord? word = some r → ∃ t, exec (.arrayEntryExecute core) s = .next t ∧ t.waves = s.waves ∧ t.mem = s.mem
        ∧ (t.core core).acc = (s.core core).acc)
    ∧ (∀ e rot va pages, (s.core core).head? = some e → e.op = .shelf rot va pages →
      s.homesFree core (imageLines rot va pages) = true → exec (.arrayEntryExecute core) s =
        .next ((s.atHome core (imageLines rot va pages) e.req.asid).shelfLoad core e rot va pages))
    ∧ (∀ e va blk n delta cmd r, (s.core core).head? = some e → e.op = .mma va blk n delta cmd →
      let m := MmaBlock.ofBytes blk
      AccRegion.ofWord? m.region = some r →
      let ds := delta.getD (s.mmaDelta e.gang m r)
      (deltaOk ds = false → exec (.mmaStep core false) s = .next (s.endMma core e va m.done cmd (some 0x10)))
      ∧ (deltaOk ds = true → s.stepLost core e.gang m r ds n = true →
          exec (.mmaStep core false) s = .next (s.endMma core e va m.done cmd (some 0x0C)))
      ∧ (deltaOk ds = true → s.stepLost core e.gang m r ds n = false →
        let goes := fun (u : State) => if n < m.nst then
            (u.mmaOne core e.gang m r ds n).modEntry core e.id (.mma va blk (n + 1) (some ds) cmd)
          else (u.mmaOne core e.gang m r ds n).endMma core e va m.done cmd none
        exec (.mmaStep core false) s = .next (goes s)
        ∧ (s.noReplay core e.gang m r ds n = true → exec (.mmaStep core true) s = notEnabled)
        ∧ (s.noReplay core e.gang m r ds n = false → exec (.mmaStep core true) s =
            .next (goes ((s.setReg (Reg.mg core 0x18) (s.reg (Reg.mg core 0x18) + 1)).count (.core core) 0x18 1)))))
    ∧ (∀ asid gs g, g ∈ gs → s.regBit (Reg.accOwn core g.val) 63 = false →
      let t := s.claimGroups core asid gs
      t.reg (Reg.accOwn core g.val) = BitVec.ofNat 64 (2 ^ 63 + asid.toNat) ∧ ∀ i j, i / 16 = g.val → j < 128 →
        (t.core core).accPair i j = (0, 0))
    ∧ (∀ g value, s.ownerBusy core g = false → ∃ t, exec (.accownWrite core g value) s = .next t
      ∧ { t with regs := s.regs } = s ∧ (value.getLsbD 63 = true →
          (t.reg (Reg.accOwn core g.val)) = BitVec.ofNat 64 (2 ^ 63 + value.toNat % 256)))
    ∧ (∀ g value, s.ownerBusy core g = true → exec (.accownWrite core g value) s = .next s)
    ∧ (∀ value : DWord, (value.toNat % 16 = 0 → exec (.mgstrWrite core value) s = .next s)
      ∧ (value.toNat % 16 ≠ 0 → ∃ t, exec (.mgstrWrite core value) s = .next t ∧ { t with regs := s.regs } = s
          ∧ (SMap.wf regReset s.regs = true → t.reg (Reg.mg core 0x10) = BitVec.ofNat 64 (value.toNat % 16))))

/-! ## Segments, links, tasks -/

/-- R351 to R355: the SEG group at a running catalogue. SEGREF finds the entry of a call and takes a reference on a sealed
one; SEGOPEN takes its first free place; SEGSEAL and SEGDROP, behind their release, change the entry that they name.
LINK_STATE where there is no catalogue, and where the block or the entry is not as the rules ask.
Clauses rest on choices of the model: log 56 (DESIGN CHOICE), log 58 (DEDUCED); these clauses are the model's, not the
spec's. -/
def Obligations.SegInstructions : Prop :=
  ∀ (nw : Bool) (d a : Operand) (s : State) (w : Wave) (p : Path), w.kind = .launched →
    let dst := if nw then [] else [Field.group isSca 1 1 d]
    let s0 := s.settleHolds w.id
    let ea := (scalar64 w a).toNat
    let x := (srcUni w p a).toNat
    let traps := fun (u : State) (i : Instr) => exec i s = .next (u.trap w p (wordOf i) linkState)
    let tells := fun (u : State) (i : Instr) (outcome status n : Nat) =>
      exec i s = .next (u.result w p nw d false [splat (segResult outcome status n)])
    let takes := fun (u : State) (i : Instr) (c : Catalogue) (n : Nat) (e : CatEntry) =>
      tells ((u.catWrite c w.asid n (e.setRefc (e.refc + 1))).acquire w.core .dev) i 1 0 n
    let indexed := fun (i : Instr) => s.ReadyClear w p (uniFields [a]) (uniFields [a]) ∧ s.releasedFor w = true
      ∧ (i = .segdrop a ∨ i = .segseal a ∧ s.commandsOut w = false)
    (s.catalogue? w.part = none →
      (s.ReadyClear w p (dst ++ [.group isSca 4 4 a]) [] → traps s (.segref nw d a))
      ∧ ∀ i, indexed i → traps s i)
    ∧ ∀ c, s.catalogue? w.part = some c → s.catStopped = false →
      (s.ReadyClear w p (dst ++ [.group isSca 4 4 a]) [] →
        let i := Instr.segref nw d a
        ((c.places (callOf w a)).any (s.catBusy c) = true → exec i s = s.stall)
        ∧ ((c.places (callOf w a)).any (s.catBusy c) = false →
          let u := s.catVisit c (c.places (callOf w a))
          ∀ found free, u.catFind c (callOf w a) = .ok (found, free) →
          (found = none → tells u i 3 2 0)
          ∧ ∀ n e, found = some (n, e) → u.catBusy c n = false →
            (e.state = 2 → takes u i c n e) ∧ (e.state = 1 → tells u i 2 0 n) ∧ (e.state = 3 → tells u i 3 3 n)))
      ∧ (s.ReadyClear w p (dst ++ [baseField a]) [] → w.holds = [] →
        let i := Instr.segopen nw d a
        (∀ k, blockAddrFault? ea 64 = some k → exec i s = .next (s.trap w p (wordOf i) (TrapInfo.mem k p.mask ea)))
        ∧ (∀ s', blockAddrFault? ea 64 = none → s0.blockSync w ea = some s' → exec i s = s'.stall)
        ∧ (blockAddrFault? ea 64 = none → s0.blockSync w ea = none →
          let v := s0.blockRead w ea
          (∀ k, v.blockBytes w ea 64 = .error k → exec i s = .next (v.trap w p (wordOf i) (TrapInfo.mem k p.mask ea)))
          ∧ ∀ bs, v.blockBytes w ea 64 = .ok bs → v.catalogue? w.part = some c → v.catStopped = false →
          let b := OpenBlock.ofBytes bs
          (v.openOk w.part b = false → traps v i)
          ∧ (v.openOk w.part b = true → (c.places b.call).any (v.catBusy c) = true → exec i s = v.stall)
          ∧ (v.openOk w.part b = true → (c.places b.call).any (v.catBusy c) = false →
            let u := v.catVisit c (c.places b.call)
            ∀ found free, u.catFind c b.call = .ok (found, free) →
            (∀ n e, found = some (n, e) → e.state = 2 → (e.geo ≠ b.geo ∨ e.n ≠ b.n) → traps u i)
            ∧ (∀ n e, found = some (n, e) → e.state = 2 → e.geo = b.geo → e.n = b.n → u.catBusy c n = false → takes u i c n e)
            ∧ (∀ n e, found = some (n, e) → u.catBusy c n = false → (e.state = 1 → tells u i 2 0 n) ∧ (e.state = 3 → tells u i 3 3 n))
            ∧ (found = none → free = none → tells u i 3 1 0)
            ∧ (∀ f, found = none → free = some f → u.catBusy c f = false →
                tells (u.catWrite c w.asid f (b.entry w.asid)) i 0 0 f))))
      ∧ (∀ i, indexed i → 2 ^ c.k ≤ x → traps s i)
      ∧ (x < 2 ^ c.k → s.catBusy c x = false → ∀ e, s.catRead c x = .ok e →
        let own := e.state = 1 ∧ e.opener = w.asid.toNat
        (indexed (.segseal a) →
          (own → exec (.segseal a) s = .next ((s.catWrite c w.asid x (e.setState 2)).advance p 1))
          ∧ (¬own → traps s (.segseal a)))
        ∧ (indexed (.segdrop a) →
          (own ∧ e.refc = 1 → exec (.segdrop a) s = .next ((s.catWrite c w.asid x CatEntry.free).advance p 1))
          ∧ (e.state = 2 ∧ 1 ≤ e.refc →
              exec (.segdrop a) s = .next ((s.catWrite c w.asid x (e.setRefc (e.refc - 1))).advance p 1))
          ∧ (¬(own ∧ e.refc = 1) → ¬(e.state = 2 ∧ 1 ≤ e.refc) → traps s (.segdrop a))))

/-- R353, R359 to R362, R365: LINK and UNLINK issue a request behind their release, which is performed at once where it has
reached its map and no other waits there; a LINK of a version is held. CTXPIN pins the current slot and answers with its
image; CTXUNPIN drops the pin and retires a slot that nothing keeps live. Of a request at its map that no status ends, the
records are cancelled and the edition is committed then, where a slot, the task table and the catalogue let it; statuses,
selects and refusals end at the check. An unlinking that drops a reference waits while the catalogue is stopped. Release
records go to their ring, while it has room.
Clauses rest on choices of the model: log 35 (DEDUCED), log 56 (DESIGN CHOICE), log 58 (DEDUCED), log 59 (DEDUCED),
log 60 (DEDUCED), log 61 (DESIGN CHOICE), log 62 (DEDUCED), log 63 (DESIGN CHOICE), log 64 (DESIGN CHOICE), log 115
(DEDUCED); these clauses are the model's, not the spec's. -/
def Obligations.LinksAndPins : Prop :=
  (∀ (s : State) (w : Wave) (p : Path), w.kind = .launched →
     (∀ (nw : Bool) (d a b : Operand) (unlink : Bool),
       let i := if unlink then Instr.unlink nw d a b else .link nw d a b
       let words := if unlink then (srcUni w p b, 0, 0) else linkWords w b
       let va := (scalar64 w a).toNat
       s.ReadyClear w p ((if nw then [] else [.group isSca 2 2 d]) ++ [baseField a, if unlink then .src b else .group isSca 4 4 b])
           (if unlink then [.src b] else []) →
       (w.versioned = true → unlink = false ∧ nw = true) →
       (∀ info, s.linkCheck w p va = .error info → exec i s = .next (s.trap w p (wordOf i) info))
       ∧ (∀ pa, s.linkCheck w p va = .ok pa →
         (s.catalogue? w.part = none ∨ unlink = false ∧ linkBad words.1 words.2.1 words.2.2 = true →
           exec i s = .next (s.trap w p (wordOf i) linkState))
         ∧ (s.catalogue? w.part ≠ none → (unlink = false → linkBad words.1 words.2.1 words.2.2 = false) →
           let r : LinkReq := { unlink := unlink, mapVa := va, mapPa := pa, w0 := words.1, w1 := words.2.1, w2 := words.2.2,
                                asid := w.asid, part := w.part }
           let held := if unlink = false ∧ nw = true then s.versionOf? w else none
           let rel := if w.isDet then (none, s) else s.beginRelease w .dev
           let o : LinkOp := { id := rel.2.nextId, wave := some w.id, req := r, release := rel.1, work := none,
                               dst := if nw then none else some (scaReg d), word := wordOf i }
           let s1 : State := { rel.2 with nextId := rel.2.nextId + 1, linkOps := rel.2.linkOps ++ [o] }
           let s2 := s1.modCurPath fun (q : Path) => { q with stage := .link o.id, swDone := true }
           (∀ v, held = some v → exec i s = .next ((s.modVersion v.part v.ver fun (x : Version) =>
             { x with links := x.links ++ [r] }).result w p nw d false [splat 0, splat 0]))
           ∧ (held = none → exec i s = .next
               (if s2.linkArrived o = false ∨ rel.2.linkBehind rel.2.linkOps pa = true then s2 else s2.linkGo o none)))))
     ∧ (∀ nw d a, s.ReadyClear w p ((if nw then [] else [.group isSca 2 2 d]) ++ [baseField a]) [] →
       let i := Instr.ctxpin nw d a
       let va := (scalar64 w a).toNat
       (∀ info, s.linkCheck w p va = .error info → exec i s = .next (s.trap w p (wordOf i) info))
       ∧ ∀ pa, s.linkCheck w p va = .ok pa →
         (w.pin ≠ none → exec i s = .next (s.trap w p (wordOf i) linkState))
         ∧ (w.pin = none → s.mapBusy pa = false →
           (s.mapHead pa w.part = .error .linkState → exec i s = .next (s.trap w p (wordOf i) linkState))
           ∧ ∀ h, s.mapHead pa w.part = .ok h →
             let s1 := (s.visit pa 128 w.asid).acquire w.core .dev
             let n := h.pinsOf h.cur
             let r := BitVec.ofNat 64 (va + imageOff h.cur)
             (65535 ≤ n → exec i s = .next (s1.result w p nw d false [splat 0, splat 0]))
             ∧ (n < 65535 → exec i s = .next (((s1.setPins pa h.cur (n + 1) w.asid).modWave w.id fun (x : Wave) =>
                 { x with pin := some (va, pa, Fin.ofNat 8 h.cur) }).result w p nw d false [splat (lo32 r), splat (hi32 r)]))))
     ∧ (s.ReadyClear w p [] [] →
       (w.pin = none → exec .ctxunpin s = .next (s.trap w p (wordOf .ctxunpin) linkState))
       ∧ ∀ va pa k, w.pin = some (va, pa, k) → s.pinLoads w = false → s.pinCommands w = false →
         (s.mapBusy pa = true ∨ s.unpinWaits w = true → exec .ctxunpin s = s.stall)
         ∧ (s.mapBusy pa = false → s.unpinWaits w = false → ∀ h, s.mapHead pa w.part = .ok h →
           let n := h.pinsOf k.val - 1
           let h' := { h with pins := h.pins.set k.val n }
           let s1 := ((s.visit pa 128 w.asid).setPins pa k.val n w.asid).modWave w.id fun (x : Wave) => { x with pin := none }
           exec .ctxunpin s = .next ((if h'.live k.val = true then s1 else s1.retireSlot pa h' w.part k.val).advance p 1))))
  ∧ (∀ (s : State) (k : Nat),
       (∀ o, s.linkAt? k = some o → o.work = none →
         (s.linkRun o.req none = .wait → exec (.linkMethod k) s = notEnabled)
         ∧ (∀ t st ed, s.linkRun o.req none = .done t st ed →
             exec (.linkMethod k) s = .next ((t.dropLink o).linkReply o (.ok (st, ed))))
         ∧ (∀ c, s.linkRun o.req none = .trap c → exec (.linkMethod k) s = .next ((s.dropLink o).linkReply o (.error c)))
         ∧ (∀ t b, s.linkRun o.req none = .build t b → o.req.isSelect = false → exec (.linkMethod k) s =
             .next { t with linkOps := t.linkOps.map fun (x : LinkOp) => if x.id = o.id then { x with work := some b } else x })
         ∧ (∀ t b u ed, s.linkRun o.req none = .build t b → o.req.isSelect = true →
             (t.dropLink o).linkCommit o.req b = some (u, ed) → exec (.linkMethod k) s = .next (u.linkReply o (.ok (0, ed)))))
       ∧ (∀ o b, s.linkAt? k = some o → o.work = some b →
         (∀ t ed, (s.dropLink o).linkCommit o.req b = some (t, ed) →
           exec (.editionCommit k) s = .next (t.linkReply o (.ok (0, ed))))
         ∧ ((s.dropLink o).linkCommit o.req b = none → exec (.editionCommit k) s = notEnabled))
       ∧ (s.linkAt? k = none → exec (.linkMethod k) s = notEnabled ∧ exec (.editionCommit k) s = notEnabled)
       ∧ (∀ (m : LinkMap) (r : LinkReq) (own : Option Nat) (c : Catalogue) (g : CatEntry), s.catStopped = false →
         bitsOf r.w0.toNat 23 0 < 2 ^ c.k → s.catBusy c (bitsOf r.w0.toNat 23 0) = false →
         let u := s.catVisit c [bitsOf r.w0.toNat 23 0]
         u.catRead c (bitsOf r.w0.toNat 23 0) = .ok g → g.state = 2 → leBytes 5 g.geo = m.head.cfg.take 5 →
         (m.img.entries.length = 15 → s.linkInsert m r own c = .done u 1 m.head.ed)
         ∧ (m.img.entries.length < 15 → m.img.entries.length < bitsOf r.w0.toNat 27 24 → s.linkInsert m r own c = .done u 2 m.head.ed))
       ∧ (∀ (m : LinkMap) (r : LinkReq) (own : Option Nat), (∀ e ∈ m.img.entries, e.iid ≠ r.w0.toNat) →
         s.linkRemove m r own = .done s 3 m.head.ed)
       ∧ (∀ (m : LinkMap) (r : LinkReq) (b : LinkBuild), (∀ x < 8, x = m.head.cur ∨ m.head.pinsOf x ≠ 0)
           ∨ s.taskRoom r.part b.probes.length = false → s.commitEdition m r b = none)
       ∧ (∀ (m : LinkMap) (h : MapHead) (part : Fin 32) (x : Nat), s.catStopped = true → s.goneInstances m.pa h x ≠ [] →
         s.retireWaits m.pa h part x = true)
       ∧ (SMap.wf regReset s.regs = true →
         (∃ t, exec .catctlStop s = .next t ∧ s.SetsReg t Reg.catCtl 1 ∧ t.catStopped = true)
         ∧ exec .catctlResume s = .next { s.catDrops.foldl (fun (u : State) x => u.dropRef x.1 x.2) (s.setReg Reg.catCtl 0) with
             catDrops := [] }
         ∧ (s.catDrops = [] → ∃ t, exec .catctlResume s = .next t ∧ s.SetsReg t Reg.catCtl 0)
         ∧ ∀ q j, s.catStopped = true → s.retireRef q j = { s with catDrops := s.catDrops ++ [(q, j)] })
       ∧ ∀ (q : Fin 32) (x : Fin 32 × Nat), s.releaseRecords.find? (fun y => y.1 == q) = some x →
         let s' : State := { s with releaseRecords := s.releaseRecords.erase x }
         (s.releaseRing? q = none → exec (.releaseRecordAppend q) s = .next s')
         ∧ ∀ r, s.releaseRing? q = some r →
           (r.room = true → s.serves (r.next 8 / 128) = true →
             exec (.releaseRecordAppend q) s = .next (s'.ringWrite r (Reg.prelWr q) (leBytes 8 x.2)))
           ∧ (r.room = false ∨ s.serves (r.next 8 / 128) = false → exec (.releaseRecordAppend q) s = notEnabled))

/-- R324, R372 to R377, R380: the TASK group, each behind its release. TKPULL takes a task or waits; TKPOST, TKCANCEL, TKPARK and
TKRESUME reply with an acquire; TKDONE completes its task, and traps where the task is cancelled.
Clauses rest on choices of the model: log 58 (DEDUCED), log 65 (DEDUCED), log 66 (DESIGN CHOICE), log 115 (DEDUCED);
these clauses are the model's, not the spec's. -/
def Obligations.TaskInstructions : Prop :=
  ∀ (nw : Bool) (d a : Operand) (s : State) (w : Wave) (p : Path), w.kind = .launched →
    let tells := fun (u : State) (i : Instr) (x : Word) =>
      exec i s = .next ((u.acquire w.core .dev).result w p nw d false [splat x])
    (s.ReadySwitch w p [.group isSca 2 2 d, .src a] [.src a] → w.task = none →
      let s1 := s.switched w p
      let w1 := w.switched p
      let mask := (srcUni w1 p.atSwitch a).setWidth 8
      s1.releasedFor w1 = true →
      (∀ x, s1.pickTask? w.asid w.part mask = some x → ∃ t w' h f, exec (.tkpull d a) s = .next t ∧ t.wave? w.id = some w'
        ∧ w1.Issued { w' with task := none, special := w.special } p.atSwitch f
        ∧ w'.task = some h ∧ h.index = x ∧ h.pull = p.pc ∧ w'.special[13] = BitVec.ofNat 32 x
        ∧ h.mode = (if (s.task x).vt then .versioned ((s.freeVersion? w.part).getD 0) else .plain)
        ∧ f.kind = .tkpull ∧ f.dst = [.s (scaReg d), .s (scaReg d + 1)] ∧ f.uniform = true ∧ f.mask = p.mask
        ∧ join64 ((f.vals.headD (splat 0))[0]) ((f.vals[1]?.getD (splat 0))[0]) = BitVec.ofNat 64 ((s.task x).arg.toNat * 8)
        ∧ t.readyOrder = s.readyOrder.filter (· != x) ∧ (t.task x).state = .running
        ∧ (∀ y, y ≠ x → t.task y = s.task y) ∧ (∀ k, k ≠ w.id → t.wave? k = s.wave? k) ∧ t.mem = s.mem ∧ t.homes = s.homes)
      ∧ (s1.pickTask? w.asid w.part mask = none → exec (.tkpull d a) s = .next (s1.block (.task mask (scaReg d)))))
    ∧ (s.ReadyClear w p (taskFields nw d (baseField a)) [] → w.holds = [] →
      let ea := (scalar64 w a).toNat
      let s0 := s.settleHolds w.id
      (∀ k, blockAddrFault? ea 32 = some k →
        exec (.tkpost nw d a) s = .next (s.trap w p (wordOf (.tkpost nw d a)) (TrapInfo.mem k p.mask ea)))
      ∧ (∀ s', blockAddrFault? ea 32 = none → s0.blockSync w ea = some s' → exec (.tkpost nw d a) s = s'.stall)
      ∧ (blockAddrFault? ea 32 = none → s0.blockSync w ea = none →
        let u := s0.blockRead w ea
        (∀ k, u.blockBytes w ea 32 = .error k →
          exec (.tkpost nw d a) s = .next (u.trap w p (wordOf (.tkpost nw d a)) (TrapInfo.mem k p.mask ea)))
        ∧ ∀ bs, u.blockBytes w ea 32 = .ok bs → u.releasedFor w = true →
          tells (u.taskPost w (PostBlock.ofBytes bs)).2 (.tkpost nw d a) (u.taskPost w (PostBlock.ofBytes bs)).1))
    ∧ (s.releasedFor w = true →
      (s.ReadyClear w p (taskFields nw d (.group isSca 2 2 a)) [] →
        let v := scalar64 w a
        let x := (lo32 v).toNat
        let e := s.task x
        let gone := s.cancelSeq w.asid (lo32 v) (hi32 v).toNat none
        let ends := e.state = .faulted ∨ e.state = .parked
        tells gone.2 (.tkcancel nw d a) (BitVec.ofNat 32 gone.1)
        ∧ (s.ownsTask w.asid x = false → tells s (.tkresume nw d a) 3)
        ∧ (s.ownsTask w.asid x = true → ¬ends → tells s (.tkresume nw d a) 4)
        ∧ (s.ownsTask w.asid x = true → ends → laterIter (hi32 v) e.iter = false → tells s (.tkresume nw d a) 2)
        ∧ (s.ownsTask w.asid x = true → ends → laterIter (hi32 v) e.iter = true →
            tells ((s.setTask x { e with iter := hi32 v }).readyTask x) (.tkresume nw d a) 0))
      ∧ (s.ReadyClear w p (taskFields nw d (.group isSca 4 4 a)) [] →
        let x := (linkWords w a).1.toNat
        let va := (linkWords w a).2.2.toNat
        let owned := s.ownsTask w.asid x
        let faulted := (s.task x).state = .faulted
        ((linkWords w a).2.1 ≠ 0 → tells s (.tkpark nw d a) 2)
        ∧ ((linkWords w a).2.1 = 0 →
          (owned = false → tells s (.tkpark nw d a) 3)
          ∧ (owned = true → ¬faulted ∨ s.resumeRing? w.part = none → tells s (.tkpark nw d a) 4)
          ∧ ∀ r, owned = true → faulted → s.resumeRing? w.part = some r →
            (r.room = true → s.serves (r.next 32 / 128) = true →
              tells ((s.ringWrite r (Reg.tkRqWr w.part) (resumeRecord x (s.task x) va)).setTask x
                { s.task x with state := .parked }) (.tkpark nw d a) 0)
            ∧ (r.room = false ∨ s.serves (r.next 32 / 128) = false → ∃ h, h.id = s.nextId ∧ h.wave = w.id ∧ h.part = w.part ∧ h.asid = w.asid ∧ h.index = x ∧ h.va = va
                ∧ exec (.tkpark nw d a) s = .next (State.modCurPath
                  { s with nextId := s.nextId + 1, heldParks := s.heldParks ++ [h] }
                  fun (q : Path) => { q with stage := .park s.nextId, swDone := true })))))
    ∧ (∀ h, w.task = some h → s.Ready w p [] [] → w.reports = [] → w.missed = none → s.takeRace? w = none →
        w.undisturbed = true → w.mayAct = true →
      let e := s.task h.index
      (s.cancelPending w = true → exec .tkdone s = .next (s.trap w p (wordOf .tkdone) (s.cancelInfo h.index)))
      ∧ (s.cancelPending w = false → ∀ c ea, s.successors w e = .error (c, ea) →
          exec .tkdone s = .next (s.trap w p (wordOf .tkdone) (TrapInfo.mem c p.mask ea)))
      ∧ (s.cancelPending w = false → ∀ succ, s.successors w e = .ok succ → s.releasedFor w = true →
        (s.servesAll (s.succLines w e) = false ∨ (∃ v, s.versionOf? w = some v ∧ s.commitReady v = false) →
          exec .tkdone s = s.stall)
        ∧ (s.servesAll (s.succLines w e) = true → (∀ v, s.versionOf? w = some v → s.commitReady v = true) →
          let u := (s.walked w (s.succEas w e)).readLines (s.succLines w e) w.asid w.master
          exec .tkdone s = .next (((u.finishTask w h succ).acquire w.core .dev).advance p 1))))

/-- R327, R368 to R371, R374 to R377, R380: what the task unit does. A TKPULL gets the first task of the ready order that it may
take; a posted task takes the lowest free index, and a successor becomes ready with its last predecessor; a waiting task
becomes irrevocable, unless it is cancelled, behind its release and before its held accesses; a held TKPARK is performed.
Clauses rest on choices of the model: log 65 (DEDUCED), log 67 (DESIGN CHOICE), log 68 (DESIGN CHOICE), log 122
(DEDUCED), log 131 (DESIGN CHOICE); these clauses are the model's, not the spec's. -/
def Obligations.TaskSteps : Prop :=
  ∀ (s : State) (id : Nat),
    (∀ (asid : BitVec 8) (part : Fin 32) (mask : BitVec 8) (x : Nat), s.pickTask? asid part mask = some x →
      ∃ before after, s.readyOrder = before ++ x :: after ∧ (s.task x).asid = asid ∧ mask.getLsbD (s.task x).type.toNat = true
        ∧ ((s.task x).vt = true → (s.freeVersion? part).isSome = true) ∧ s.irrevocableSeq asid (s.task x).seq = false
        ∧ ∀ y ∈ before, ¬((s.task y).asid = asid ∧ mask.getLsbD (s.task y).type.toNat = true ∧ (s.task y).vt = false
            ∧ s.irrevocableSeq asid (s.task y).seq = false))
    ∧ (∀ w q m d, s.wave? id = some w → w.frozen = none → w.stopped = false → w.stopReq = false → w.isDet = false →
      w.pulling? = some (q, m, d) →
      (∀ x, s.pickTask? w.asid w.part m = some x → exec (.taskHandout id) s = .next (s.handOut w q d x))
      ∧ (s.pickTask? w.asid w.part m = none → exec (.taskHandout id) s = notEnabled))
    ∧ (∀ w, s.wave? id = some w → w.isDet = false → w.awaitsIrrevocable = true → w.frozen = none → w.stopped = false →
        w.stopReq = false →
      (w.ver?.isSome = true →
        (s.canIrrevocable w = true → exec (.taskIrrevocable id) s = .next (s.makeIrrevocable w))
        ∧ (s.canIrrevocable w = false → (s.core w.core).fifoLines ≠ [] →
            exec (.taskIrrevocable id) s = .next (s.drainFifo w.core))
        ∧ (s.canIrrevocable w = false → (s.core w.core).fifoLines = [] → exec (.taskIrrevocable id) s = notEnabled))
      ∧ (w.ver? = none → (∀ r ∈ s.releases, r.req.wave = id → r.act.lines = []) → ∃ t w',
          exec (.taskIrrevocable id) s = .next t ∧ s.OnlyWave t id w'
          ∧ ∀ q ∈ w'.paths, q.status ≠ .blocked .irrevocable)
      ∧ (w.ver? = none → (∃ r ∈ s.releases, r.req.wave = id ∧ r.act.lines ≠ []) → exec (.taskIrrevocable id) s = notEnabled))
    ∧ (∀ w, s.wave? id = some w → (∀ h, w.task = some h → (s.task h.index).cp = true) → s.canIrrevocable w = false)
    ∧ (∀ w : Wave, ∀ b : PostBlock,
      (b.ok = false → bitsOf (s.taskPost w b).1.toNat 31 29 = 2 ∧ (s.taskPost w b).2.tasks = s.tasks)
      ∧ (b.ok = true → s.taskRoom w.part 1 = false → bitsOf (s.taskPost w b).1.toNat 31 29 = 1 ∧ (s.taskPost w b).2.tasks = s.tasks)
      ∧ (b.ok = true → s.taskRoom w.part 1 = true →
        let x := s.freeTaskIndex
        let t := (s.taskPost w b).2
        (s.taskPost w b).1 = BitVec.ofNat 32 x ∧ (t.task x).asid = w.asid ∧ (t.task x).seq = BitVec.ofNat 32 b.seq
          ∧ (t.task x).arg = BitVec.ofNat 52 (b.arg / 8) ∧ (t.task x).dep = BitVec.ofNat 16 b.dep
          ∧ (∀ y, y ≠ x → t.task y = s.task y)
          ∧ (BitVec.ofNat 16 b.dep = 0 → (t.task x).state = .ready ∧ t.readyOrder = s.readyOrder ++ [x])
          ∧ (BitVec.ofNat 16 b.dep ≠ 0 → (t.task x).state = .waiting ∧ t.readyOrder = s.readyOrder)))
    ∧ (∀ (asid : BitVec 8) (y : Nat), y < taskCount → (s.task y).state = .waiting → (s.task y).asid = asid →
      let t := s.releaseSucc asid y
      (∀ z, z ≠ y → t.task z = s.task z) ∧ (t.task y).dep = (s.task y).dep - 1
        ∧ ((s.task y).dep = 1 → (t.task y).state = .ready ∧ t.readyOrder = s.readyOrder ++ [y])
        ∧ ((s.task y).dep ≠ 1 → (t.task y).state = .waiting ∧ t.readyOrder = s.readyOrder))
    ∧ (SMap.wf (fun _ => TaskEntry.empty) s.tasks = true → ∀ x,
      let r := s.cancelTask x
      (s.task x).state ∈ [.waiting, .ready, .faulted, .parked] → r.1 = true ∧ r.2.task x = TaskEntry.empty
        ∧ x ∉ r.2.readyOrder ∧ ∀ y, y ≠ x → r.2.task y = s.task y)
    ∧ (∀ x, (s.task x).state = .running → (s.cancelTask x).1 = !(s.task x).cp
        ∧ (s.cancelTask x).2.task x = { s.task x with cp := true })
    ∧ ∀ (q : Fin 32) (h : HeldPark) (st : Nat) (t : State), s.heldParks.find? (fun x => x.part == q) = some h →
      s.park? h.asid h.part h.index h.va = some (st, t) →
      let t' : State := { t with heldParks := t.heldParks.filter fun x => x.id != h.id }
      ((∀ w ∈ t.waves, ∀ y ∈ w.paths, y.stage ≠ .park h.id) → exec (.resumeRecordAppend q) s = .next t')
      ∧ ∀ w y, t.wave? h.wave = some w → w.paths.find? (fun z => z.stage == .park h.id) = some y →
        ∃ u w', exec (.resumeRecordAppend q) s = .next u ∧ u.wave? h.wave = some w'
          ∧ w' = (w.deliver y h.dst.isNone (match h.dst with | some r => .s r | none => .zero) false 0
              [splat (BitVec.ofNat 32 st)]).retire y.tag (y.pc + 4) 1
          ∧ (∀ k, k ≠ h.wave → u.wave? k = t.wave? k) ∧ u.tasks = t.tasks

/-! ## The network, the fabric, calls -/

/-- R391, R396, R405 to R409: NPUT, NGET and NSEND send one request, with the words of its lanes, to the device of their
target, an ordered one with the next stamp of pod time, or put it behind what their wave's operations wait for, while the
wave goes on; a failing check traps. NFENCE holds later accesses behind a release at pod scope. NRECV takes the oldest record of its stage queue, or waits.
Clauses rest on choices of the model: log 22 (DESIGN CHOICE: a TADDR that no rule states), log 56 (DESIGN CHOICE), log
99 (DEDUCED), log 123 (DEDUCED: what a queued access waits for); these clauses are the model's, not the spec's. -/
def Obligations.NetInstructions : Prop :=
  ∀ (d a : Operand) (s : State) (w : Wave) (p : Path), w.kind = .launched → w.versioned = false →
    let g := NetTarget.of w a
    let lanes := execMask w p
    let f := s.fabric
    let words := netWords w p d
    let put := PacketKind.put g.va lanes words
    let send := PacketKind.send (bitsOf g.w1.toNat 11 0) words
    let sent := fun (t : State) (ord snd : Bool) (kind : PacketKind) (infl : Option Nat) => ∃ o k,
      t.fabric.ops = f.ops ++ [o] ∧ o.id = k.ref ∧ o.core = w.core ∧ o.wave = w.id ∧ o.infl = infl ∧ o.cmd = none
      ∧ o.dst = g.dst ∧ o.send = snd ∧ o.ordered = ord ∧ o.reply = none ∧ k.dst = g.dst ∧ k.src = s.devId ∧ k.part = w.part
      ∧ k.ordered = ord ∧ k.kind = kind
      ∧ (ord = false → t.fabric.unordered = f.unordered ++ [(16, k)] ∧ k.seq = f.seqU ∧ t.fabric.floor = f.floor
          ∧ t.fabric.ordered = f.ordered)
      ∧ (ord = true → t.fabric.ordered = f.ordered.set 16 (f.ordered[16] ++ [k]) ∧ k.seq = f.seqO
          ∧ k.stamp = max f.podTime (f.floor + 1) ∧ t.fabric.floor = k.stamp ∧ t.fabric.unordered = f.unordered)
      ∧ { t with waves := s.waves, fabric := f, nextId := s.nextId } = s ∧ ∀ j, j ≠ w.id → t.wave? j = s.wave? j
    let waits := fun (t : State) (ord snd : Bool) (kind : PacketKind) (infl : Option Nat) => ∃ o k r,
      t.fabric = { f with ops := f.ops ++ [o] } ∧ o.id = k.ref ∧ o.core = w.core ∧ o.wave = w.id ∧ o.infl = infl
      ∧ o.dst = g.dst ∧ o.send = snd ∧ o.ordered = ord ∧ o.reply = none ∧ k.dst = g.dst ∧ k.part = w.part ∧ k.ordered = ord
      ∧ k.kind = kind ∧ t.releases = s.releases ++ [r] ∧ r.act = .net k ∧ r.waits = s.netWaits w ∧ r.req.wave = w.id
    (s.ReadyClear w p [.group isVec 1 1 d, .group isSca 4 4 a] [] →
      (∀ i ord snd kind, (i, ord, snd, kind) ∈ [(Instr.nput d a, false, false, put), (.nputOrd d a, true, false, put),
            (.nsend d a, false, true, send), (.nsendOrd d a, true, true, send), (.nget d a, false, false, .get g.va lanes)] →
        (lanes = 0 → ∃ t w', exec i s = .next t ∧ s.OnlyWave t w.id w' ∧ w.Went w' (p.retire (p.pc + 4)))
        ∧ (lanes ≠ 0 → ∀ c, s.netFault? g snd ord = some c → exec i s = .next (s.netTrap w p i g snd c))
        ∧ (lanes ≠ 0 → s.netFault? g snd ord = none → w.holds = [] → s.netRoom w.core = true → w.det = none →
          let goes := fun (t : State) (infl : Option Nat) =>
            if (s.netWaits w).isNone = true then sent t ord snd kind infl else waits t ord snd kind infl
          (i ≠ .nget d a → ∃ t w', exec i s = .next t ∧ t.wave? w.id = some w' ∧ w.Went w' (p.retire (p.pc + 4))
            ∧ goes t none)
          ∧ (i = .nget d a → ∃ t w' x, exec i s = .next t ∧ t.wave? w.id = some w' ∧ w.Issued w' p x
            ∧ x.kind = .nget ∧ x.dst = dstRegs false d ∧ x.mask = lanes ∧ x.due = lanes ∧ x.uniform = false
            ∧ goes t (some x.id)))))
    ∧ (s.ReadyClear w p [] [] → ∃ t w' r h, exec .nfence s = .next t ∧ t.wave? w.id = some w'
      ∧ w.Went { w' with holds := w.holds } (p.retire (p.pc + 4)) ∧ t.releases = s.releases ++ [r] ∧ r.act = .none
      ∧ r.waits.netOps = (s.releaseDeps w .pod).2.1 ∧ r.waits.deps = (s.releaseDeps w .pod).1 ∧ (∃ kept, w'.holds = kept ++ [h] ∧ ∀ x ∈ kept, x ∈ w.holds)
      ∧ h.deps = [r.id]
      ∧ h.classes = [.load, .store, .net] ∧ t.mem = s.mem ∧ t.homes = s.homes ∧ t.fabric = s.fabric)
    ∧ (s.ReadySwitch w p [.group isVec 1 1 d, .src a] [.src a] →
      let s1 := s.switched w p
      let w1 := w.switched p
      let q := (srcUni w1 p.atSwitch a).toNat
      let s0 := s1.settleHolds w.id
      let bad := fun (u : State) (c : TrapCode) => exec (.nrecv d a) s =
        .next ((u.freeMem c p.mask).2.trap w1 p.atSwitch (wordOf (.nrecv d a)) (u.freeMem c p.mask).1)
      (s1.stageQueue? w.part q = none → bad s1 .memFault)
      ∧ ∀ x, s1.stageQueue? w.part q = some x →
        (s1.crosses w.part x.base = true → bad s1 .boundary)
        ∧ (s1.crosses w.part x.base = false → s1.queueBusy x = false → w.holds = [] →
          (s0.popStage x w.asid = .ok none → exec (.nrecv d a) s = .next (s0.block (.record q)))
          ∧ ∀ r t, s0.popStage x w.asid = .ok (some (r, t)) →
            exec (.nrecv d a) s = .next (t.receive w1 p.atSwitch (vecReg d) r)))

/-- R390 to R404, R406, R407, R410, R412: the steps of the fabric. A port comes up while the device runs, and goes down; a packet
that the other end has a credit for arrives, brings its watermark and is queued, or is discarded behind the cut; an output
sends what is first in the order, and takes a credit; requests, held pushes, ordered packets and replies take their effect; a
stall is reported, and a resume cuts. Frames leave with their checksums filled in, and TCP payloads in segments.
Clauses rest on choices of the model: log 12 (DESIGN CHOICE), log 57 (DESIGN CHOICE), log 98 (DESIGN CHOICE), log 99
(DEDUCED), log 100 (DEDUCED), log 101 (DESIGN CHOICE), log 102 (DESIGN CHOICE), log 103 (DESIGN CHOICE), log 104
(DESIGN CHOICE), log 105 (DESIGN CHOICE), log 106 (DESIGN CHOICE), log 107 (DESIGN CHOICE), log 126 (DESIGN CHOICE),
log 129 (PRESUMED); these clauses are the model's, not the spec's. -/
def Obligations.FabricSteps : Prop :=
  ∀ (s : State), SMap.wf regReset s.regs = true →
    (∀ (n : Fin 16) (value : DWord), ∃ t, exec (.klportEnable n value) s = .next t
      ∧ { t with regs := s.regs, fabric := s.fabric } = s ∧ t.regBit (Reg.klPort n) 0 = (value.getLsbD 0 && s.device.running)
      ∧ t.regBit (Reg.klPort n) 1 = (value.getLsbD 0 && s.device.running) ∧ t.regBits (Reg.klPort n) 31 16 = s.regBits (Reg.klPort n) 31 16
      ∧ t.fabric.crcFails[n] = 0)
    ∧ (∀ n : Fin 16, s.portUp n = true →
      (s.fabric.lastSent[n] + 500 * 65536 ≤ s.fabric.podTime → ∃ t k, exec (.beacon n) s = .next t
        ∧ t.fabric.links = s.fabric.links ++ [(n.val, k)] ∧ k.kind = .beacon ∧ k.wm = t.fabric.wmOut[n]
        ∧ s.fabric.wmOut[n] ≤ t.fabric.wmOut[n] ∧ t.fabric.lastSent[n] = s.fabric.podTime)
      ∧ (s.fabric.podTime < s.fabric.lastSent[n] + 500 * 65536 → exec (.beacon n) s = notEnabled)
      ∧ ∀ k : Packet,
        (∃ t, exec (.packetArrival n k false) s = .next t ∧ (s.fabric.crcFails[n] = 16 → t.portUp n = false)
          ∧ (s.fabric.crcFails[n] < 16 → t.portUp n = true ∧ t.fabric.crcFails[n] = s.fabric.crcFails[n] + 1)
          ∧ t.fabric.ordered = s.fabric.ordered ∧ t.fabric.unordered = s.fabric.unordered)
        ∧ (s.grants ⟨n.val, by omega⟩ k = false → exec (.packetArrival n k true) s = notEnabled)
        ∧ (s.grants ⟨n.val, by omega⟩ k = true → ∃ t, exec (.packetArrival n k true) s = .next t
          ∧ t.fabric.wmIn[n] = max s.fabric.wmIn[n] k.wm ∧ t.fabric.lastWm[n] = k.wm
          ∧ t.fabric.crcFails[n] = 0 ∧ t.mem = s.mem ∧ t.homes = s.homes ∧ t.waves = s.waves
          ∧ (k.ordered = true → k.period = false → s.fabric.cut < k.stamp →
              t.fabric.ordered = s.fabric.ordered.set n.val (s.fabric.ordered[n.val] ++ [k]))
          ∧ (k.ordered = true → k.period = false → k.stamp ≤ s.fabric.cut → t.fabric.ordered = s.fabric.ordered
              ∧ t.fabric.discarded = s.fabric.discarded + 1 ∧ t.reg Reg.klGapCnt = s.reg Reg.klGapCnt + 1)
          ∧ (k.ordered = false → k.kind ≠ .beacon → t.fabric.unordered = s.fabric.unordered ++ [(⟨n.val, by omega⟩, k)])))
    ∧ (∀ (i : Fin 17) (k : Packet), packetChannel? k = some 0 → s.pushesFull = true → s.grants i k = false)
    ∧ (∀ (n : Fin 16) k, s.portUp n = false →
      exec (.packetArrival n k true) s = notEnabled ∧ exec (.packetForward ⟨n.val, by omega⟩) s = notEnabled
        ∧ exec (.beacon n) s = notEnabled)
    ∧ (∀ (o i : Fin 17) (k : Packet), s.sendable? o = some (i, k) → i ∈ s.insOf o ∧ (s.queuedFor i o).head? = some k
      ∧ (∀ j ∈ s.insOf o, s.queuedFor j o = [] → k.stamp ≤ s.wmOf j)
      ∧ ∀ j ∈ s.insOf o, ∀ k', (s.queuedFor j o).head? = some k' → keyBefore k' k = false)
    ∧ (∀ (n : Fin 16) (i : Fin 17) (k : Packet),
      let o : Fin 17 := ⟨n.val, by omega⟩
      let pays := fun (t : State) => ∀ c, packetChannel? k = some c →
        t.fabric.owed.toList.getD (3 * n.val + c.val) 0 = s.fabric.owed.toList.getD (3 * n.val + c.val) 0 + 1
      s.portUp n = true →
      (s.looseFor o = [] → s.sendable? o = some (i, k) → s.hasCredit n k = false → exec (.packetForward o) s = notEnabled)
      ∧ (s.looseFor o = [] → s.sendable? o = some (i, k) → s.hasCredit n k = true → ∃ t k', exec (.packetForward o) s = .next t
        ∧ t.fabric.links = s.fabric.links ++ [(n.val, k')] ∧ { k' with wm := k.wm } = k ∧ k'.wm = t.fabric.wmOut[n]
        ∧ t.fabric.ordered = s.fabric.ordered.set i (s.fabric.ordered[i].erase k) ∧ pays t)
      ∧ (s.looseFor o = [(i, k)] → s.sendable? o = none → s.hasCredit n k = true → ∃ t k', exec (.packetForward o) s = .next t
        ∧ t.fabric.links = s.fabric.links ++ [(n.val, k')] ∧ { k' with wm := k.wm } = k ∧ k'.wm = t.fabric.wmOut[n]
        ∧ t.fabric.unordered = s.fabric.unordered.erase (i, k) ∧ t.fabric.ordered = s.fabric.ordered ∧ pays t)
      ∧ (s.looseFor o = [] → s.sendable? o = none → exec (.packetForward o) s = notEnabled))
    ∧ (∀ i k, s.looseFor 16 = [(i, k)] → k.ordered = false → asksRemote k.kind = true →
      ∃ t, exec (.packetForward 16) s = .next t
        ∧ t.fabric.arrived = s.fabric.arrived ++ [(i, k)] ∧ t.fabric.unordered = s.fabric.unordered.erase (i, k))
    ∧ (∀ n i p, s.fabric.arrived[n]? = some (i, p) →
      let rest := fun (u : State) => u.modFabric fun (f : Fabric) => { f with arrived := f.arrived.eraseIdx n }
      (∀ t x, s.perform i p = .done t x → exec (.remoteAccess n) s = .next ((rest t).answer p x))
      ∧ (s.perform i p = .boundary →
          exec (.remoteAccess n) s = .next (((rest s).freezeSender i p).answer p (refusalOf p.kind TrapCode.memFault.code.toNat)))
      ∧ (s.perform i p = .wait → exec (.remoteAccess n) s = notEnabled)
      ∧ (s.remoteAsid? p.part = none → (∃ q data, p.kind = .send q data) ∨ (∃ va m data, p.kind = .put va m data) →
          ∃ t k, exec (.remoteAccess n) s = .next t ∧ t.mem = s.mem ∧ t.homes = s.homes
            ∧ t.fabric.arrived = s.fabric.arrived.eraseIdx n ∧ t.fabric.unordered = s.fabric.unordered ++ [(16, k)]
            ∧ k.dst = p.src ∧ k.ref = p.ref ∧ k.kind = .ack 8)
      ∧ (s.remoteAsid? p.part = none → (∃ va m, p.kind = .get va m) →
          ∃ t k, exec (.remoteAccess n) s = .next t ∧ t.mem = s.mem ∧ t.homes = s.homes
            ∧ t.fabric.arrived = s.fabric.arrived.eraseIdx n ∧ t.fabric.unordered = s.fabric.unordered ++ [(16, k)]
            ∧ k.dst = p.src ∧ k.ref = p.ref ∧ k.kind = .reply 8 [])
      ∧ (s.perform i p = .held → 64 ≤ (s.fabric.heldPushes.filter fun h => !h.ordered).length →
          exec (.remoteAccess n) s = notEnabled)
      ∧ (s.perform i p = .held → (s.fabric.heldPushes.filter fun h => !h.ordered).length < 64 →
          ∃ t h, exec (.remoteAccess n) s = .next t ∧ t.fabric.heldPushes = s.fabric.heldPushes ++ [h] ∧ h.ordered = false
            ∧ h.part = p.part ∧ h.ack = some (p.src, p.ref) ∧ t.fabric.arrived = s.fabric.arrived.eraseIdx n ∧ t.mem = s.mem))
    ∧ (∀ n h t, s.fabric.heldPushes[n]? = some h →
      ((s.fabric.heldPushes.take n).any fun x => x.part == h.part && x.queue == h.queue) = false →
      s.pushStage h.part h.queue ((s.reg (Reg.klAsid h.part)).setWidth 8) h.record = .done t →
      let u := t.modFabric fun (f : Fabric) => { f with heldPushes := f.heldPushes.eraseIdx n }
      exec (.heldPush n) s = .next (match h.ack with
        | some (dst, op) => u.inject (Packet.request dst h.part op (.ack 0))
        | none => u))
    ∧ (s.fabric.resume = none → (s.regBit Reg.klCtl 1 = false → ∀ t, s.deliverNext? none = some t →
          exec .orderedDelivery s = .next t)
      ∧ (s.regBit Reg.klCtl 1 = true → exec .orderedDelivery s = notEnabled))
    ∧ (∀ c i, s.fabric.resume = some (c, i) →
      (∀ t, s.deliverNext? (some c) = some t → exec .orderedDelivery s = .next t.endResume)
      ∧ (s.deliverNext? (some c) = none → exec .orderedDelivery s = notEnabled)
      ∧ (s.owesDelivery c = true → s.endResume = s)
      ∧ (s.owesDelivery c = false → s.endResume.fabric.resume = none ∧ s.endResume.fabric.discarded = 0))
    ∧ (∀ c t, s.deliverNext? (some c) = some t → ∃ i k, s.sendable? 16 = some (i, k) ∧ k.stamp ≤ c)
    ∧ (∀ id o, s.fabric.ops.find? (fun x => x.id == id) = some o → o.cmd = none →
      (o.reply = some (.ack 0) → exec (.netReply id) s = .next (s.dropOp id))
      ∧ (∀ c, c ≠ 0 → o.reply = some (.ack c) →
          exec (.netReply id) s = .next ((s.dropOp id).report o.wave (engInfo 9 (if o.send then 0 else o.va) o.dst)))
      ∧ (∀ c ws x, o.reply = some (.reply c ws) → o.infl = some x →
          exec (.netReply id) s = .next ((s.dropOp id).getReply o x c ws)))
    ∧ (∀ i : Fin 17, s.regBit Reg.klCtl 1 = false → s.waitsOn i = true → (i = 16 → s.fabric.podTime < s.fabric.floor) →
      s.fabric.lastRise[i] + 50000 * 65536 ≤ s.fabric.podTime →
      ∃ t, exec (.watermarkStall i) s = .next t ∧ t.regBit Reg.klCtl 1 = true ∧ t.regBits Reg.klCtl 6 2 = i.val
        ∧ t.regBit Reg.klCtl 0 = s.regBit Reg.klCtl 0 ∧ t.interrupts = s.interrupts ++ [.watermarkStall i]
        ∧ { t with regs := s.regs, interrupts := s.interrupts } = s)
    ∧ (∀ cut : DWord,
      let c := max s.fabric.cut cut.toNat
      (∃ u n i, exec (.klresume cut) s = .next (State.flush u c n).endResume ∧ u.fabric.cut = c ∧ u.fabric.resume = some (c, i)
          ∧ u.fabric.floor = max s.fabric.floor c ∧ (∀ j : Fin 16, u.fabric.wmIn[j] = max s.fabric.wmIn[j] c)
          ∧ u.fabric.lastWm = s.fabric.lastWm ∧ u.fabric.ordered = s.fabric.ordered ∧ { u with fabric := s.fabric } = s
          ∧ ∀ j : Fin 17, (s.fabric.ordered[j]).length ≤ n)
      ∧ ((∀ i : Fin 17, s.fabric.ordered[i] = []) → (∀ q : Fin 32, s.regBit (Reg.sqBase q) 0 = false) →
        ∃ t, exec (.klresume cut) s = .next t ∧ t.fabric.cut = c ∧ t.fabric.floor = max s.fabric.floor c
          ∧ (∀ i : Fin 16, t.fabric.wmIn[i] = max s.fabric.wmIn[i] c) ∧ t.fabric.lastWm = s.fabric.lastWm
          ∧ t.fabric.resume = none ∧ t.fabric.discarded = 0 ∧ t.regBit Reg.klCtl 1 = false
          ∧ t.regBit Reg.klCtl 0 = s.regBit Reg.klCtl 0 ∧ { t with regs := s.regs, fabric := s.fabric } = s))
    ∧ (∀ value : DWord, (s.regBit Reg.klCtl 0 = true → exec (.podset value) s = .next s)
      ∧ (s.regBit Reg.klCtl 0 = false → ∃ t, exec (.podset value) s = .next t ∧ t.fabric.podTime = value.toNat
          ∧ { t with fabric := s.fabric } = s))
    ∧ (∀ (n : Fin 16) (c : Int), s.portUp n = true → ∃ t, exec (.ptpEventMessage n c) s = .next t
      ∧ t.fabric.eventStamp[n] = s.fabric.podTime ∧ t.fabric.correction = c ∧ { t with fabric := s.fabric } = s)
    ∧ ∀ (n : Fin 2) (way : FrameDir) (bs : List Byte),
      (s.device.running = false → exec (.ethernetFrame n way bs) s = notEnabled)
      ∧ (s.device.running = true → ∃ t fs, exec (.ethernetFrame n way bs) s = .next t
        ∧ t.device.frames = s.device.frames ++ fs ∧ { t with device := s.device } = s
        ∧ (∀ f ∈ fs, f.port = n ∧ (f.transmit = true ↔ way ≠ .receive) ∧ f.sound = checksumOk f.bytes)
        ∧ fs.map (·.bytes) = match way with
          | .receive => [bs]
          | .transmit none => [fillChecksum bs]
          | .transmit (some mss) => segmentFrame bs mss)

/-- R282 to R285: LAUNCH and cdm.launch read a record and enter it; the handle says that the launch exceeds the partition,
that no slot is free, or which slot and sequence number it has. A forged record freezes the wave, or gives a control core
the top handle. cdm.lstat tells the state of a handle; in U-mode, and at a word of the extension with another function, a control core takes its
illegal-instruction exception, whose number is presumed (PRESUMED, log 77).
Clauses rest on choices of the model: log 57 (DESIGN CHOICE), log 73 (DESIGN CHOICE), log 77 (PRESUMED); these clauses
are the model's, not the spec's. -/
def Obligations.LaunchesComplete : Prop :=
  (∀ (nw : Bool) (d a b : Operand) (s : State) (w : Wave) (p : Path), w.kind = .launched → w.holds = [] →
      s.ReadyClear w p ((if nw then [] else [.group isSca 2 2 d]) ++ [baseField a, .src b]) [.src b] →
    let i := Instr.launch nw d a b
    let ea := blockEa w p a b
    let s0 := s.settleHolds w.id
    (∀ c, blockAddrFault? ea 128 = some c → exec i s = .next (s.trap w p (wordOf i) (TrapInfo.mem c p.mask ea)))
    ∧ (∀ s', blockAddrFault? ea 128 = none → s0.releasedFor w = true → s0.blockSync w ea = some s' → exec i s = s'.stall)
    ∧ (blockAddrFault? ea 128 = none → s0.releasedFor w = true → s0.blockSync w ea = none →
      let u := s0.blockRead w ea
      (∀ c, u.blockBytes w ea 128 = .error c → exec i s = .next (u.trap w p (wordOf i) (TrapInfo.mem c p.mask ea)))
      ∧ ∀ bs, u.blockBytes w ea 128 = .ok bs →
        let served := u.servesAll (u.launchLines w.asid (LaunchRec.ofBytes bs)) = true
        (¬served → exec i s = u.stall)
        ∧ (served → u.submit w.asid w.part bs = .forged → exec i s = .next (u.freezeWave w 3 0))
        ∧ (served → u.submit w.asid w.part bs = .boundary → exec i s = .next (u.freezeWave w 1 0))
        ∧ ∀ h t, served → u.submit w.asid w.part bs = .entered h t →
          exec i s = .next ((t.result w p nw d false [splat (lo32 h), splat (hi32 h)]).submitted h)))
  ∧ (∀ (s : State) (asid : BitVec 8) (part : Fin 32) (bs : List Byte) (deps : List (Nat × Nat)) (done : Option Nat),
      let l := LaunchRec.ofBytes bs
      (l.shapeOk bs = false → s.submit asid part bs = .forged)
      ∧ (s.launchPas asid l = none → s.submit asid part bs = .forged)
      ∧ (l.shapeOk bs = true → s.launchPas asid l = some (deps, done) →
          (∃ x ∈ deps.map (·.1) ++ done.toList, s.crosses part x = true) → s.submit asid part bs = .boundary))
  ∧ (∀ (s : State) (asid : BitVec 8) (part : Fin 32) (l : LaunchRec) (deps : List (Nat × Nat)) (done : Option Nat),
    let r := s.enterLaunch asid part l deps done
    let full := s.freeLaunchSlots = [] ∨ 64 ≤ (s.launches.filter fun x => x.asid = asid).length
    (s.exceeds part l = true → r = (BitVec.ofNat 64 (2 * 2 ^ 62), s))
    ∧ (s.exceeds part l = false → full → r = (BitVec.ofNat 64 (2 ^ 62), s))
    ∧ (s.exceeds part l = false → ¬full → ∃ x, x.slot ∈ s.freeLaunchSlots ∧ x.seq = s.seq ∧ x.asid = asid ∧ x.part = part
        ∧ x.record = l ∧ x.depPas = deps ∧ x.donePa = done ∧ x.ready = none ∧ x.unplaced = l.unitCount ∧ x.gangsEnded = 0
        ∧ r.1 = BitVec.ofNat 64 (s.seq * 256 + x.slot.val) ∧ r.2.launches = s.launches ++ [x] ∧ r.2.seq = s.seq + 1
        ∧ { r.2 with launches := s.launches, seq := s.seq, freeCtr := s.freeCtr } = s))
  ∧ (∀ (s : State) (va ctx : DWord), ctx.toNat / 256 ≠ 0 ∨ va.toNat % 128 ≠ 0 ∨ 2 ^ 55 ≤ va.toNat →
      s.cdmSubmit va ctx = (BitVec.ofNat 64 (3 * 2 ^ 62), s))
  ∧ (∀ (s : State) (h : DWord),
    let seq := bitsOf h.toNat 61 8
    let at? := s.launch? (Fin.ofNat 256 h.toNat)
    (bitsOf h.toNat 63 62 ≠ 0 ∨ s.seq ≤ seq → s.launchStatus h = 3)
    ∧ (bitsOf h.toNat 63 62 = 0 → seq < s.seq →
      (at? = none → s.launchStatus h = 2)
      ∧ ∀ l, at? = some l → s.launchStatus h = if l.seq ≠ seq then 2 else if l.unplaced < l.units then 1 else 0))
  ∧ ∀ (s : State) (k : Nat) (t : Tag) (rs2 rs1 rd : Fin 32), s.cur = some (k, t) →
    let n := Fin.ofNat 16 k
    let c := s.control[n]
    ∀ (i : Instr) (r : DWord × State),
      (i, r) = (.cdmLaunch rs2 rs1 rd, s.cdmSubmit (c.reg rs1) (c.reg rs2))
        ∨ (i, r) = (.cdmLstat rs2 rs1 rd, (BitVec.ofNat 64 (s.launchStatus (c.reg rs1)), s)) →
      (c.priv = .user → exec i s = .next { s with control := s.control.set n { c with exception := some 2 } })
      ∧ (c.priv ≠ .user → i = .cdmLaunch rs2 rs1 rd → s.cdmWaits (c.reg rs1) (c.reg rs2) = true → exec i s = .next s)
      ∧ (c.priv ≠ .user → (i = .cdmLaunch rs2 rs1 rd → s.cdmWaits (c.reg rs1) (c.reg rs2) = false) → ∃ u, exec i s = .next u ∧ (rd ≠ 0 → (u.control[n]).x[rd] = r.1)
          ∧ (∀ q : Fin 32, q ≠ rd → (u.control[n]).x[q] = (r.2.control[n]).x[q])
          ∧ (u.control[n]).pc = (r.2.control[n]).pc + 4
          ∧ { u with control := r.2.control, freeCtr := r.2.freeCtr } = r.2)
      ∧ ∀ m : Fin 16, (s.control[m]).held = false → (s.control[m]).fetch.toNat % 128 = 0x0B →
          (s.control[m]).fetch.toNat / 2 ^ 25 = 0 → 2 ≤ (s.control[m]).fetch.toNat / 2 ^ 12 % 8 →
          controlStep exec s m = .next { s with control := s.control.set m { s.control[m] with exception := some 2 } }

/-- R336 to R338: SYSC waits for a free slot of the call area, or fails at once where there is none; its record is written
behind its release, and its reply reaches the lanes that called, or fails.
Clauses rest on choices of the model: log 22 (DESIGN CHOICE: a TADDR that no rule states), log 57 (DESIGN CHOICE);
these clauses are the model's, not the spec's. -/
def Obligations.CallsComplete : Prop :=
  (∀ (d a b : Operand) (s : State) (w : Wave) (p : Path), w.kind = .launched →
      s.ReadyClear w p [.group isVec 2 2 d, .group isVec 8 16 a, .src b] [.src b] →
    let i := Instr.sysc d a b
    let lanes := execMask w p
    let n := srcUni w p b
    let area := s.regBit (Reg.syscBase w.asid.toNat) 63
    (lanes = 0 → ∃ t w', exec i s = .next t ∧ s.OnlyWave t w.id w' ∧ w.Went w' (p.retire (p.pc + 4)))
    ∧ (lanes ≠ 0 → area = false → ∃ t w' f x addr, exec i s = .next t ∧ t.wave? w.id = some w' ∧ w.Issued w' p f
        ∧ f.kind = .sysc ∧ f.dst = dstRegs true d ∧ f.failed = [x] ∧ x.info = syscErr 1 n lanes addr ∧ t.syscalls = s.syscalls)
    ∧ (lanes ≠ 0 → area = true → s.freeCallSlots w.asid = [] → exec i s = s.stall)
    ∧ (lanes ≠ 0 → area = true → s.freeCallSlots w.asid ≠ [] → ∃ t w' f c, exec i s = .next t ∧ t.wave? w.id = some w'
        ∧ w.Issued w' p f ∧ f.kind = .sysc ∧ f.dst = dstRegs true d ∧ f.mask = lanes ∧ f.due = lanes ∧ f.failed = []
        ∧ t.syscalls = s.syscalls ++ [c] ∧ c.wave = w.id ∧ c.infl = f.id ∧ c.asid = w.asid ∧ c.slot ∈ s.freeCallSlots w.asid
        ∧ c.number = n ∧ c.exec = lanes ∧ c.pc = p.pc ∧ c.posted = false
        ∧ (∀ j : Fin 32, inMask lanes j = true → (j, callRequest w a j) ∈ c.requests)
        ∧ (∃ r ∈ t.releases, r.id = c.release ∧ r.act = .none ∧ r.req.wave = w.id)
        ∧ t.mem = s.mem ∧ t.homes = s.homes))
  ∧ ∀ (s : State) (k id : Nat) (c : SyscCall), s.call? k id = some c →
    (c.posted = false → (s.releases.any fun r => r.id == c.release) = false →
        s.servesRange (s.callSlot c.asid c.slot) 2112 = true →
      let pa := s.callSlot c.asid c.slot
      let s1 := (s.unitWrite pa c.bytes.1 c.asid).unitWrite (pa + 32) c.bytes.2 c.asid
      exec (.syscPost k id) s = .next { s1 with syscalls := s1.syscalls.map fun (x : SyscCall) =>
        if x.wave = k ∧ x.infl = id then { x with posted := true } else x })
    ∧ c.bytes.1.length = 24 ∧ ((∀ r ∈ c.requests, r.2.length = 16) → c.bytes.2.length = 2080)
    ∧ blockField c.bytes.1 0 4 = c.number.toNat ∧ blockField c.bytes.1 4 4 = c.exec.toNat
    ∧ (c.posted = true → s.servesRange (s.callSlot c.asid c.slot) 2368 = true → ∀ (status : DWord) (replies : List DWord),
      let s1 := s.writeReply c status replies
      let s2 : State := { s1 with syscalls := s1.syscalls.filter fun x => !(x.wave == k && x.infl == id) }
      ∀ w f, s2.wave? k = some w → w.inflight.find? (fun x => x.id == id) = some f →
        let done := fun (f' : Inflight) => exec (.syscReply k id status replies) s =
          .next ((s2.acquire w.core .dev).modWave k fun (y : Wave) => y.settleInflight f')
        (status = 0 → done ((lanesIn c.exec).foldl (fun (f : Inflight) j => f.arrive j ((replies[j.val]?).getD 0)) f))
        ∧ (status ≠ 0 → ∃ x, x.info = syscErr status.toNat c.number c.exec (BitVec.ofNat 64 (s.callSlot c.asid c.slot))
            ∧ done { f with mask := 0, due := 0, failed := f.failed ++ [x] }))
    ∧ (c.posted = true → exec (.syscPost k id) s = notEnabled)
    ∧ (c.posted = false ∨ s.servesRange (s.callSlot c.asid c.slot) 2368 = false →
        ∀ status replies, exec (.syscReply k id status replies) s = notEnabled)

/-- R27, R28, R286, R288, R291, R292, R295, R296, R306, R307, R331 to R335: the steps of the scheduler. A launch becomes
ready and calls for a round; a starving unit reserves; a context runs and stops; gangs are saved and resumed; a quantum and
a period end, and the next period starts. A wave and its scratchpad stand where nothing else stands; a deficit never passes
64, and is 0 where its queue is empty.
Clauses rest on choices of the model: log 69 (DESIGN CHOICE), log 70 (DEDUCED), log 71 (DESIGN CHOICE), log 72 (DESIGN
CHOICE), log 74 (DESIGN CHOICE), log 75 (DESIGN CHOICE), log 76 (DESIGN CHOICE), log 79 (DESIGN CHOICE), log 80
(DESIGN CHOICE), log 81 (DEDUCED), log 82 (DESIGN CHOICE), log 83 (DESIGN CHOICE), log 92 (DESIGN CHOICE), log 107
(DESIGN CHOICE), log 108 (DESIGN CHOICE), log 110 (DESIGN CHOICE), log 111 (DESIGN CHOICE), log 112 (DESIGN CHOICE),
log 113 (DESIGN CHOICE), log 128 (DESIGN CHOICE), log 130 (DESIGN CHOICE); these clauses are the model's, not the
spec's. -/
def Obligations.ScheduleSteps : Prop :=
  ∀ s : State, SMap.wf regReset s.regs = true →
    (∀ k l, s.launch? k = some l →
      (l.ready = none → s.depsMet l = true → exec (.launchReady k) s = .next (s.becomeReady k))
      ∧ (l.ready ≠ none ∨ s.depsMet l = false → exec (.launchReady k) s = notEnabled))
    ∧ (∀ (used : List WavePlace) (n : Nat) (u : WavePlace), findSlot used n = some u → u.blocks = n ∧ (n ≤ 16 → u.block + n ≤ 16)
      ∧ ¬(u.pipe = 31 ∧ u.slot = 7)
      ∧ ∀ x ∈ used, x.pipe = u.pipe → x.slot ≠ u.slot ∧ (u.block + n ≤ x.block ∨ x.block + x.blocks ≤ u.block))
    ∧ (∀ c size b, s.scratchBase? c size = some b → b % 768 = 0 ∧ b + size ≤ 786432
      ∧ ∀ x ∈ s.wgsOn c, 0 < x.size → 0 < size → b + size ≤ x.base ∨ x.base + x.size ≤ b)
    ∧ (∀ prio a, SMap.wf (fun _ => 0) s.deficits = true → SMap.get 0 (State.serve prio s a).deficits (deficitKey a prio) ≤ 64)
    ∧ (∀ a prio, prio < 4 → s.round.queueEmpty a prio = true → SMap.get 0 s.round.deficits (deficitKey a prio) = 0)
    ∧ (∀ l cl k, s.reserveFor l = (cl, false, k) → s.wouldFit l cl = true ∧ cl ∈ s.clustersOf l.part)
    ∧ (∀ q : Fin 32, (∀ l, SMap.at? s.reservations q.val = none → s.starving? q = some l → exec (.starvationBound q) s =
          .next (State.placeReserved { s with reservations := SMap.insert s.reservations q.val (s.reserveFor l) }))
      ∧ (s.starving? q = none → exec (.starvationBound q) s = notEnabled))
    ∧ (∀ value : DWord, ∃ t, exec (.schboundWrite value) s = .next t
      ∧ (2 ^ 12 ≤ value.toNat → value.toNat ≤ 2 ^ 32 → s.SetsReg t Reg.schBound value)
      ∧ (¬(2 ^ 12 ≤ value.toNat ∧ value.toNat ≤ 2 ^ 32) → t = s))
    ∧ (∀ a : BitVec 8, exec (.schctxRun a) s = .next (s.setRun a true).round ∧ (s.setRun a true).ctxRuns a = true
      ∧ ∃ t, exec (.schctxStop a) s = .next t ∧ t.ctxRuns a = false
        ∧ ∀ g ∈ s.ctxGangs a, g.resident = true → (∀ w ∈ t.waves, w.kind = .launched → w.gang = g.id → w.stopReq = true)
          ∧ ∀ g' ∈ t.gangs, g'.id = g.id → g'.stopping = true)
    ∧ (∀ g x, s.gang? g = some x →
      let gs := s.gangSet x
      let ws := gs.flatMap fun y => s.gangWaves y.id
      let r := s.saveRelease ws
      (gs.all s.savable = true → ∀ w, gs.findSome? (fun y => (s.gangWaves y.id).head?) = some w →
        (s.hasSaveArea w.asid = false → exec (.gangSave g) s =
          .next (ws.foldl (fun (u : State) w => u.freezeWave w 8 0) s))
        ∧ (s.hasSaveArea w.asid = true → exec (.gangSave g) s = .next (if r.1 then (gs.foldl State.saveGang r.2).round else r.2)))
      ∧ (gs.all s.savable = false → exec (.gangSave g) s = notEnabled)
      ∧ (∀ l t, s.launches.find? (fun l => l.slot == x.launch && l.seq == x.seq) = some l →
        (s.ctxRuns l.asid = true → gs.all (·.saved) = true →
          gs.foldl (fun (r : Option State) y => r.bind fun u => u.resumeGang y) (some s) = some t → exec (.gangResume g) s =
            .next ((gs.flatMap fun y => t.gangWaves y.id).foldl (fun (u : State) w => u.resumeReport w.id) t))
        ∧ (s.ctxRuns l.asid = false → exec (.gangResume g) s = notEnabled)))
    ∧ (∀ id w d, s.wave? id = some w → w.det = some d → d.ended = false →
      (w.quantumOver d (s.quantumOf w) = true → ∃ t, exec (.quantumEnd id) s = .next t
        ∧ s.OnlyWave t id { w with det := some { d with ended := true } })
      ∧ (w.quantumOver d (s.quantumOf w) = false → exec (.quantumEnd id) s = notEnabled))
    ∧ ∀ k l d, s.launch? k = some l → l.det = some d →
      let here := fun (key : List Nat) (go : State → State) =>
        { go { s with freeCtr := Config.domainFree (l.record.key ++ 2 :: d.period :: key) } with freeCtr := s.freeCtr }
      let dirty := (s.dueLines l).any fun x => x.2.any (s.core x.1).dirtyLine
      let coming := (s.dueLines l).any fun x => x.2.any (s.lineComing x.1) || !s.servesAll x.2
      (d.ended = false → d.closing = false → s.periodReady l = true → s.buffersFree l = true →
        (dirty = true → exec (.periodEnd k) s =
          .next ((s.dueLines l).foldl (fun (u : State) x => u.dropCopies x.1 x.2) s))
        ∧ (dirty = false → coming = true → exec (.periodEnd k) s = notEnabled)
        ∧ (dirty = false → coming = false → exec (.periodEnd k) s = .next (here [2] fun u => u.closePeriod l)))
      ∧ (d.ended = false → d.closing = true → s.stepBusy l = false →
        (∀ id rest, d.order = id :: rest →
          exec (.periodEnd k) s = .next (here [3 + d.order.length] fun u => u.grantNext l id rest))
        ∧ (d.order = [] → exec (.periodEnd k) s = .next (s.finishPeriod l d.period)))
      ∧ (d.ended = true → exec (.periodEnd k) s = notEnabled)
      ∧ (d.ended = true → s.peersReached l d.period = true → s.resultsOut l = false → s.commitsFree l = true →
          ∀ t, s.deliverPeriod l.part d.period = some t → ∃ u, exec (.periodAdvance k) s = .next u
            ∧ u = { (State.wakeAll { t with freeCtr := Config.domainFree (l.record.key ++ [2, d.period, 0]) } l).startPeriod l with
                freeCtr := t.freeCtr })
      ∧ (d.ended = false ∨ s.peersReached l d.period = false ∨ s.resultsOut l = true → exec (.periodAdvance k) s = notEnabled)
      ∧ (d.ended = false → exec (.periodAdvance k) s = notEnabled)

/-! ## Translation, controllers, registers, the device -/

/-- R141, R146 to R150, R189, R197: a walk reads its tables level by level; a translation gives the place of an address or refuses
it, its rights before its buffer; a page walk reads the tables at their homes and fills the TLBs; an invalidation completes
when the commands accepted before it are done, and leaves nothing that it covers.
Clauses rest on choices of the model: log 30 (DESIGN CHOICE: the walk of a page that no TLB holds), log 31 (DESIGN
CHOICE); these clauses are the model's, not the spec's. -/
def Obligations.TranslationSteps : Prop :=
  ∀ (s : State) (core : Fin 256) (asid : BitVec 8), SMap.wf (fun _ => []) s.clusterTlbs = true →
    (∀ (rd : Reader) ea root (e0 e1 e2 : DWord), root = s.reg (Reg.trRoot asid.toNat) →
      let t0 := bitsOf root.toNat 51 16 * 65536
      let at2 := fun (t : Nat) (hi lo : Nat) (e : DWord) =>
        rd (t + 8 * bitsOf ea hi lo) 8 = .ok (leBytes 8 e.toNat) ∧ e.getLsbD 0 = true ∧ tableReserved e.toNat = false
      (root.getLsbD 0 = false → s.walkWith rd asid ea = .error .memFault)
      ∧ (root.getLsbD 0 = true → at2 t0 54 42 e0 → (e0.getLsbD 1 = true → s.walkWith rd asid ea = .error .memFault)
        ∧ (e0.getLsbD 1 = false → at2 (bitsOf e0.toNat 51 16 * 65536) 41 29 e1 → e1.getLsbD 1 = false →
          at2 (bitsOf e1.toNat 51 16 * 65536) 28 16 e2 → e2.getLsbD 1 = true →
            s.walkWith rd asid ea = .ok { large := false, addr := bitsOf e2.toNat 51 16, rd := e2.getLsbD 3, wr := e2.getLsbD 4,
                                          ex := e2.getLsbD 5, sys := e2.getLsbD 6, bmi := e2.getLsbD 8 })))
    ∧ (∀ user ea acc e, ea < 2 ^ 55 → s.pageOf core asid (ea / 65536) = .ok e →
      let refused := (acc.rd && !e.rd) || (acc.wr && !e.wr) || (acc.ex && !e.ex) || (e.sys && user)
      (refused = true → s.translateAs core asid user false ea acc = .error .memProt)
      ∧ (refused = false → e.bmi = false → s.translateAs core asid user false ea acc = .ok (e.frame * 65536 + ea % 65536))
      ∧ (refused = false → e.bmi = true → e.names = false → s.translateAs core asid user false ea acc = .error .memFault)
      ∧ (refused = false → e.bmi = true → e.names = true → s.translateAs core asid user false ea acc =
          s.bufferMap (s.coreBytes core) asid e.frame ea false))
    ∧ (∀ (w : Wave) eas, ((∀ ea ∈ eas, (s.tlb? w.core w.asid (ea / 65536)).isSome = true) → s.walked w eas = s)
      ∧ (s.walked w eas).waves = s.waves ∧ (s.walked w eas).mem = s.mem
      ∧ (s.walked w eas).clusterTlbs = s.clusterTlbs ∧ (s.walked w eas).controllers = s.controllers)
    ∧ (∀ va, va < 2 ^ 55 →
      let page := va / 65536
      let stale := match s.tlb? core asid page with | some e => s.tlbInvs.any (·.covers e) | none => true
      let lines := s.walkLines (s.coreBytes core) asid (page * 65536)
      (stale = true → s.homesFree core lines = true →
        let u := (s.atHome core lines asid).count (.core core) 0x15 1
        ∃ t, exec (.pageWalk core asid va) s = .next t ∧ t.mem = u.mem ∧ t.homes = u.homes ∧ t.waves = u.waves
        ∧ (∀ l, u.coreWalk core asid (page * 65536) = .ok l → (l.bmi = false ∨ (l.entry asid page).names = true) →
            t.tlb? core asid page = some (l.entry asid page))
        ∧ (∀ l, u.coreWalk core asid (page * 65536) = .ok l → l.bmi = true → (l.entry asid page).names = false →
            t.tlb? core asid page = none)
        ∧ (∀ c, u.coreWalk core asid (page * 65536) = .error c → t.tlb? core asid page = none))
      ∧ (stale = false → exec (.pageWalk core asid va) s = notEnabled))
    ∧ (∀ (i : TlbInv) (e : TlbEntry), i.kind = 2 → e.asid = i.asid → (e.page = i.page
        ∨ e.large = true ∧ e.page / 8192 = i.page / 8192) → i.covers e = true)
    ∧ (∀ (i : Instr) (x : TlbInv), (i, x) ∈
        [(Instr.tlbinvAll, { kind := 0, asid := 0, page := 0, commands := s.acceptedCmds }),
         (.tlbinvAsid asid, { kind := 1, asid := asid, page := 0, commands := s.acceptedCmds })]
        ∨ (∃ p : BitVec 39, (i, x) = (.tlbinvPage asid p, { kind := 2, asid := asid, page := p.toNat, commands := s.acceptedCmds })) →
      ∃ t, exec i s = .next t ∧ t.tlbInvs = s.tlbInvs ++ [x] ∧ t.reg Reg.tlbInvStat = 0
        ∧ { t with regs := s.regs, tlbInvs := s.tlbInvs } = s)
    ∧ ∀ i rest, s.tlbInvs = i :: rest →
      (i.commands.any s.hasCmd = false → ∃ t, exec .tlbinvComplete s = .next t ∧ t.tlbInvs = rest
        ∧ (∀ c a page e, t.tlb? c a page = some e → i.covers e = false ∧ s.tlb? c a page = some e)
        ∧ (SMap.wf regReset s.regs = true → rest = [] → t.reg Reg.tlbInvStat = 1)
        ∧ { t with cores := s.cores, clusterTlbs := s.clusterTlbs, tlbInvs := s.tlbInvs, regs := s.regs } = s)
      ∧ (i.commands.any s.hasCmd = true → exec .tlbinvComplete s = notEnabled)

/-- R92, R94, R96 to R105, R111, R113: the steps of the controllers. A line written back reads as its bytes, in the mode with the
fewest chunks; where no chunk is free it is buffered, and where the buffer is full its master is frozen. Of the buffered lines,
the first whose alloc succeeds is written. A read counts an error that it corrects, and loses the line of another. A page command
changes the state of a page, whose lines read 0; the registers of a controller and of a format window.
Clauses rest on choices of the model: log 86 (DESIGN CHOICE), log 87 (DESIGN CHOICE), log 132 (DESIGN CHOICE), log 133
(DESIGN CHOICE), log 134 (DESIGN CHOICE), log 135 (DESIGN CHOICE); these clauses are the model's, not the spec's. -/
def Obligations.ControllerSteps : Prop :=
  ∀ s : State, SMap.wf regReset s.regs = true →
    (∀ d : Vector Byte 128, (chooseMode d ≠ 9 → fitsMode (chooseMode d) d = true)
      ∧ ∀ m ∈ [0, 2, 3, 4, 5, 6, 7, 8, 9], fitsMode m d = true →
          chunksOf (chooseMode d) < chunksOf m ∨ chunksOf (chooseMode d) = chunksOf m ∧ chooseMode d ≤ m)
    ∧ (∀ line d cand chunk shared t, s.writebackLine line d cand chunk shared = .done t → s.mem.wf = true →
      (s.pageState (line * 128)).state ≠ 0 → t.mem.wf = true ∧ (∀ k < 128, t.mem.read (line * 128 + k) = byteAt d k)
        ∧ ∀ a, a / 128 ≠ line → t.mem.read a = s.mem.read a)
    ∧ (∀ line cand chunk shared x, s.lineWrites.find? (fun w => w.line == line) = some x → x.held = false →
      let mc := mcOf (line * 128)
      let i := Instr.writeback line cand chunk shared
      let s' : State := { s with lineWrites := replaceWrite line none s.lineWrites }
      let s1 := s'.count (.controller mc) 0x31 1
      (∀ c, (s.ctl mc).rebuffer (lineIndex (line * 128)) x.data = some c →
        exec i s = .next ((s'.setCtl mc c).count (.controller mc) 0x31 1))
      ∧ ((s.ctl mc).rebuffer (lineIndex (line * 128)) x.data = none →
        (∀ t, s'.writebackLine line x.data cand chunk shared = .done t → exec i s = .next t)
        ∧ (s'.writebackLine line x.data cand chunk shared = .noChunks →
          ((s.ctl mc).overflow.length < 32768 → exec i s = .next (s1.bufferLine line x.data))
          ∧ (32768 ≤ (s.ctl mc).overflow.length → exec i s = .next ((State.freezeNamed
              { s1 with lineWrites := replaceWrite line (some { x with held := true }) s.lineWrites } x.master 2).interrupt
                (.chunkExhausted mc x.master))))))
    ∧ (∀ mc kept o rest cand chunk shared t, (s.ctl mc).overflow = kept ++ o :: rest →
      (∀ pre (x : OverflowLine) post, kept = pre ++ x :: post →
        (s.modCtl mc fun (c : Controller) => { c with overflow := pre ++ (post ++ o :: rest) }).writebackLine
          (lineOfIndex mc x.index) x.data cand chunk shared = .noChunks) →
      (s.modCtl mc fun (c : Controller) => { c with overflow := kept ++ rest }).writebackLine (lineOfIndex mc o.index) o.data cand
        chunk shared = .done t → exec (.overflowRetry mc cand chunk shared) s = .next (t.enterHeld mc))
    ∧ (∀ line, (s.readsDram line = true → (∃ t, exec (.lineRead line .none) s = .next t ∧ { t with regs := s.regs } = s)
        ∧ (∃ t, exec (.lineRead line .none) s = .next t
            ∧ exec (.lineRead line .corrected) s = .next (t.count (.controller (mcOf (line * 128))) 0x33 1))
        ∧ ∃ t, exec (.lineRead line .uncorrectable) s = .next t ∧ (t.entryOf (line * 128)).mode = 15 ∧ t.mem = s.mem
          ∧ (t.ctl (mcOf (line * 128))).errlog = (s.ctl (mcOf (line * 128))).errlog ++
              [(1, BitVec.ofNat 30 (lineIndex (line * 128)))])
      ∧ (s.readsDram line = false → ∀ u, exec (.lineRead line u) s = notEnabled))
    ∧ (∀ (mc : Fin 8) (page : BitVec 24) (q : Fin 32),
      let old := s.pageCopy mc page.toNat
      let zero := fun (t : State) => s.mem.wf = true → t.mem.wf = true
        ∧ (∀ l ∈ pageLines mc page.toNat, ∀ k < 128, t.mem.read (l * 128 + k) = 0)
        ∧ ∀ a, a / 128 ∉ pageLines mc page.toNat → t.mem.read a = s.mem.read a
      let becomes := fun (i : Instr) (x : PageState) => ∃ t, exec i s = .next t ∧ t.reg (Reg.mcPgStat mc) = 0
        ∧ (SMap.wf (fun _ => PageState.reset) (s.ctl mc).pages = true → t.pageCopy mc page.toNat = x)
        ∧ (∀ n, n ≠ page.toNat → t.pageCopy mc n = s.pageCopy mc n) ∧ zero t
      let fails := fun (i : Instr) (status : DWord) => ∃ t, exec i s = .next t ∧ s.SetsReg t (Reg.mcPgStat mc) status
      (old.state = 0 → becomes (.mcpgcmdPacked mc page q) { state := 2, part := q })
      ∧ (old.state ≠ 0 → fails (.mcpgcmdPacked mc page q) 2 ∧ ∀ ks, fails (.mcpgcmdFixed mc page q ks) 2)
      ∧ (old.state = 0 → ∀ ks,
        (∀ t, State.allocRaw mc q (pageLines mc page.toNat) ks s = .done t →
          becomes (.mcpgcmdFixed mc page q ks) { state := 1, part := q })
        ∧ (State.allocRaw mc q (pageLines mc page.toNat) ks s = .noChunks → fails (.mcpgcmdFixed mc page q ks) 1))
      ∧ (old.state ≠ 0 → becomes (.mcpgcmdUnbacked mc page q) PageState.reset)
      ∧ (old.state = 0 → fails (.mcpgcmdUnbacked mc page q) 2)
      ∧ fails (.mcpgcmdReserved mc page q) 2)
    ∧ (∀ (mc : Fin 8) (x : DWord), (∃ t, exec (.mccrd mc x) s = .next t ∧ s.SetsReg t (Reg.mcCrd mc) x
        ∧ t.readRegister (Reg.mc mc 0x30) = ((s.ctl mc).entry x.toNat).toWord)
      ∧ (∃ t, exec (.mcerrlogPop mc) s = .next t ∧ (t.ctl mc).errlog = (s.ctl mc).errlog.tail
          ∧ { t with controllers := s.controllers } = s ∧ (∀ k, k ≠ mc → t.ctl k = s.ctl k))
      ∧ ∀ q : Fin 32, ∃ t, exec (.mcresvWrite mc q x) s = .next t
          ∧ (s.reservedSum mc q x.toNat ≤ poolSize → s.SetsReg t (Reg.mcResv mc q.val) x)
          ∧ (poolSize < s.reservedSum mc q x.toNat → t = s))
    ∧ ∀ (n : Fin 16) (r : Fin 7) (x : DWord), ∃ t, exec (.fwRegisterWrite n r x) s = .next t
      ∧ (r ≠ 6 → t.reg (Reg.fw n r.val) = x)
      ∧ (r = 6 → x.getLsbD 0 = false → t.reg (Reg.fw n 6) = x &&& 0xFFFFFFFF#64)
      ∧ (r = 6 → x.getLsbD 0 = true → t.regBit (Reg.fw n 6) 0 = true →
          t.reg (Reg.fw n 6) = x &&& 0xFFFFFFFF#64 ∧ (t.windowCfg? n).isSome = true)
      ∧ (∀ q, q ≠ Reg.fw n r.val → t.reg q = s.reg q) ∧ t.mem = s.mem
      ∧ ∀ line, inExpanded (line * 128) = true → (s.windowRange n).1 < line * 128 + 128 →
          line * 128 < (s.windowRange n).1 + (s.windowRange n).2 →
          (∀ h ∈ t.homes, ∀ y ∈ h.lines, y.line ≠ line) ∧ ∀ k ∈ t.cores, ∀ y ∈ k.l1 ++ k.lent, y.line ≠ line

/-- R6, R88, R121, R123, R138, R150, R166, R297, R415, R422, R423: writes of registers. A plain register stores its writable bits; a
read-only register and an unassigned address ignore the write, and above the region the control core takes an access fault; a
producer slot starts once its blocks are free, and stops; the combiner's store is written only while drained, and reads back;
the log's counters start again. A reload lasts from the stop of its unit to its start.
Clauses rest on choices of the model: log 15 (DEDUCED), log 55 (DESIGN CHOICE), log 77 (PRESUMED), log 90 (DEDUCED),
log 91 (DESIGN CHOICE), log 92 (DESIGN CHOICE), log 116 (DESIGN CHOICE), log 127 (DESIGN CHOICE), log 138 (DESIGN
CHOICE); these clauses are the model's, not the spec's. -/
def Obligations.RegisterSteps : Prop :=
  ∀ s : State, SMap.wf regReset s.regs = true →
    let reloading := fun (u : ReloadUnit) => s.startReload u
    (∀ (core : Fin 16) (pa : Nat) (x : DWord),
      let i := Instr.registerWrite { core := core, pa := pa } x
      let faults := fun (cause : Nat) =>
        ({ s with control := s.control.set core { s.control[core] with exception := some cause } } : State)
      (pa = 0x20101000800 → x.toNat / 2 ^ 62 = 3 → exec i s = .next s)
      ∧ (ownStep pa = true → (pa ≠ 0x20101000800 ∨ x.toNat / 2 ^ 62 ≠ 3) → exec i s = notEnabled)
      ∧ (0x21000000000 ≤ pa → exec i s = .next (faults 7) ∧ s.loadRegister core pa = (none, faults 5))
      ∧ (pa < 0x21000000000 → s.loadRegister core pa = (some (s.readRegister pa), s))
      ∧ (ownStep pa = false →
        (∀ m, plainMask pa = some m → ∃ t, exec i s = .next t ∧ s.SetsReg t pa (x &&& BitVec.ofNat 64 m))
        ∧ (plainMask pa = none → isCount pa = true → ∃ t, exec i s = .next t ∧ { t with regs := s.regs } = s
            ∧ t.regBits pa 47 0 = bitsOf x.toNat 47 0 ∧ t.regBit pa 48 = (s.regBit pa 48 && x.getLsbD 48))
        ∧ (pa = Reg.klCtl → ∃ t, exec i s = .next t ∧ t.regBit pa 0 = x.getLsbD 0
            ∧ t.regBits pa 6 1 = s.regBits pa 6 1)
        ∧ (∀ k < 1024, pa = Reg.klRoute k → ∃ t, exec i s = .next t ∧ s.SetsReg t pa (routeValue x))
        ∧ (∀ a : BitVec 8, pa = Reg.schCtx a.toNat → exec i s = .next (s.writeSchCtx a x))
        ∧ (pa ∈ [Reg.mc 0 0, Reg.dlWr 0, Reg.tlbInvStat, Reg.frzWr, Reg.devInfo, Reg.bootStat + 8, Reg.thermMax, 0x20109000000] →
            exec i s = .next s)))
    ∧ (∀ u, (∀ r ∈ s.reloads, r.unit ≠ u) → (reloading u).reloads = s.reloads ++ [{ unit := u, since := s.tick }])
    ∧ (∀ u k x, ∃ t, exec (.counterSelectWrite u k x) s = .next t
      ∧ (k < counterCount u → sourceOk u (x.toNat % 256) = true → s.SetsReg t (Reg.counters u + 8 * k) (x &&& 0x1FF#64))
      ∧ (¬(k < counterCount u ∧ sourceOk u (x.toNat % 256) = true) → t = s))
    ∧ (∀ c : Fin 256,
      (∀ w, s.producer? c = some w → exec (.psctlRun c) s = .next s
        ∧ (w.producerHalts = true → exec (.psctlStop c) s = .next (State.stopProducer (reloading (.producer c)) w))
        ∧ (w.producerHalts = false → ∃ t w', exec (.psctlStop c) s = .next t ∧ t.wave? w.id = some w'
            ∧ (s.wave? w.id = some w → w' = { w with stopReq := true }) ∧ t.reg (Reg.ps c 0) = 0 ∧ t.mem = s.mem))
      ∧ (s.producer? c = none →
        (∃ t, exec (.psctlStop c) s = .next t ∧ t.waves = s.waves ∧ t.reg (Reg.ps c 0) = 2
          ∧ t.reloads = (reloading (.producer c)).reloads)
        ∧ (s.slotTaken c = true → exec (.psctlRun c) s = notEnabled)
        ∧ (s.slotTaken c = false → ∃ t w p, exec (.psctlRun c) s = .next t ∧ (∀ r ∈ t.reloads, r.unit ≠ .producer c) ∧ t.waves = s.waves ++ [w] ∧ t.reg (Reg.ps c 0) = 1 ∧ w.kind = .producer
          ∧ w.core = c ∧ w.pipe = 31 ∧ w.slot = 7 ∧ w.nv = 16 ∧ w.ns = 16 ∧ w.asid = (s.reg (Reg.ps c 8)).setWidth 8
          ∧ join64 w.s[0] w.s[1] = s.reg (Reg.ps c 0x18) ∧ w.paths = [p] ∧ p.pc = 4 * s.regBits (Reg.ps c 0x20) 9 0
          ∧ p.mask = 0xFFFFFFFF#32))
      ∧ ∀ off x, (s.regBit (Reg.ps c 0) 1 = false → exec (.producerLoadWrite c off x) s = .next s)
        ∧ (s.regBit (Reg.ps c 0) 1 = true →
          (∃ t, exec (.producerLoadWrite c 8 x) s = .next t ∧ s.SetsReg t (Reg.ps c 8) (x &&& 0xFF#64))
          ∧ (∃ t, exec (.producerLoadWrite c 0x10 x) s = .next t ∧ s.SetsReg t (Reg.ps c 0x10) (x &&& 0xFFFF#64))
          ∧ (off % 4 = 0 → off < 0x1000 → ∃ t, exec (.producerLoadWrite c (0x1000 + off) x) s = .next t
            ∧ t.blockWord (Reg.ps c 0x1000) (off / 4) = lo32 x
            ∧ ∀ k, k ≠ off / 4 → t.blockWord (Reg.ps c 0x1000) k = s.blockWord (Reg.ps c 0x1000) k)))
    ∧ (∃ t, exec .cmbctlStop s = .next t ∧ t.reg Reg.cmbCtl = 1 ∧ t.reloads = (reloading .combiners).reloads
      ∧ { t with regs := s.regs, reloads := s.reloads } = s)
    ∧ (∃ t, exec .cmbctlResume s = .next t ∧ t.reg Reg.cmbCtl = 0 ∧ (∀ r ∈ t.reloads, r.unit ≠ .combiners)
      ∧ { t with regs := s.regs, reloads := s.reloads, freeCtr := s.freeCtr } = s)
    ∧ (∀ off x, (s.cmbDrained = false → exec (.cmbMethodWrite off x) s = .next s)
      ∧ (s.cmbDrained = true →
        (off % 8 = 0 → 0x50000 ≤ off → off < 0x52000 → ∃ t, exec (.cmbMethodWrite off x) s = .next t
          ∧ s.SetsReg t (Reg.home off) (cmbDirValue x))
        ∧ (off % 4 = 0 → off < 0x20000 → ∃ t, exec (.cmbMethodWrite (0x58000 + off) x) s = .next t
          ∧ t.blockWord (Reg.cmbStore 0) (off / 4) = lo32 x ∧ t.readRegister (Reg.cmbStore 0 + off) = (lo32 x).setWidth 64
          ∧ ∀ k, k ≠ off / 4 → t.blockWord (Reg.cmbStore 0) k = s.blockWord (Reg.cmbStore 0) k)))
    ∧ ∀ (a : BitVec 8) (x : DWord),
      (∀ size : Bool, ∃ t, exec (.dlConfigWrite size a x) s = .next t ∧ { t with regs := s.regs } = s
        ∧ t.reg (if size then Reg.dlSize a.toNat else Reg.dlBase a.toNat) = x ∧ t.reg (Reg.dlWr a.toNat) = 0
        ∧ t.reg (Reg.dlRd a.toNat) = 0 ∧ t.reg (Reg.dlDrop a.toNat) = 0)
      ∧ ∃ t, exec (.dldropRead a) s = .next t ∧ s.SetsReg t (Reg.dlDrop a.toNat) 0

/-- R413 to R418, R420, R421: bring-up and the device. A reset whose steps all pass leaves the record's values and running
control cores; a failing step, the watchdog and a reading of 110 degrees leave no compute state and no port. Writes of device
control, the sensors, whose drifts ask for a new plan, and the host's transactions, of which those outside what a function maps
have no effect; the control cores bind and enable the functions.
Clauses rest on choices of the model: log 10 (DESIGN CHOICE), log 11 (DESIGN CHOICE), log 70 (DEDUCED), log 88 (DESIGN
CHOICE), log 89 (DEDUCED), log 93 (DESIGN CHOICE), log 94 (DESIGN CHOICE), log 95 (DESIGN CHOICE), log 96 (DESIGN
CHOICE), log 97 (DESIGN CHOICE); these clauses are the model's, not the spec's. -/
def Obligations.DeviceSteps : Prop :=
  ∀ s : State, SMap.wf regReset s.regs = true →
    (∀ (derived readable trained : Bool),
      let flash := s.device.flash
      let r := Config.bootRecord flash
      let f := s.bootFailure derived readable trained
      (derived = false → f = 1) ∧ (derived = true → readable = false → f = 2)
      ∧ (derived = true → readable = true → Config.flashSigned flash = false ∨ r.version < s.device.protectedVersion → f = 3)
      ∧ (derived = true → readable = true → Config.flashSigned flash = true → s.device.protectedVersion ≤ r.version →
        (Config.imageVersion flash < r.minImage → f = 4)
        ∧ (r.minImage ≤ Config.imageVersion flash → (Config.recordApplies flash = false → f = 5)
          ∧ (Config.recordApplies flash = true → f = if trained then 0 else 6)))
      ∧ ∃ t, exec (.powerOnReset derived readable trained) s = .next t ∧ t.waves = [] ∧ t.mem = [] ∧ t.tick = 0 ∧ t.launches = []
        ∧ t.device.flash = s.device.flash ∧ (f = 0 ∨ 4 < f → t.device.protectedVersion = r.version)
        ∧ (1 ≤ f → f ≤ 4 → t.device.protectedVersion = s.device.protectedVersion)
        ∧ (f = 0 → t.device.running = true ∧ t.reg Reg.devInfo = BitVec.ofNat 64 (2 ^ 48 + r.devid.toNat)
          ∧ t.reg Reg.serial = Config.serial ∧ t.reg Reg.pwrLim = r.powerLimit.setWidth 64
          ∧ (∀ p (h : p < min 32 r.partitions.length), t.reg (Reg.partCl p) = (r.partitions[p]'(by omega)).setWidth 64)
          ∧ (∀ n : Fin 16, t.regBit (Reg.klPort n.val) 1 = r.klEnable.getLsbD n.val)
          ∧ ∀ k : Fin 16, (t.control[k]).held = false)
        ∧ (f ≠ 0 → t.device.running = false ∧ t.regBits Reg.bootStat 3 0 = f
          ∧ (∀ n : Fin 16, t.regBit (Reg.klPort n.val) 1 = false) ∧ ∀ k : Fin 16, (t.control[k]).held = true))
    ∧ (s.device.running = true → s.started = false → 2 ^ 34 ≤ s.tick - s.device.releaseTick →
      ∃ t, exec .bootWatchdog s = .next t ∧ t.regBits Reg.bootStat 3 0 = 7 ∧ t.device.running = false ∧ t.waves = []
        ∧ (∀ n : Fin 16, t.regBit (Reg.klPort n.val) 1 = false) ∧ t.device.flash = s.device.flash)
    ∧ (s.started = true → exec .bootWatchdog s = notEnabled)
    ∧ (∀ x : DWord, ∃ t, exec (.bootstatWrite x) s = .next t ∧ { t with regs := s.regs } = s
      ∧ t.started = (s.started || x.getLsbD 8) ∧ t.regBits Reg.bootStat 3 0 = s.regBits Reg.bootStat 3 0)
    ∧ (∀ (q : Fin 32) (x : DWord),
      (s.overlaps q (x &&& 0xFFFFFFFF#64) = true ∨ s.partBusy q = true → exec (.partclWrite q x) s = .next s)
      ∧ (s.overlaps q (x &&& 0xFFFFFFFF#64) = false → s.partBusy q = false →
          exec (.partclWrite q x) s = .next (s.setReg (Reg.partCl q.val) (x &&& 0xFFFFFFFF#64)).round))
    ∧ (∀ x : DWord, ∃ t, exec (.pwrlimWrite x) s = .next t
      ∧ (300 ≤ x.toNat → x.toNat ≤ 2400 → s.SetsReg t Reg.pwrLim x) ∧ (¬(300 ≤ x.toNat ∧ x.toNat ≤ 2400) → t = s))
    ∧ (∀ c : BitVec 8, (110 ≤ c.toNat → ∃ t, exec (.thermalTrip c) s = .next t ∧ t.waves = [] ∧ t.mem = [] ∧ t.launches = []
        ∧ t.device.running = false ∧ t.device.flash = s.device.flash ∧ t.device.functions = [] ∧ t.device.tripped = true
        ∧ (∀ n : Fin 16, t.portUp n = false))
      ∧ (c.toNat < 110 → exec (.thermalTrip c) s = notEnabled)
      ∧ ∀ avg, 110 ≤ c.toNat → exec (.powerThermalThrottle avg c) s = exec (.thermalTrip c) s)
    ∧ (∀ (avg : BitVec 12) (hot : BitVec 8), hot.toNat < 110 →
      ((s.reg Reg.pwrLim).toNat < avg.toNat → exec (.powerThermalThrottle avg hot) s = notEnabled)
      ∧ (avg.toNat ≤ (s.reg Reg.pwrLim).toNat → ∃ t, exec (.powerThermalThrottle avg hot) s = .next t
        ∧ t.reg Reg.pwrAvg = avg.setWidth 64 ∧ t.reg Reg.thermMax = hot.setWidth 64 ∧ { t with regs := s.regs } = s))
    ∧ (∀ ds : List (BitVec 16),
      let u := s.sensed ds
      let due := u.planDue || u.ageDrifted
      (∀ d < 9, ds.length ≤ d → u.reg (Reg.ageMon d) = s.reg (Reg.ageMon d))
      ∧ (∀ d < 9, 150 < (((u.reg (Reg.ageMon d)).setWidth 16 : BitVec 16).toInt).natAbs → due = true)
      ∧ (due = true → ∃ t, exec (.marginReplan ds) s = .next t ∧ t.device.planTick = s.tick
        ∧ t.interrupts = s.interrupts ++ [.marginReplan]
        ∧ (∀ d (h : d < min 9 ds.length), t.reg (Reg.ageMon d) = (ds[d]'(by omega)).setWidth 64)
        ∧ { t with regs := s.regs, device := s.device, interrupts := s.interrupts } = s)
      ∧ (due = false → exec (.marginReplan ds) s = notEnabled))
    ∧ (∀ (d : Fin 4) (x : DWord), ∃ t, exec (.vddarrWrite d x) s = .next t
      ∧ { t with regs := s.regs, device := s.device, freeCtr := s.freeCtr } = s
      ∧ (550 ≤ x.toNat → x.toNat ≤ 900 → t.reg (Reg.vddArr d.val) = x ∧ t.reg (Reg.ageMon d.val) = 0
          ∧ s.tick + 380 * ((s.reg (Reg.vddArr d.val)).toNat - x.toNat + (x.toNat - (s.reg (Reg.vddArr d.val)).toNat))
              ≤ t.device.rampEnd[d]
          ∧ ∀ k : Fin 4, k ≠ d → t.device.rampEnd[k] = s.device.rampEnd[k])
      ∧ (¬(550 ≤ x.toNat ∧ x.toNat ≤ 900) → t = s))
    ∧ (∀ core : Fin 256, s.ramping core = true ↔ s.tick < s.device.rampEnd[core.val / 64])
    ∧ ∀ (fn off n : Nat) (bs : List Byte),
      let window := fun (len : Nat) => (s.function? fn).bind fun f => f.bar0? off len
      (window bs.length = none → exec (.hostBarAccess (.bar0Write fn off bs)) s = .next s)
      ∧ (window n = none → exec (.hostBarAccess (.bar0Read fn off n)) s = .next s)
      ∧ (∀ p pa, window bs.length = some (p, pa) →
        (s.crossesIn p pa bs.length = true → exec (.hostBarAccess (.bar0Write fn off bs)) s =
          .next (if fn = 0 then s else s.freezeMaster (functionMaster fn) 1 0))
        ∧ (s.crossesIn p pa bs.length = false → s.servesRange pa bs.length = false →
          exec (.hostBarAccess (.bar0Write fn off bs)) s = notEnabled)
        ∧ (s.crossesIn p pa bs.length = false → s.servesRange pa bs.length = true →
          exec (.hostBarAccess (.bar0Write fn off bs)) s = .next (s.unitWrite pa bs 0)))
      ∧ (∀ p pa, window n = some (p, pa) → s.crossesIn p pa n = false →
        (s.servesRange pa n = true → exec (.hostBarAccess (.bar0Read fn off n)) s = .next (s.visit pa n 0))
        ∧ (s.servesRange pa n = false → exec (.hostBarAccess (.bar0Read fn off n)) s = notEnabled))
      ∧ (∀ f, s.device.functions[fn]? = some f →
        let sets := fun (access : HostAccess) (g : PcieFunction) => ∃ t, exec (.hostBarAccess access) s = .next t
          ∧ t.device.functions[fn]? = some g ∧ (∀ k, k ≠ fn → t.device.functions[k]? = s.device.functions[k]?)
          ∧ { t with device := s.device } = s
        (fn ≠ 0 → ∀ q base len, sets (.bind fn q base len) { f with part := some q, base := base, len := len })
        ∧ sets (.enable fn) { f with enabled := true }
        ∧ (off + bs.length ≤ 65536 → f.message.wf = true →
          ∃ m, sets (.message fn off bs) { f with message := m } ∧ ∀ k (h : k < bs.length), m.read (off + k) = bs[k]))
      ∧ (∀ q base len, exec (.hostBarAccess (.bind 0 q base len)) s = .next s)
      ∧ (∀ f, s.function? fn = some f → off + bs.length ≤ 65536 → f.message.wf = true →
        ∃ t g, exec (.hostBarAccess (.bar2Write fn off bs)) s = .next t ∧ t.device.functions[fn]? = some g
          ∧ (∀ k (h : k < bs.length), g.message.read (off + k) = bs[k]) ∧ { g with message := f.message } = f
          ∧ { t with device := s.device } = s)
      ∧ (∀ access ∈ [HostAccess.bar2Read fn off n, .flashRead off n, .bootstatRead],
          exec (.hostBarAccess access) s = .next s)
      ∧ (s.inRecovery = true → off + bs.length ≤ 2 ^ 28 → s.device.flash.wf = true → ∃ t, exec (.hostBarAccess (.flashWrite off bs)) s = .next t
        ∧ (∀ k (h : k < bs.length), t.device.flash.read (off + k) = bs[k]) ∧ { t with device := s.device } = s)
      ∧ (s.inRecovery = false → exec (.hostBarAccess (.flashWrite off bs)) s = .next s)

/-! ## The machine -/

/-- R96, R159, R216: line space, the scratchpads, the Stacks, the shelves and the accumulators, the flash, the message memories, and
the maps of registers, deficits, tasks, cluster TLBs and page states keep their canonical form in every step.
Clauses rest on choices of the model: log 14 (DESIGN CHOICE); these clauses are the model's, not the spec's. -/
def Obligations.StepKeepsMemory : Prop := ∀ s t : State, s.memoryWf = true → step s = .next t → t.memoryWf = true
end

