-- ==== Sys2Proof/Laws/Card.lean ====
section
/-! SUPPORT. The frame of every card, said once: an instruction whose checks pass, at a place that is no switch point or
behind one, is its body. -/

namespace Sys2Proof.Machine

/-- What the checks of R60 demand of a card. -/
structure Card.Passes (k : Card) (w : Wave) (p : Path) : Prop where
  typeOk : k.typeOk = true
  priv : k.priv = true
  extra : k.extra = true
  fields : allFree k.fields w p = true
  uniform : noneStreamed k.uniform p = true

theorem Card.Passes.ok {k : Card} {w : Wave} {p : Path} (h : k.Passes w p) : k.fields.all (·.ok w) = true := by
  have := h.fields
  simp only [allFree, List.all_eq_true, Field.free, Bool.and_eq_true] at this ⊢
  exact fun f hf => (this f hf).1.1

theorem Card.Passes.static {k : Card} {w : Wave} {p : Path} (h : k.Passes w p) : k.static w p = none := by
  have hu := h.uniform
  simp only [noneStreamed, Bool.not_eq_true'] at hu
  simp [Card.static, h.typeOk, h.priv, h.extra, h.ok, hu]

theorem Card.Passes.waits {k : Card} {w : Wave} {p : Path} (h : k.Passes w p) : k.waits p = [] := by
  have := h.fields
  simp only [allFree, List.all_eq_true, Field.free, Bool.and_eq_true, Bool.not_eq_true', List.any_eq_false] at this
  simp only [Card.waits, List.filter_eq_nil_iff, List.mem_flatMap]
  rintro r ⟨f, hf, hr⟩
  exact (this f hf).2 r hr

theorem Card.Passes.fresh {k : Card} {w : Wave} {p : Path} (h : k.Passes w p) : k.fields.any (·.stale p) = false := by
  have := h.fields
  simp only [allFree, List.all_eq_true, Field.free, Bool.and_eq_true, Bool.not_eq_true'] at this
  simp only [List.any_eq_false, Bool.not_eq_true]
  exact fun f hf => (this f hf).1.2

/-- With no register to wait for, what is left of the frame is the body. -/
theorem Card.proceed_body {k : Card} {i : Instr} {w : Wave} {p : Path} {sw : Bool} {s : State}
    (hw : k.waits p = []) (hf : k.fields.any (·.stale p) = false) (hc : k.commits w sw = false)
    (hb : (k.blocking && w.stopping) = false) (hs : (k.sync && !w.mayAct) = false) : k.proceed i w p sw s = k.body w p s := by
  have hrun : k.run w p s = k.body w p s := by
    unfold Card.run
    rw [hb]
    simp only [Bool.false_eq_true, if_false]
    cases hd : w.det with
    | none => rfl
    | some d =>
      simp only [Wave.mayAct, hd] at hs
      simp only [hs, Bool.false_eq_true, if_false]
  have hn : ∀ l : List RegName, l.any (([] : List RegName).contains ·) = false := fun l =>
    List.any_eq_false.2 fun _ _ => by simp
  have hp : p.pending.filter (fun r => !([] : List RegName).contains r) = p.pending :=
    List.filter_eq_self.2 fun _ _ => by simp
  unfold Card.proceed
  simp only [hw, hc, hf, hn, hp, Bool.false_and, Bool.false_eq_true, if_false, List.isEmpty_nil, if_true]
  rw [List.find?_eq_none.2 (by simp), List.any_eq_false.2 (by simp)]
  simpa using hrun

/-- No report to deliver. -/
theorem State.deliver_none {s : State} {k : Card} {w : Wave} {p : Path} {sw : Bool}
    (h : (s.quiet w = true ∧ k.missed = none) ∨ (sw = false ∧ k.race = false ∧ k.cancelMoment w p sw = false ∧ k.blocking = false)) :
    s.deliver? k w p sw = none := by
  unfold State.deliver?
  split
  · rfl
  rcases h with ⟨h, hm⟩ | ⟨h1, h2, h3, h4⟩
  · simp only [State.quiet, Bool.and_eq_true, List.isEmpty_iff, Option.isNone_iff_eq_none] at h
    obtain ⟨⟨⟨h1, h0⟩, h2⟩, h3⟩ := h
    have hr : ∀ c, s.takeReport? w c = none := fun c => by simp [State.takeReport?, h1]
    have hp : k.promise? w p = none := by simp [Card.promise?, h0, hm]
    simp only [hr, h2, h3, hp, ite_self, Option.map_none]
    rfl
  · have hp : k.promise? w p = none := by simp [Card.promise?, h4]
    subst h1
    simp only [h2, h3, hp, Bool.false_eq_true, if_false, Option.map_none]
    rfl

/-- An instruction that is no switch point and whose checks pass is its body. -/
theorem runCard_plain {i : Instr} {mk : Wave → Path → Card} {s : State} {w : Wave} {p : Path} (h : s.Runs w p)
    (hc : p.calm = true) (hk : (mk w p).Passes w p) (hsw : (mk w p).switch = false)
    (hq : (s.quiet w = true ∧ (mk w p).missed = none) ∨
      ((mk w p).race = false ∧ (mk w p).blocking = false ∧ (mk w p).cancels = false))
    (hi : (mk w p).commits w false = false) (hv : ((mk w p).irrev && w.versioned) = false)
    (hb : ((mk w p).blocking && w.stopping) = false) (hs : ((mk w p).sync && !w.mayAct) = false) :
    runCard i mk s = (mk w p).body w p s := by
  simp only [Path.calm, Bool.and_eq_true, Bool.not_eq_true', bne_iff_ne, ne_eq] at hc
  obtain ⟨⟨c1, c2⟩, c3⟩ := hc
  have hisw : (mk w p).isSwitch w p = false := by
    simp [Card.isSwitch, hsw, c1, hk.waits, hv, c2]
  have hm : (mk w p).blocking = false ∧ (mk w p).cancels = false → (mk w p).cancelMoment w p false = false := fun ⟨a, b⟩ => by
    have hw : w.pointWait [] = false := by simp [Wave.pointWait]
    simp [Card.cancelMoment, a, b, c3, hi, hk.waits, hw]
  unfold runCard
  rw [h.cursor]
  simp only [h.starts, hisw]
  rw [if_neg (by decide)]
  simp only [Bool.false_and, Bool.false_eq_true, if_false, hk.static]
  unfold Card.issue
  rw [State.deliver_none (hq.imp id fun ⟨a, b, c⟩ => ⟨rfl, a, hm ⟨b, c⟩, b⟩)]
  simp only [Bool.false_eq_true, if_false]
  exact Card.proceed_body hk.waits hk.fresh hi hb hs

/-- An instruction that is a switch point, kept by its path, with no report to deliver: its body, behind the switch. -/
theorem runCard_switch {i : Instr} {mk : Wave → Path → Card} {s : State} {w : Wave} {p : Path} (h : s.Runs w p)
    (hsw : (mk w p).switch = true) (hk : (mk w p).Passes w p.atSwitch) (hq : s.quiet w = true) (hm : (mk w p).missed = none)
    (hr : s.keepsPipe w p = true) (hp : (w.kind == .producer && w.stopReq) = false)
    (hi : (mk w p).commits w true = false) (hb : ((mk w p).blocking && w.stopping) = false) (hs : ((mk w p).sync && !w.mayAct) = false) :
    runCard i mk s = (mk w p).body (w.switched p) p.atSwitch (s.switched w p) := by
  have hisw : (mk w p).isSwitch w p = true := by simp [Card.isSwitch, hsw]
  have hriv : (if (true && !p.swDone && !(mk w p).last) = true then s.rival? w p else none) = none := by
    cases hd : p.swDone with
    | true => rfl
    | false =>
      have : s.rival? w p = none := by simpa [State.keepsPipe, hd] using hr
      rw [this, ite_self]
  unfold runCard
  rw [h.cursor]
  simp only [h.starts, hisw]
  rw [if_neg (by decide)]
  simp only [Bool.true_and, hp, Bool.false_eq_true, if_false, if_true, hk.static]
  simp only [Bool.true_and] at hriv
  rw [hriv]
  simp only
  unfold Card.issue
  rw [State.deliver_none (Or.inl ⟨hq, hm⟩)]
  simp only [if_true]
  exact Card.proceed_body hk.waits hk.fresh hi hb hs

/-- A card that switches, delivers and holds nothing. -/
def Card.Simple (k : Card) : Prop :=
  k.switch = false ∧ k.race = false ∧ k.blocking = false ∧ k.cancels = false ∧ k.irrev = false ∧ k.sync = false
    ∧ k.drains = false

/-- A simple card that is ready is its body. -/
theorem State.Ready.run {i : Instr} {mk : Wave → Path → Card} {s : State} {w : Wave} {p : Path} {fields uniform : List Field}
    (h : s.Ready w p fields uniform) (hf : (mk w p).fields = fields) (hu : (mk w p).uniform = uniform)
    (ht : (mk w p).typeOk = true) (hp : (mk w p).priv = true) (he : (mk w p).extra = true) (hs : (mk w p).Simple) :
    runCard i mk s = (mk w p).body w p s := by
  obtain ⟨h1, h2, h3, h4, h5, h6, h7⟩ := hs
  exact runCard_plain h.runs h.calm ⟨ht, hp, he, hf ▸ h.free, hu ▸ h.plain⟩ h1 (Or.inr ⟨h2, h3, h4⟩)
    (by simp [Card.commits, h5, h6, h7]) (by simp [h5]) (by simp [h3]) (by simp [h6])

/-- A card that is no switch point, that is ready and clear, is its body. -/
theorem State.ReadyClear.run {i : Instr} {mk : Wave → Path → Card} {s : State} {w : Wave} {p : Path}
    {fields uniform : List Field} (h : s.ReadyClear w p fields uniform) (hf : (mk w p).fields = fields)
    (hu : (mk w p).uniform = uniform) (ht : (mk w p).typeOk = true) (hp : (mk w p).priv = true)
    (he : (mk w p).extra = true) (hs : (mk w p).switch = false) (hi : ((mk w p).irrev && w.versioned) = false)
    (hm : (mk w p).missed = none) :
    runCard i mk s = (mk w p).body w p s := by
  have hd := h.undisturbed
  simp only [Wave.undisturbed, Bool.and_eq_true, Bool.not_eq_true'] at hd
  exact runCard_plain h.runs h.calm ⟨ht, hp, he, hf ▸ h.free, hu ▸ h.plain⟩ hs (Or.inl ⟨h.quiet, hm⟩)
    (by simp [Card.commits, hd.2, hi]) hi (by simp [Wave.stopping, hd.1]) (by simp [h.mayAct])

/-- A card that is a switch point, that is ready, is its body behind the switch. -/
theorem State.ReadySwitch.run {i : Instr} {mk : Wave → Path → Card} {s : State} {w : Wave} {p : Path}
    {fields uniform : List Field} (h : s.ReadySwitch w p fields uniform) (hf : (mk w p).fields = fields)
    (hu : (mk w p).uniform = uniform) (ht : (mk w p).typeOk = true) (hp : (mk w p).priv = true)
    (he : (mk w p).extra = true) (hs : (mk w p).switch = true) (hi : ((mk w p).irrev && w.versioned) = false)
    (hm : (mk w p).missed = none) :
    runCard i mk s = (mk w p).body (w.switched p) p.atSwitch (s.switched w p) := by
  have hd := h.undisturbed
  simp only [Wave.undisturbed, Bool.and_eq_true, Bool.not_eq_true'] at hd
  exact runCard_switch h.runs hs ⟨ht, hp, he, hf ▸ h.free, hu ▸ h.plain⟩ h.quiet hm h.keeps (by simp [hd.1])
    (by simp [Card.commits, hd.2, hi]) (by simp [Wave.stopping, hd.1]) (by simp [h.mayAct])

end Sys2Proof.Machine
end

