-- ==== Sys2Proof/Laws/Exec.lean ====
section
/-! SUPPORT. What `exec` calls for each constructor. -/

namespace Sys2Proof.Machine

set_option Elab.async false
set_option linter.unusedVariables false

theorem exec_illegal word s : exec (.illegal word) s = execIllegal word s := rfl
theorem exec_nop s : exec (.nop) s = execNop s := rfl
theorem exec_mode imm s : exec (.mode imm) s = execMode imm s := rfl
theorem exec_li nw d imm s : exec (.li nw d imm) s = execLi nw d imm s := rfl
theorem exec_lih nw d imm s : exec (.lih nw d imm) s = execLih nw d imm s := rfl
theorem exec_addi nw d imm s : exec (.addi nw d imm) s = execAddi nw d imm s := rfl
theorem exec_br off s : exec (.br off) s = execBr off s := rfl
theorem exec_jmp off s : exec (.jmp off) s = execJmp off s := rfl
theorem exec_call off s : exec (.call off) s = execCall off s := rfl
theorem exec_jpt off s : exec (.jpt off) s = execJpt off s := rfl
theorem exec_ret a s : exec (.ret a) s = execRet a s := rfl
theorem exec_jtab a b s : exec (.jtab a b) s = execJtab a b s := rfl
theorem exec_exit s : exec (.exit) s = execExit s := rfl
theorem exec_yield s : exec (.yield) s = execYield s := rfl
theorem exec_trap imm s : exec (.trap imm) s = execTrap imm s := rfl
theorem exec_sysc d a b s : exec (.sysc d a b) s = execSysc d a b s := rfl
theorem exec_add nw d a b s : exec (.add nw d a b) s = execAdd nw d a b s := rfl
theorem exec_sub nw d a b s : exec (.sub nw d a b) s = execSub nw d a b s := rfl
theorem exec_mul nw d a b s : exec (.mul nw d a b) s = execMul nw d a b s := rfl
theorem exec_mulh nw d a b s : exec (.mulh nw d a b) s = execMulh nw d a b s := rfl
theorem exec_mad nw d a b s : exec (.mad nw d a b) s = execMad nw d a b s := rfl
theorem exec_min nw d a b s : exec (.min nw d a b) s = execMin nw d a b s := rfl
theorem exec_max nw d a b s : exec (.max nw d a b) s = execMax nw d a b s := rfl
theorem exec_addmin nw d a b s : exec (.addmin nw d a b) s = execAddmin nw d a b s := rfl
theorem exec_addmax nw d a b s : exec (.addmax nw d a b) s = execAddmax nw d a b s := rfl
theorem exec_and nw d a b s : exec (.and nw d a b) s = execAnd nw d a b s := rfl
theorem exec_or nw d a b s : exec (.or nw d a b) s = execOr nw d a b s := rfl
theorem exec_xor nw d a b s : exec (.xor nw d a b) s = execXor nw d a b s := rfl
theorem exec_shl nw d a b s : exec (.shl nw d a b) s = execShl nw d a b s := rfl
theorem exec_shr nw d a b s : exec (.shr nw d a b) s = execShr nw d a b s := rfl
theorem exec_sha nw d a b s : exec (.sha nw d a b) s = execSha nw d a b s := rfl
theorem exec_fshl nw d a b s : exec (.fshl nw d a b) s = execFshl nw d a b s := rfl
theorem exec_fshr nw d a b s : exec (.fshr nw d a b) s = execFshr nw d a b s := rfl
theorem exec_rol nw d a b s : exec (.rol nw d a b) s = execRol nw d a b s := rfl
theorem exec_sel nw d a b s : exec (.sel nw d a b) s = execSel nw d a b s := rfl
theorem exec_bfx nw d a b s : exec (.bfx nw d a b) s = execBfx nw d a b s := rfl
theorem exec_bfi nw d a b s : exec (.bfi nw d a b) s = execBfi nw d a b s := rfl
theorem exec_cmp nw k c a b s : exec (.cmp nw k c a b) s = execCmp nw k c a b s := rfl
theorem exec_div nw d a b s : exec (.div nw d a b) s = execDiv nw d a b s := rfl
theorem exec_rem nw d a b s : exec (.rem nw d a b) s = execRem nw d a b s := rfl
theorem exec_twosum nw d a b s : exec (.twosum nw d a b) s = execTwosum nw d a b s := rfl
theorem exec_fasttwosum nw d a b s : exec (.fasttwosum nw d a b) s = execFasttwosum nw d a b s := rfl
theorem exec_twoprod nw d a b s : exec (.twoprod nw d a b) s = execTwoprod nw d a b s := rfl
theorem exec_not nw d a s : exec (.not nw d a) s = execNot nw d a s := rfl
theorem exec_neg nw d a s : exec (.neg nw d a) s = execNeg nw d a s := rfl
theorem exec_abs nw d a s : exec (.abs nw d a) s = execAbs nw d a s := rfl
theorem exec_popc nw d a s : exec (.popc nw d a) s = execPopc nw d a s := rfl
theorem exec_clz nw d a s : exec (.clz nw d a) s = execClz nw d a s := rfl
theorem exec_ctz nw d a s : exec (.ctz nw d a) s = execCtz nw d a s := rfl
theorem exec_brev nw d a s : exec (.brev nw d a) s = execBrev nw d a s := rfl
theorem exec_rcp nw d a s : exec (.rcp nw d a) s = execRcp nw d a s := rfl
theorem exec_rsq nw d a s : exec (.rsq nw d a) s = execRsq nw d a s := rfl
theorem exec_sqrt nw d a s : exec (.sqrt nw d a) s = execSqrt nw d a s := rfl
theorem exec_exp2 nw d a s : exec (.exp2 nw d a) s = execExp2 nw d a s := rfl
theorem exec_log2 nw d a s : exec (.log2 nw d a) s = execLog2 nw d a s := rfl
theorem exec_sin2pi nw d a s : exec (.sin2pi nw d a) s = execSin2pi nw d a s := rfl
theorem exec_cos2pi nw d a s : exec (.cos2pi nw d a) s = execCos2pi nw d a s := rfl
theorem exec_floor nw d a s : exec (.floor nw d a) s = execFloor nw d a s := rfl
theorem exec_ceil nw d a s : exec (.ceil nw d a) s = execCeil nw d a s := rfl
theorem exec_trunc nw d a s : exec (.trunc nw d a) s = execTrunc nw d a s := rfl
theorem exec_rint nw d a s : exec (.rint nw d a) s = execRint nw d a s := rfl
theorem exec_frac nw d a s : exec (.frac nw d a) s = execFrac nw d a s := rfl
theorem exec_class nw d a s : exec (.class nw d a) s = execClass nw d a s := rfl
theorem exec_cvt nw src d a s : exec (.cvt nw src d a) s = execCvt nw src d a s := rfl
theorem exec_packXn nw k d a s : exec (.packXn nw k d a) s = execPackXn nw k d a s := rfl
theorem exec_packXb nw k d a s : exec (.packXb nw k d a) s = execPackXb nw k d a s := rfl
theorem exec_packXh nw k d a s : exec (.packXh nw k d a) s = execPackXh nw k d a s := rfl
theorem exec_packIn nw k d a s : exec (.packIn nw k d a) s = execPackIn nw k d a s := rfl
theorem exec_packIb nw k d a s : exec (.packIb nw k d a) s = execPackIb nw k d a s := rfl
theorem exec_packIh nw k d a s : exec (.packIh nw k d a) s = execPackIh nw k d a s := rfl
theorem exec_shfl nw d a b s : exec (.shfl nw d a b) s = execShfl nw d a b s := rfl
theorem exec_shflup nw d a b s : exec (.shflup nw d a b) s = execShflup nw d a b s := rfl
theorem exec_shfldn nw d a b s : exec (.shfldn nw d a b) s = execShfldn nw d a b s := rfl
theorem exec_shflx nw d a b s : exec (.shflx nw d a b) s = execShflx nw d a b s := rfl
theorem exec_ballot nw d a s : exec (.ballot nw d a) s = execBallot nw d a s := rfl
theorem exec_voteAny nw d a s : exec (.voteAny nw d a) s = execVoteAny nw d a s := rfl
theorem exec_voteAll nw d a s : exec (.voteAll nw d a) s = execVoteAll nw d a s := rfl
theorem exec_voteUni nw d a s : exec (.voteUni nw d a) s = execVoteUni nw d a s := rfl
theorem exec_match_ nw d a s : exec (.match_ nw d a) s = execMatch nw d a s := rfl
theorem exec_reduceAdd nw d a s : exec (.reduceAdd nw d a) s = execReduceAdd nw d a s := rfl
theorem exec_reduceMin nw d a s : exec (.reduceMin nw d a) s = execReduceMin nw d a s := rfl
theorem exec_reduceMax nw d a s : exec (.reduceMax nw d a) s = execReduceMax nw d a s := rfl
theorem exec_reduceAnd nw d a s : exec (.reduceAnd nw d a) s = execReduceAnd nw d a s := rfl
theorem exec_reduceOr nw d a s : exec (.reduceOr nw d a) s = execReduceOr nw d a s := rfl
theorem exec_reduceXor nw d a s : exec (.reduceXor nw d a) s = execReduceXor nw d a s := rfl
theorem exec_scanAdd nw excl d a s : exec (.scanAdd nw excl d a) s = execScanAdd nw excl d a s := rfl
theorem exec_scanMin nw excl d a s : exec (.scanMin nw excl d a) s = execScanMin nw excl d a s := rfl
theorem exec_scanMax nw excl d a s : exec (.scanMax nw excl d a) s = execScanMax nw excl d a s := rfl
theorem exec_scanAnd nw excl d a s : exec (.scanAnd nw excl d a) s = execScanAnd nw excl d a s := rfl
theorem exec_scanOr nw excl d a s : exec (.scanOr nw excl d a) s = execScanOr nw excl d a s := rfl
theorem exec_scanXor nw excl d a s : exec (.scanXor nw excl d a) s = execScanXor nw excl d a s := rfl
theorem exec_bcast nw d a b s : exec (.bcast nw d a b) s = execBcast nw d a b s := rfl
theorem exec_ld d a b s : exec (.ld d a b) s = execLd d a b s := rfl
theorem exec_st d a b s : exec (.st d a b) s = execSt d a b s := rfl
theorem exec_lds d a b s : exec (.lds d a b) s = execLds d a b s := rfl
theorem exec_sts d a b s : exec (.sts d a b) s = execSts d a b s := rfl
theorem exec_stm d a b s : exec (.stm d a b) s = execStm d a b s := rfl
theorem exec_ldacq d a b s : exec (.ldacq d a b) s = execLdacq d a b s := rfl
theorem exec_strel d a b s : exec (.strel d a b) s = execStrel d a b s := rfl
theorem exec_fence paths scope s : exec (.fence paths scope) s = execFence paths scope s := rfl
theorem exec_pref a s : exec (.pref a) s = execPref a s := rfl
theorem exec_clean a s : exec (.clean a) s = execClean a s := rfl
theorem exec_inval a s : exec (.inval a) s = execInval a s := rfl
theorem exec_monitor a s : exec (.monitor a) s = execMonitor a s := rfl
theorem exec_mwait s : exec (.mwait) s = execMwait s := rfl
theorem exec_atadd nw d a b s : exec (.atadd nw d a b) s = execAtadd nw d a b s := rfl
theorem exec_atmin nw d a b s : exec (.atmin nw d a b) s = execAtmin nw d a b s := rfl
theorem exec_atmax nw d a b s : exec (.atmax nw d a b) s = execAtmax nw d a b s := rfl
theorem exec_atand nw d a b s : exec (.atand nw d a b) s = execAtand nw d a b s := rfl
theorem exec_ator nw d a b s : exec (.ator nw d a b) s = execAtor nw d a b s := rfl
theorem exec_atxor nw d a b s : exec (.atxor nw d a b) s = execAtxor nw d a b s := rfl
theorem exec_atxchg nw d a b s : exec (.atxchg nw d a b) s = execAtxchg nw d a b s := rfl
theorem exec_atcas nw d a s : exec (.atcas nw d a) s = execAtcas nw d a s := rfl
theorem exec_comb nw d a b s : exec (.comb nw d a b) s = execComb nw d a b s := rfl
theorem exec_cmbarg d s : exec (.cmbarg d) s = execCmbarg d s := rfl
theorem exec_cmbreply a s : exec (.cmbreply a) s = execCmbreply a s := rfl
theorem exec_cmbend s : exec (.cmbend) s = execCmbend s := rfl
theorem exec_arrive nw d a b s : exec (.arrive nw d a b) s = execArrive nw d a b s := rfl
theorem exec_waitb a b s : exec (.waitb a b) s = execWaitb a b s := rfl
theorem exec_bar a b s : exec (.bar a b) s = execBar a b s := rfl
theorem exec_qpush nw d a q s : exec (.qpush nw d a q) s = execQpush nw d a q s := rfl
theorem exec_qpop d q s : exec (.qpop d q) s = execQpop d q s := rfl
theorem exec_qstat nw d q s : exec (.qstat nw d q) s = execQstat nw d q s := rfl
theorem exec_copy nw d a b s : exec (.copy nw d a b) s = execCopy nw d a b s := rfl
theorem exec_copym nw d a b s : exec (.copym nw d a b) s = execCopym nw d a b s := rfl
theorem exec_engwait a b s : exec (.engwait a b) s = execEngwait a b s := rfl
theorem exec_sleepuntil a s : exec (.sleepuntil a) s = execSleepuntil a s := rfl
theorem exec_publish a s : exec (.publish a) s = execPublish a s := rfl
theorem exec_quant2 nw d a b s : exec (.quant2 nw d a b) s = execQuant2 nw d a b s := rfl
theorem exec_mma a b s : exec (.mma a b) s = execMma a b s := rfl
theorem exec_accz a s : exec (.accz a) s = execAccz a s := rfl
theorem exec_accrd d a s : exec (.accrd d a) s = execAccrd d a s := rfl
theorem exec_accwr d a s : exec (.accwr d a) s = execAccwr d a s := rfl
theorem exec_acccvt d a s : exec (.acccvt d a) s = execAcccvt d a s := rfl
theorem exec_cbld a s : exec (.cbld a) s = execCbld a s := rfl
theorem exec_rotld a s : exec (.rotld a) s = execRotld a s := rfl
theorem exec_rot d a s : exec (.rot d a) s = execRot d a s := rfl
theorem exec_clockTick nw d s : exec (.clockTick nw d) s = execClockTick nw d s := rfl
theorem exec_clockLogical nw d s : exec (.clockLogical nw d) s = execClockLogical nw d s := rfl
theorem exec_clockPeriod nw d s : exec (.clockPeriod nw d) s = execClockPeriod nw d s := rfl
theorem exec_clockPod nw d s : exec (.clockPod nw d) s = execClockPod nw d s := rfl
theorem exec_segopen nw d a s : exec (.segopen nw d a) s = execSegopen nw d a s := rfl
theorem exec_segseal a s : exec (.segseal a) s = execSegseal a s := rfl
theorem exec_segref nw d a s : exec (.segref nw d a) s = execSegref nw d a s := rfl
theorem exec_segdrop a s : exec (.segdrop a) s = execSegdrop a s := rfl
theorem exec_link nw d a b s : exec (.link nw d a b) s = execLink nw d a b s := rfl
theorem exec_unlink nw d a b s : exec (.unlink nw d a b) s = execUnlink nw d a b s := rfl
theorem exec_ctxpin nw d a s : exec (.ctxpin nw d a) s = execCtxpin nw d a s := rfl
theorem exec_ctxunpin s : exec (.ctxunpin) s = execCtxunpin s := rfl
theorem exec_tkpost nw d a s : exec (.tkpost nw d a) s = execTkpost nw d a s := rfl
theorem exec_tkdone s : exec (.tkdone) s = execTkdone s := rfl
theorem exec_tkpull d a s : exec (.tkpull d a) s = execTkpull d a s := rfl
theorem exec_tkcancel nw d a s : exec (.tkcancel nw d a) s = execTkcancel nw d a s := rfl
theorem exec_tkpark nw d a s : exec (.tkpark nw d a) s = execTkpark nw d a s := rfl
theorem exec_tkresume nw d a s : exec (.tkresume nw d a) s = execTkresume nw d a s := rfl
theorem exec_nput d a s : exec (.nput d a) s = execNput d a s := rfl
theorem exec_nputOrd d a s : exec (.nputOrd d a) s = execNputOrd d a s := rfl
theorem exec_nget d a s : exec (.nget d a) s = execNget d a s := rfl
theorem exec_nsend d a s : exec (.nsend d a) s = execNsend d a s := rfl
theorem exec_nsendOrd d a s : exec (.nsendOrd d a) s = execNsendOrd d a s := rfl
theorem exec_nrecv d a s : exec (.nrecv d a) s = execNrecv d a s := rfl
theorem exec_nfence s : exec (.nfence) s = execNfence s := rfl
theorem exec_launch nw d a b s : exec (.launch nw d a b) s = execLaunch nw d a b s := rfl
theorem exec_csrr nw d csr s : exec (.csrr nw d csr) s = execCsrr nw d csr s := rfl
theorem exec_csrw d csr s : exec (.csrw d csr) s = execCsrw d csr s := rfl
theorem exec_trapretResume s : exec (.trapretResume) s = execTrapretResume s := rfl
theorem exec_trapretSkip s : exec (.trapretSkip) s = execTrapretSkip s := rfl
theorem exec_trapretExit s : exec (.trapretExit) s = execTrapretExit s := rfl
theorem exec_cdmLaunch rs2 rs1 rd s : exec (.cdmLaunch rs2 rs1 rd) s = execCdmLaunch rs2 rs1 rd s := rfl
theorem exec_cdmLstat rs2 rs1 rd s : exec (.cdmLstat rs2 rs1 rd) s = execCdmLstat rs2 rs1 rd s := rfl
theorem exec_waveWake w tag s : exec (.waveWake w tag) s = execWaveWake w tag s := rfl
theorem exec_waveEnd w s : exec (.waveEnd w) s = execWaveEnd w s := rfl
theorem exec_loadReply w d s : exec (.loadReply w d) s = execLoadReply w d s := rfl
theorem exec_atomicRequest m s : exec (.atomicRequest m) s = execAtomicRequest m s := rfl
theorem exec_atomicReply w d s : exec (.atomicReply w d) s = execAtomicReply w d s := rfl
theorem exec_homeRead m s : exec (.homeRead m) s = execHomeRead m s := rfl
theorem exec_homeWrite m s : exec (.homeWrite m) s = execHomeWrite m s := rfl
theorem exec_sectorWriteback m s : exec (.sectorWriteback m) s = execSectorWriteback m s := rfl
theorem exec_l2Fill line asid s : exec (.l2Fill line asid) s = execL2Fill line asid s := rfl
theorem exec_expandedRead line asid s : exec (.expandedRead line asid) s = execExpandedRead line asid s := rfl
theorem exec_combRequest m s : exec (.combRequest m) s = execCombRequest m s := rfl
theorem exec_combinerBatch h s : exec (.combinerBatch h) s = execCombinerBatch h s := rfl
theorem exec_methodInstructionLimit h s : exec (.methodInstructionLimit h) s = execMethodInstructionLimit h s := rfl
theorem exec_combReply w d s : exec (.combReply w d) s = execCombReply w d s := rfl
theorem exec_linkMethod k s : exec (.linkMethod k) s = execLinkMethod k s := rfl
theorem exec_editionCommit k s : exec (.editionCommit k) s = execEditionCommit k s := rfl
theorem exec_releaseRecordAppend p s : exec (.releaseRecordAppend p) s = execReleaseRecordAppend p s := rfl
theorem exec_releaseComplete r s : exec (.releaseComplete r) s = execReleaseComplete r s := rfl
theorem exec_barrierArrival k s : exec (.barrierArrival k) s = execBarrierArrival k s := rfl
theorem exec_pageWalk core asid va s : exec (.pageWalk core asid va) s = execPageWalk core asid va s := rfl
theorem exec_tlbinvAll s : exec (.tlbinvAll) s = execTlbinvAll s := rfl
theorem exec_tlbinvAsid asid s : exec (.tlbinvAsid asid) s = execTlbinvAsid asid s := rfl
theorem exec_tlbinvPage asid page s : exec (.tlbinvPage asid page) s = execTlbinvPage asid page s := rfl
theorem exec_tlbinvComplete s : exec (.tlbinvComplete) s = execTlbinvComplete s := rfl
theorem exec_writeback line candidate chunk shared s : exec (.writeback line candidate chunk shared) s = execWriteback line candidate chunk shared s := rfl
theorem exec_overflowRetry mc candidate chunk shared s : exec (.overflowRetry mc candidate chunk shared) s = execOverflowRetry mc candidate chunk shared s := rfl
theorem exec_lineRead line error s : exec (.lineRead line error) s = execLineRead line error s := rfl
theorem exec_mcpgcmdPacked mc page part s : exec (.mcpgcmdPacked mc page part) s = execMcpgcmdPacked mc page part s := rfl
theorem exec_mcpgcmdFixed mc page part chunks s : exec (.mcpgcmdFixed mc page part chunks) s = execMcpgcmdFixed mc page part chunks s := rfl
theorem exec_mcpgcmdUnbacked mc page part s : exec (.mcpgcmdUnbacked mc page part) s = execMcpgcmdUnbacked mc page part s := rfl
theorem exec_mcpgcmdReserved mc page part s : exec (.mcpgcmdReserved mc page part) s = execMcpgcmdReserved mc page part s := rfl
theorem exec_mccrd mc index s : exec (.mccrd mc index) s = execMccrd mc index s := rfl
theorem exec_mcerrlogPop mc s : exec (.mcerrlogPop mc) s = execMcerrlogPop mc s := rfl
theorem exec_mcresvWrite mc p value s : exec (.mcresvWrite mc p value) s = execMcresvWrite mc p value s := rfl
theorem exec_fwRegisterWrite window reg value s : exec (.fwRegisterWrite window reg value) s = execFwRegisterWrite window reg value s := rfl
theorem exec_nvmeCompletion core cmd status data s : exec (.nvmeCompletion core cmd status data) s = execNvmeCompletion core cmd status data s := rfl
theorem exec_commandAccept core cmd s : exec (.commandAccept core cmd) s = execCommandAccept core cmd s := rfl
theorem exec_commandLanded core what s : exec (.commandLanded core what) s = execCommandLanded core what s := rfl
theorem exec_commandFailed core cmd cause status s : exec (.commandFailed core cmd cause status) s = execCommandFailed core cmd cause status s := rfl
theorem exec_publishInstant k s : exec (.publishInstant k) s = execPublishInstant k s := rfl
theorem exec_mmaStep core mismatch s : exec (.mmaStep core mismatch) s = execMmaStep core mismatch s := rfl
theorem exec_arrayEntryExecute core s : exec (.arrayEntryExecute core) s = execArrayEntryExecute core s := rfl
theorem exec_accownWrite core g value s : exec (.accownWrite core g value) s = execAccownWrite core g value s := rfl
theorem exec_mgstrWrite core value s : exec (.mgstrWrite core value) s = execMgstrWrite core value s := rfl
theorem exec_psctlRun core s : exec (.psctlRun core) s = execPsctlRun core s := rfl
theorem exec_psctlStop core s : exec (.psctlStop core) s = execPsctlStop core s := rfl
theorem exec_producerLoadWrite core offset value s : exec (.producerLoadWrite core offset value) s = execProducerLoadWrite core offset value s := rfl
theorem exec_cmbctlStop s : exec (.cmbctlStop) s = execCmbctlStop s := rfl
theorem exec_cmbctlResume s : exec (.cmbctlResume) s = execCmbctlResume s := rfl
theorem exec_cmbMethodWrite offset value s : exec (.cmbMethodWrite offset value) s = execCmbMethodWrite offset value s := rfl
theorem exec_dlConfigWrite size asid value s : exec (.dlConfigWrite size asid value) s = execDlConfigWrite size asid value s := rfl
theorem exec_dldropRead asid s : exec (.dldropRead asid) s = execDldropRead asid s := rfl
theorem exec_launchReady slot s : exec (.launchReady slot) s = execLaunchReady slot s := rfl
theorem exec_starvationBound part s : exec (.starvationBound part) s = execStarvationBound part s := rfl
theorem exec_schctxRun asid s : exec (.schctxRun asid) s = execSchctxRun asid s := rfl
theorem exec_schctxStop asid s : exec (.schctxStop asid) s = execSchctxStop asid s := rfl
theorem exec_schboundWrite value s : exec (.schboundWrite value) s = execSchboundWrite value s := rfl
theorem exec_gangSave g s : exec (.gangSave g) s = execGangSave g s := rfl
theorem exec_gangResume g s : exec (.gangResume g) s = execGangResume g s := rfl
theorem exec_quantumEnd w s : exec (.quantumEnd w) s = execQuantumEnd w s := rfl
theorem exec_periodEnd slot s : exec (.periodEnd slot) s = execPeriodEnd slot s := rfl
theorem exec_periodAdvance slot s : exec (.periodAdvance slot) s = execPeriodAdvance slot s := rfl
theorem exec_syscPost w d s : exec (.syscPost w d) s = execSyscPost w d s := rfl
theorem exec_syscReply w d status replies s : exec (.syscReply w d status replies) s = execSyscReply w d status replies s := rfl
theorem exec_freezeRecordAppend s : exec (.freezeRecordAppend) s = execFreezeRecordAppend s := rfl
theorem exec_frzcmdThaw master s : exec (.frzcmdThaw master) s = execFrzcmdThaw master s := rfl
theorem exec_frzcmdKill master s : exec (.frzcmdKill master) s = execFrzcmdKill master s := rfl
theorem exec_frzcmdHalt master s : exec (.frzcmdHalt master) s = execFrzcmdHalt master s := rfl
theorem exec_taskHandout w s : exec (.taskHandout w) s = execTaskHandout w s := rfl
theorem exec_taskIrrevocable w s : exec (.taskIrrevocable w) s = execTaskIrrevocable w s := rfl
theorem exec_resumeRecordAppend p s : exec (.resumeRecordAppend p) s = execResumeRecordAppend p s := rfl
theorem exec_catctlStop s : exec (.catctlStop) s = execCatctlStop s := rfl
theorem exec_catctlResume s : exec (.catctlResume) s = execCatctlResume s := rfl
theorem exec_packetArrival port pkt crcOk s : exec (.packetArrival port pkt crcOk) s = execPacketArrival port pkt crcOk s := rfl
theorem exec_packetForward output s : exec (.packetForward output) s = execPacketForward output s := rfl
theorem exec_orderedDelivery s : exec (.orderedDelivery) s = execOrderedDelivery s := rfl
theorem exec_remoteAccess k s : exec (.remoteAccess k) s = execRemoteAccess k s := rfl
theorem exec_netReply op s : exec (.netReply op) s = execNetReply op s := rfl
theorem exec_heldPush k s : exec (.heldPush k) s = execHeldPush k s := rfl
theorem exec_beacon port s : exec (.beacon port) s = execBeacon port s := rfl
theorem exec_watermarkStall input s : exec (.watermarkStall input) s = execWatermarkStall input s := rfl
theorem exec_klresume cut s : exec (.klresume cut) s = execKlresume cut s := rfl
theorem exec_klportEnable n value s : exec (.klportEnable n value) s = execKlportEnable n value s := rfl
theorem exec_podset value s : exec (.podset value) s = execPodset value s := rfl
theorem exec_ptpEventMessage port correction s : exec (.ptpEventMessage port correction) s = execPtpEventMessage port correction s := rfl
theorem exec_ethernetFrame port way bytes s : exec (.ethernetFrame port way bytes) s = execEthernetFrame port way bytes s := rfl
theorem exec_powerOnReset derived readable trained s : exec (.powerOnReset derived readable trained) s = execPowerOnReset derived readable trained s := rfl
theorem exec_bootWatchdog s : exec (.bootWatchdog) s = execBootWatchdog s := rfl
theorem exec_bootstatWrite value s : exec (.bootstatWrite value) s = execBootstatWrite value s := rfl
theorem exec_partclWrite p value s : exec (.partclWrite p value) s = execPartclWrite p value s := rfl
theorem exec_pwrlimWrite value s : exec (.pwrlimWrite value) s = execPwrlimWrite value s := rfl
theorem exec_thermalTrip reading s : exec (.thermalTrip reading) s = execThermalTrip reading s := rfl
theorem exec_marginReplan drift s : exec (.marginReplan drift) s = execMarginReplan drift s := rfl
theorem exec_vddarrWrite die value s : exec (.vddarrWrite die value) s = execVddarrWrite die value s := rfl
theorem exec_counterSelectWrite unit k value s : exec (.counterSelectWrite unit k value) s = execCounterSelectWrite unit k value s := rfl
theorem exec_registerWrite place value s : exec (.registerWrite place value) s = execRegisterWrite place value s := rfl
theorem exec_hostBarAccess access s : exec (.hostBarAccess access) s = execHostBarAccess access s := rfl
theorem exec_powerThermalThrottle average hottest s : exec (.powerThermalThrottle average hottest) s = execPowerThermalThrottle average hottest s := rfl

end Sys2Proof.Machine
end

