-- ==== Sys2Proof/Laws/Memory.lean ====
section
/-! SUPPORT. Laws of sparse maps and of byte memory: a read after a write, and that every operation keeps the canonical
form. -/

namespace Sys2Proof.Machine

variable {α : Type} [DecidableEq α]

/-- A bound on the keys of a map. -/
def SMap.above (lo : Option Nat) (k : Nat) : Prop := ∀ l, lo = some l → l < k

theorem SMap.wfFrom_cons (d : Nat → α) (lo : Option Nat) (k : Nat) (v : α) (m : SMap α) :
    SMap.wfFrom d lo ((k, v) :: m) = true ↔ SMap.above lo k ∧ v ≠ d k ∧ SMap.wfFrom d (some k) m = true := by
  cases lo <;> simp [SMap.wfFrom, SMap.above, and_assoc]

theorem SMap.wfFrom_mono (d : Nat → α) {lo : Option Nat} {l : Nat} (h : SMap.above lo l) :
    ∀ {m : SMap α}, SMap.wfFrom d (some l) m = true → SMap.wfFrom d lo m = true
  | [], _ => rfl
  | (k, v) :: m, hm => by
    rw [SMap.wfFrom_cons] at hm ⊢
    exact ⟨fun x hx => Nat.lt_trans (h x hx) (hm.1 l rfl), hm.2⟩

theorem SMap.wfFrom_insert (d : Nat → α) (k : Nat) (x : α) (hx : x ≠ d k) :
    ∀ {m : SMap α} {lo : Option Nat}, SMap.above lo k → SMap.wfFrom d lo m = true →
      SMap.wfFrom d lo (SMap.insert m k x) = true
  | [], lo, hk, _ => by
    rw [SMap.insert, SMap.wfFrom_cons]
    exact ⟨hk, hx, rfl⟩
  | (j, v) :: m, lo, hk, h => by
    rw [SMap.wfFrom_cons] at h
    obtain ⟨hj, hv, hm⟩ := h
    rw [SMap.insert]
    split
    · next e => subst e; exact (SMap.wfFrom_cons ..).2 ⟨hj, hx, hm⟩
    · split
      · next _ e =>
        refine (SMap.wfFrom_cons ..).2 ⟨hk, hx, (SMap.wfFrom_cons ..).2 ⟨?_, hv, hm⟩⟩
        intro l hl
        cases hl
        exact e
      · next e1 e2 =>
        refine (SMap.wfFrom_cons ..).2 ⟨hj, hv, SMap.wfFrom_insert d k x hx ?_ hm⟩
        intro l hl
        cases hl
        omega

theorem SMap.wfFrom_erase (d : Nat → α) (k : Nat) :
    ∀ {m : SMap α} {lo : Option Nat}, SMap.wfFrom d lo m = true → SMap.wfFrom d lo (SMap.erase m k) = true
  | [], _, _ => rfl
  | (j, v) :: m, lo, h => by
    have h' := h
    rw [SMap.wfFrom_cons] at h
    obtain ⟨hj, hv, hm⟩ := h
    rw [SMap.erase]
    split
    · exact SMap.wfFrom_mono d hj hm
    · split
      · exact h'
      · exact (SMap.wfFrom_cons ..).2 ⟨hj, hv, SMap.wfFrom_erase d k hm⟩

/-- A write keeps the canonical form. -/
theorem SMap.wf_set (d : α) (m : SMap α) (k : Nat) (x : α) (h : SMap.wf (fun _ => d) m = true) :
    SMap.wf (fun _ => d) (SMap.set d m k x) = true := by
  unfold SMap.set
  split
  · exact SMap.wfFrom_erase _ k h
  · next e => exact SMap.wfFrom_insert _ k x e (fun _ hl => by cases hl) h

theorem SMap.at?_insert (k j : Nat) (x : α) :
    ∀ (m : SMap α), SMap.at? (SMap.insert m k x) j = if j = k then some x else SMap.at? m j
  | [] => by
    simp only [SMap.insert, SMap.at?]
    by_cases h : j = k
    · simp [h]
    · simp [h, Ne.symm h]
  | (i, v) :: m => by
    have ih := SMap.at?_insert k j x m
    rw [SMap.insert]
    split
    · next e =>
      subst e
      simp only [SMap.at?]
      by_cases h : j = i
      · simp [h]
      · simp [h, Ne.symm h]
    · split
      · next e1 e2 =>
        simp only [SMap.at?]
        by_cases h : j = k
        · simp [h]
        · have : ¬ k = j := fun e => h e.symm
          simp only [this, if_false, h]
          by_cases h2 : j < k
          · have : ¬ i = j := by omega
            have : j < i := by omega
            simp [*]
          · simp [h2]
      · next e1 e2 =>
        simp only [SMap.at?, ih]
        by_cases h : j = k
        · subst h
          have h3 : ¬ j < i := by omega
          simp [e1, h3]
        · simp [h]

theorem SMap.at?_erase (d : Nat → α) (k j : Nat) :
    ∀ {m : SMap α} {lo : Option Nat}, SMap.wfFrom d lo m = true →
      SMap.at? (SMap.erase m k) j = if j = k then none else SMap.at? m j
  | [], _, _ => by simp [SMap.erase, SMap.at?]
  | (i, v) :: m, lo, h => by
    rw [SMap.wfFrom_cons] at h
    obtain ⟨_, _, hm⟩ := h
    have low : ∀ {m : SMap α} {i n : Nat}, SMap.wfFrom d (some i) m = true → n ≤ i → SMap.at? m n = none := by
      intro m
      cases m with
      | nil => intros; rfl
      | cons e m =>
        intro i n hm hn
        rw [SMap.wfFrom_cons] at hm
        have := hm.1 i rfl
        have h1 : ¬ e.1 = n := by omega
        have h2 : n < e.1 := by omega
        simp [SMap.at?, h1, h2]
    rw [SMap.erase]
    split
    · next e =>
      subst e
      by_cases h : j = i
      · simp [h, low hm (Nat.le_refl i)]
      · simp only [h, if_false, SMap.at?, Ne.symm h]
        split
        · next e => exact low hm (Nat.le_of_lt e)
        · rfl
    · split
      · next e1 e2 =>
        by_cases h : j = k
        · subst h; simp [SMap.at?, e1, e2]
        · simp [h]
      · next e1 e2 =>
        simp only [SMap.at?, SMap.at?_erase d k j hm]
        by_cases h : j = k
        · subst h
          have h3 : ¬ j < i := by omega
          simp [e1]
        · simp [h]

/-- A read after a write gives the value written there, and what stood before elsewhere. -/
theorem SMap.get_set (d : α) (m : SMap α) (k j : Nat) (x : α) (h : SMap.wf (fun _ => d) m = true) :
    SMap.get d (SMap.set d m k x) j = if j = k then x else SMap.get d m j := by
  unfold SMap.set SMap.get
  split
  · next e =>
    rw [SMap.at?_erase (fun _ => d) k j h]
    by_cases hj : j = k
    · simp [hj, e]
    · simp [hj]
  · rw [SMap.at?_insert]
    by_cases hj : j = k
    · simp [hj]
    · simp [hj]

/-! ## Byte memory -/

theorem Memory.wf_nil : Memory.wf [] = true := rfl

theorem Memory.wf_write (m : Memory) (a : Nat) (b : Byte) (h : m.wf = true) : (m.write a b).wf = true :=
  SMap.wf_set Memory.blank m a b h

theorem Memory.wf_writeN : ∀ (bs : List Byte) (m : Memory) (a : Nat), m.wf = true → (m.writeN a bs).wf = true
  | [], _, _, h => h
  | b :: bs, m, a, h => Memory.wf_writeN bs (m.write a b) (a + 1) (Memory.wf_write m a b h)

theorem SMap.wfFrom_filter (d : Nat → α) (f : Nat × α → Bool) :
    ∀ {m : SMap α} {lo : Option Nat}, SMap.wfFrom d lo m = true → SMap.wfFrom d lo (m.filter f) = true
  | [], _, _ => rfl
  | (k, v) :: m, lo, h => by
    rw [SMap.wfFrom_cons] at h
    obtain ⟨hk, hv, hm⟩ := h
    rw [List.filter]
    split
    · exact (SMap.wfFrom_cons ..).2 ⟨hk, hv, SMap.wfFrom_filter d f hm⟩
    · exact SMap.wfFrom_mono d hk (SMap.wfFrom_filter d f hm)

theorem Memory.wf_clear (m : Memory) (a n : Nat) (h : m.wf = true) : (m.clear a n).wf = true :=
  SMap.wfFrom_filter _ _ h

/-- A byte read after a byte written. -/
theorem Memory.read_write (m : Memory) (a j : Nat) (b : Byte) (h : m.wf = true) :
    (m.write a b).read j = if j = a then b else m.read j := SMap.get_set Memory.blank m a j b h

/-- A byte read after consecutive bytes written. -/
theorem Memory.read_writeN : ∀ (bs : List Byte) (m : Memory) (a j : Nat), m.wf = true →
    (m.writeN a bs).read j = if a ≤ j ∧ j < a + bs.length then bs.getD (j - a) 0 else m.read j
  | [], m, a, j, _ => by simp [Memory.writeN] <;> omega
  | b :: bs, m, a, j, h => by
    rw [Memory.writeN, Memory.read_writeN bs (m.write a b) (a + 1) j (Memory.wf_write m a b h), Memory.read_write m a j b h]
    simp only [List.length_cons]
    by_cases h1 : j = a
    · subst h1
      simp <;> omega
    · by_cases h2 : a + 1 ≤ j ∧ j < a + 1 + bs.length
      · have : j - a = (j - (a + 1)) + 1 := by omega
        have h3 : a ≤ j ∧ j < a + (bs.length + 1) := by omega
        rw [if_pos h2, if_pos h3, this]
        simp
      · have h3 : ¬ (a ≤ j ∧ j < a + (bs.length + 1)) := by omega
        rw [if_neg h2, if_neg h3, if_neg h1]

end Sys2Proof.Machine
end

