-- ==== Sys2Proof/Laws/Result.lean ====
section
/-! SUPPORT. Looking up waves and paths after updates, and everything that an instruction with a result leaves. -/

namespace Sys2Proof.Machine

theorem find?_map {α : Type} {f : α → α} {t : α → Bool} (l : List α) (h : ∀ x, t (f x) = t x) :
    (l.map f).find? t = (l.find? t).map f := by
  induction l with
  | nil => rfl
  | cons a l ih =>
    simp only [List.map_cons, List.find?_cons, h]
    cases t a <;> simp [ih]

theorem State.wave?_id {s : State} {id : Nat} {w : Wave} (h : s.wave? id = some w) : w.id = id := by
  have := List.find?_some h
  simpa using this

theorem State.wave?_modWave {s : State} {id : Nat} {w : Wave} {f : Wave → Wave} (h : s.wave? id = some w)
    (hf : ∀ x, x.id = id → (f x).id = id) : (s.modWave id f).wave? id = some (f w) := by
  have hid := State.wave?_id h
  unfold State.wave? State.modWave at *
  simp only
  rw [find?_map _ (fun x => ?_), h]
  · simp [hid]
  · by_cases hx : x.id = id
    · simp [hx, hf x hx]
    · simp [hx]

theorem State.wave?_modWave_ne {s : State} {id k : Nat} {f : Wave → Wave} (hk : k ≠ id)
    (hf : ∀ x, x.id = id → (f x).id = id) : (s.modWave id f).wave? k = s.wave? k := by
  unfold State.wave? State.modWave
  simp only
  rw [find?_map _ (fun x => ?_)]
  · cases h : s.waves.find? fun w => w.id == k with
    | none => rfl
    | some w =>
      have : w.id = k := by simpa using List.find?_some h
      simp [this, hk]
  · by_cases hx : x.id = id
    · simp [hx, hf x hx]
    · simp [hx]

theorem Wave.path?_tag {w : Wave} {t : Tag} {p : Path} (h : w.path? t = some p) : p.tag = t := by
  have := List.find?_some h
  simpa using this

theorem Wave.path?_modPath {w : Wave} {t : Tag} {p : Path} {f : Path → Path} (h : w.path? t = some p)
    (hf : ∀ x, x.tag = t → (f x).tag = t) : (w.modPath t f).path? t = some (f p) := by
  have hid := Wave.path?_tag h
  unfold Wave.path? Wave.modPath at *
  simp only
  rw [find?_map _ (fun x => ?_), h]
  · simp [hid]
  · by_cases hx : x.tag = t
    · simp [hx, hf x hx]
    · simp [hx]

theorem Wave.path?_modPath_ne {w : Wave} {t u : Tag} {f : Path → Path} (hk : u ≠ t)
    (hf : ∀ x, x.tag = t → (f x).tag = t) : (w.modPath t f).path? u = w.path? u := by
  unfold Wave.path? Wave.modPath
  simp only
  rw [find?_map _ (fun x => ?_)]
  · cases h : w.paths.find? fun p => p.tag == u with
    | none => rfl
    | some p =>
      have : p.tag = u := by simpa using List.find?_some h
      simp [this, hk]
  · by_cases hx : x.tag = t
    · simp [hx, hf x hx]
    · simp [hx]

theorem State.cursor?_spec {s : State} {w : Wave} {p : Path} (h : s.cursor? = some { w := w, p := p }) :
    s.cur = some (w.id, p.tag) ∧ s.wave? w.id = some w ∧ w.path? p.tag = some p := by
  unfold State.cursor? at h
  cases hc : s.cur with
  | none => simp [hc] at h
  | some c =>
    obtain ⟨id, t⟩ := c
    simp only [hc, Option.bind_eq_bind, Option.bind_some] at h
    cases hw : s.wave? id with
    | none => simp [hw] at h
    | some x =>
      simp only [hw, Option.bind_some] at h
      cases hp : x.path? t with
      | none => simp [hp] at h
      | some q =>
        simp only [hp, Option.bind_some, Option.pure_def, Option.some.injEq, Cursor.mk.injEq] at h
        obtain ⟨rfl, rfl⟩ := h
        have h1 := State.wave?_id hw
        have h2 := Wave.path?_tag hp
        subst h1 h2
        exact ⟨rfl, hw, hp⟩

/-! ## Writing registers -/

@[simp] theorem lanesOf_get (f : Fin 32 → Word) (i : Fin 32) : (lanesOf f)[i] = f i := by
  simp [lanesOf]

theorem Wave.setV_other (w : Wave) (k : Nat) (exec : Mask) (x : Lanes) :
    { w.setV k exec x with v := w.v } = w := rfl

theorem Wave.setV_get (w : Wave) (k : Nat) (exec : Mask) (x : Lanes) (r : Fin 128) (i : Fin 32) :
    (w.setV k exec x).v[r][i] = if k = r.val then (if inMask exec i then x[i] else w.v[r][i]) else w.v[r][i] := by
  simp only [Wave.setV]
  by_cases h : k = r.val
  · subst h
    simp only [mergeLanes, Wave.vreg, Fin.getElem_fin, Vector.getElem_setIfInBounds_self, Fin.is_lt,
      Vector.getElem?_eq_getElem, Option.getD_some, if_true]
    exact lanesOf_get _ i
  · simp [h]

theorem Wave.setS_get (w : Wave) (k : Nat) (x : Word) (r : Fin 64) :
    (w.setS k x).s[r] = if k = r.val then x else w.s[r] := by
  simp only [Wave.setS]
  by_cases h : k = r.val
  · subst h; simp
  · simp [h]

/-- Results written from register k on. -/
theorem Wave.writeV_get (rs : List Lanes) (w : Wave) (k : Nat) (exec : Mask) (r : Fin 128) (i : Fin 32) :
    ((rs.zipIdx k).foldl (fun w (x, k) => w.setV k exec x) w).v[r][i] =
      match (if k ≤ r.val then rs[r.val - k]? else none) with
      | some x => if inMask exec i then x[i] else w.v[r][i]
      | none => w.v[r][i] := by
  induction rs generalizing w k with
  | nil => simp
  | cons x rs ih =>
    simp only [List.zipIdx_cons, List.foldl_cons]
    rw [ih, Wave.setV_get]
    by_cases h : k = r.val
    · subst h
      have : ¬ r.val + 1 ≤ r.val := by omega
      simp [this]
    · by_cases h' : k ≤ r.val
      · have h1 : k + 1 ≤ r.val := by omega
        have h2 : r.val - k = (r.val - (k + 1)) + 1 := by omega
        simp [h, h', h1, h2]
      · have h1 : ¬ k + 1 ≤ r.val := by omega
        simp [h, h', h1]

theorem Wave.writeS_get (rs : List Lanes) (w : Wave) (k : Nat) (r : Fin 64) :
    ((rs.zipIdx k).foldl (fun w (x, k) => w.setS k x[0]) w).s[r] =
      match (if k ≤ r.val then rs[r.val - k]? else none) with
      | some x => x[0]
      | none => w.s[r] := by
  induction rs generalizing w k with
  | nil => simp
  | cons x rs ih =>
    simp only [List.zipIdx_cons, List.foldl_cons]
    rw [ih, Wave.setS_get]
    by_cases h : k = r.val
    · subst h
      have : ¬ r.val + 1 ≤ r.val := by omega
      simp [this]
    · by_cases h' : k ≤ r.val
      · have h1 : k + 1 ≤ r.val := by omega
        have h2 : r.val - k = (r.val - (k + 1)) + 1 := by omega
        simp [h, h', h1, h2]
      · have h1 : ¬ k + 1 ≤ r.val := by omega
        simp [h, h', h1]

theorem Wave.writeV_rest (l : List (Lanes × Nat)) (exec : Mask) (w : Wave) :
    ∃ v, l.foldl (fun w (x, k) => w.setV k exec x) w = { w with v := v } := by
  induction l generalizing w with
  | nil => exact ⟨w.v, rfl⟩
  | cons a l ih =>
    obtain ⟨v, h⟩ := ih (w.setV a.2 exec a.1)
    exact ⟨v, h⟩

theorem Wave.writeS_rest (l : List (Lanes × Nat)) (w : Wave) :
    ∃ v, l.foldl (fun w (x, k) => w.setS k x[0]) w = { w with s := v } := by
  induction l generalizing w with
  | nil => exact ⟨w.s, rfl⟩
  | cons a l ih =>
    obtain ⟨v, h⟩ := ih (w.setS a.2 a.1[0])
    exact ⟨v, h⟩

/-- The bits of a mask made of tests. -/
theorem maskOf_get (f : Fin 32 → Bool) (i : Fin 32) : (maskOf f).getLsbD i.val = f i := by
  have h : ∀ (l : List (Fin 32)) (m : Mask), l.Nodup →
      (l.foldl (fun m i => if f i then m ||| (1#32 <<< i.val) else m) m).getLsbD i.val
        = (m.getLsbD i.val || (decide (i ∈ l) && f i)) := by
    intro l
    induction l with
    | nil => intro m _; simp
    | cons a l ih =>
      intro m hn
      rw [List.nodup_cons] at hn
      simp only [List.foldl_cons]
      rw [ih _ hn.2]
      by_cases ha : a = i
      · subst ha
        cases hf : f a <;> simp [hn.1]
      · have hne : a.val ≠ i.val := fun e => ha (Fin.ext e)
        have hia : i ≠ a := fun e => ha e.symm
        have hb : (1#32 <<< a.val).getLsbD i.val = false := by
          simp only [BitVec.getLsbD_shiftLeft, BitVec.getLsbD_one]
          have := i.isLt
          simp
          omega
        cases hf : f a <;> simp only [if_true, Bool.false_eq_true, if_false, BitVec.getLsbD_or, hb, Bool.or_false,
          List.mem_cons, hia, false_or]
  have := h allLanes 0 (List.nodup_finRange 32)
  simpa [maskOf, allLanes] using this

theorem predWrite_get (old exec bits : Mask) (i : Fin 32) :
    (predWrite old exec bits).getLsbD i.val = if inMask exec i then bits.getLsbD i.val else old.getLsbD i.val := by
  have := i.isLt
  simp only [predWrite, inMask, BitVec.getLsbD_or, BitVec.getLsbD_and, BitVec.getLsbD_not]
  rcases Bool.eq_false_or_eq_true (exec.getLsbD i.val) with h | h <;>
    simp only [h, this, decide_true, Bool.not_true, Bool.not_false, Bool.and_true, Bool.and_false,
      Bool.or_false, Bool.false_or, if_true, Bool.false_eq_true, if_false]

/-- The latches entered and the instruction retired on a wave. -/
def Wave.entered (w : Wave) (p : Path) (ls : Vector Latch 4) (cost : Nat) : Wave :=
  (w.modPath p.tag fun q => { q with latches := ls }).retire p.tag (p.pc + 4) cost

theorem Wave.entered_path {w : Wave} {p : Path} (ls : Vector Latch 4) (cost : Nat) (h : w.path? p.tag = some p) :
    (w.entered p ls cost).path? p.tag = some { p.retire (p.pc + 4) with latches := ls } := by
  have h1 := Wave.path?_modPath (f := fun q => { q with latches := ls }) h (fun _ h => h)
  exact Wave.path?_modPath (f := fun q => q.retire (p.pc + 4)) h1 (fun _ h => h)

theorem Wave.entered_paths {w : Wave} {p : Path} (ls : Vector Latch 4) (cost : Nat) {t : Tag} (ht : t ≠ p.tag) :
    (w.entered p ls cost).path? t = w.path? t := by
  refine (Wave.path?_modPath_ne (w := w.modPath p.tag fun q => { q with latches := ls }) (f := fun q => q.retire (p.pc + 4)) ht
    (fun _ h => h)).trans ?_
  exact Wave.path?_modPath_ne ht (fun _ h => h)

/-- The latches after results. -/
def resultLatches (p : Path) (st : Bool) (exec : Mask) (rs : List Lanes) : Vector Latch 4 :=
  (rs.map fun r => if st then streamEntry exec r else uniformEntry r[0]).foldl pushLatch p.latches

/-- What is delivered, from what is written. -/
theorem Wave.delivered_of {w : Wave} {p : Path} {nw : Bool} {d : Operand} {st : Bool} {exec : Mask} {rs : List Lanes}
    {cost : Nat} (hp : w.path? p.tag = some p) (v : Vector Lanes 128) (s : Vector Word 64) (q : Vector Mask 8)
    (hv : ∀ (r : Fin 128) (i : Fin 32), v[r][i] =
      match (if nw then none else Operand.vecResult? d rs r) with
      | some x => if inMask exec i then x[i] else w.v[r][i]
      | none => w.v[r][i])
    (hs : ∀ r : Fin 64, s[r] =
      match (if nw then none else Operand.scaResult? d rs r) with
      | some x => x[0]
      | none => w.s[r])
    (hq : ∀ (k : Fin 8) (i : Fin 32), (q[k]).getLsbD i.val =
      match (if nw then none else Operand.predResult? d rs k) with
      | some x => if inMask exec i then (x[i]).getLsbD i.val else (w.p[k]).getLsbD i.val
      | none => (w.p[k]).getLsbD i.val) :
    w.Delivered (Wave.entered { w with v := v, s := s, p := q } p (resultLatches p st exec rs) cost) p nw d st exec rs where
  vec := hv
  sca := hs
  pred := hq
  path := Wave.entered_path (w := { w with v := v, s := s, p := q }) _ _ hp
  paths := fun _ ht => Wave.entered_paths (w := { w with v := v, s := s, p := q }) _ _ ht
  clock := rfl
  rest := rfl

/-- What is delivered where nothing is written. -/
theorem Wave.delivered_none {w : Wave} {p : Path} {nw : Bool} {d : Operand} {st : Bool} {exec : Mask} {rs : List Lanes}
    {cost : Nat} (hp : w.path? p.tag = some p) (hv : ∀ r, (if nw then none else Operand.vecResult? d rs r) = none)
    (hs : ∀ r, (if nw then none else Operand.scaResult? d rs r) = none)
    (hq : ∀ k, (if nw then none else Operand.predResult? d rs k) = none) :
    w.Delivered (Wave.entered w p (resultLatches p st exec rs) cost) p nw d st exec rs :=
  Wave.delivered_of hp w.v w.s w.p (fun r i => by rw [hv]) (fun r => by rw [hs]) (fun k i => by rw [hq])

theorem Wave.setP_get (w : Wave) (k j : Fin 8) (exec : Mask) (x : Lanes) (i : Fin 32) :
    ((w.setP k exec (diagonal x)).p[j]).getLsbD i.val =
      if k = j then (if inMask exec i then (x[i]).getLsbD i.val else (w.p[j]).getLsbD i.val)
      else (w.p[j]).getLsbD i.val := by
  by_cases h : k = j
  · subst h
    have hd : (diagonal x).getLsbD i.val = (x[i]).getLsbD i.val := maskOf_get (fun i => x[i].getLsbD i.val) i
    have : (w.setP k exec (diagonal x)).p[k] = predWrite w.p[k] exec (diagonal x) := by simp [Wave.setP]
    rw [this, predWrite_get, hd, if_pos rfl]
  · have : (w.setP k exec (diagonal x)).p[j] = w.p[j] := by
      have hkj : k.val ≠ j.val := fun e => h (Fin.ext e)
      simp [Wave.setP, hkj]
    rw [this, if_neg h]

/-- Everything that a result leaves (R45, R47, R51, R231). -/
theorem Wave.delivered (w : Wave) {p : Path} (nw : Bool) (d : Operand) (st : Bool) (exec : Mask) (rs : List Lanes)
    (cost : Nat) (hp : w.path? p.tag = some p) :
    w.Delivered ((w.deliver p nw d st exec rs).retire p.tag (p.pc + 4) cost) p nw d st exec rs := by
  have he : (w.deliver p nw d st exec rs).retire p.tag (p.pc + 4) cost
      = Wave.entered (if nw then w else w.writeDst d exec rs) p (resultLatches p st exec rs) cost := rfl
  rw [he]
  cases nw with
  | true => exact Wave.delivered_none hp (fun _ => rfl) (fun _ => rfl) (fun _ => rfl)
  | false =>
    rw [if_neg (by decide)]
    unfold Wave.writeDst
    cases d with
    | v k =>
      obtain ⟨v, hr⟩ := Wave.writeV_rest (rs.zipIdx k.val) exec w
      have hv := fun r i => Wave.writeV_get rs w k.val exec r i
      simp only at hr hv ⊢
      rw [hr]
      rw [hr] at hv
      exact Wave.delivered_of hp v w.s w.p hv (fun _ => rfl) (fun _ _ => rfl)
    | s k =>
      obtain ⟨v, hr⟩ := Wave.writeS_rest (rs.zipIdx k.val) w
      have hs := fun r => Wave.writeS_get rs w k.val r
      simp only at hr hs ⊢
      rw [hr]
      rw [hr] at hs
      exact Wave.delivered_of hp w.v v w.p (fun _ _ => rfl) hs (fun _ _ => rfl)
    | p k =>
      cases rs with
      | nil => exact Wave.delivered_none hp (fun _ => rfl) (fun _ => rfl) (fun j => by simp [Operand.predResult?])
      | cons x rs =>
        refine Wave.delivered_of hp w.v w.s (w.setP k exec (diagonal x)).p (fun _ _ => rfl) (fun _ => rfl) (fun j i => ?_)
        rw [Wave.setP_get]
        simp only [Operand.predResult?, Bool.false_eq_true, if_false, List.head?_cons]
        by_cases h : k = j <;> simp only [h, if_true, if_false]
    | _ => exact Wave.delivered_none hp (fun _ => rfl) (fun _ => rfl) (fun _ => rfl)

theorem State.OnlyWave.of_modWave {s : State} {id : Nat} {w : Wave} {f : Wave → Wave} (h : s.wave? id = some w)
    (hf : ∀ x, x.id = id → (f x).id = id) : s.OnlyWave (s.modWave id f) id (f w) :=
  ⟨State.wave?_modWave h hf, fun _ hk => State.wave?_modWave_ne hk hf, rfl⟩

/-- Everything that an instruction with a result leaves. -/
theorem State.result_delivered {s : State} {w : Wave} {p : Path} (h : s.cursor? = some { w := w, p := p }) (nw : Bool)
    (d : Operand) (st : Bool) (rs : List Lanes) :
    ∃ w', s.OnlyWave (s.result w p nw d st rs) w.id w' ∧ w.Delivered w' p nw d st (execMask w p) rs := by
  obtain ⟨-, hw, hp⟩ := State.cursor?_spec h
  refine ⟨_, State.OnlyWave.of_modWave hw (fun x hx => ?_), Wave.delivered w nw d st (execMask w p) rs _ hp⟩
  have hr : ∀ y : Wave, (y.retire p.tag (p.pc + 4) (if st then streamCost (execMask w p) else 1)).id = y.id := fun _ => rfl
  rw [hr]
  unfold Wave.deliver
  simp only [Wave.modPath]
  split
  · exact hx
  · unfold Wave.writeDst
    cases d with
    | v k =>
      obtain ⟨v, h⟩ := Wave.writeV_rest (rs.zipIdx k.val) (execMask w p) x
      exact (congrArg Wave.id h).trans hx
    | s k =>
      obtain ⟨v, h⟩ := Wave.writeS_rest (rs.zipIdx k.val) x
      exact (congrArg Wave.id h).trans hx
    | p k => cases rs <;> exact hx
    | _ => exact hx

end Sys2Proof.Machine
end

