-- ==== Sys2Proof/Laws/State.lean ====
section
/-! SUPPORT. Every field of the state after every plain update of it. -/

namespace Sys2Proof.Machine
namespace State

set_option Elab.async false

section
variable (s : State) (c : Fin 256) (x : Core)

@[simp] theorem setCore_turns : (s.setCore c x).turns = s.turns := rfl
@[simp] theorem setCore_focus : (s.setCore c x).focus = s.focus := rfl
@[simp] theorem setCore_cur : (s.setCore c x).cur = s.cur := rfl
@[simp] theorem setCore_freeCtr : (s.setCore c x).freeCtr = s.freeCtr := rfl
@[simp] theorem setCore_nextId : (s.setCore c x).nextId = s.nextId := rfl
@[simp] theorem setCore_tick : (s.setCore c x).tick = s.tick := rfl
@[simp] theorem setCore_waves : (s.setCore c x).waves = s.waves := rfl
@[simp] theorem setCore_gangs : (s.setCore c x).gangs = s.gangs := rfl
@[simp] theorem setCore_launches : (s.setCore c x).launches = s.launches := rfl
@[simp] theorem setCore_seq : (s.setCore c x).seq = s.seq := rfl
@[simp] theorem setCore_deficits : (s.setCore c x).deficits = s.deficits := rfl
@[simp] theorem setCore_lastServed : (s.setCore c x).lastServed = s.lastServed := rfl
@[simp] theorem setCore_reservations : (s.setCore c x).reservations = s.reservations := rfl
@[simp] theorem setCore_holders : (s.setCore c x).holders = s.holders := rfl
@[simp] theorem setCore_systemAsids : (s.setCore c x).systemAsids = s.systemAsids := rfl
@[simp] theorem setCore_cores : (s.setCore c x).cores = s.cores.set c x := rfl
@[simp] theorem setCore_struck : (s.setCore c x).struck = s.struck := rfl
@[simp] theorem setCore_clusterTlbs : (s.setCore c x).clusterTlbs = s.clusterTlbs := rfl
@[simp] theorem setCore_homes : (s.setCore c x).homes = s.homes := rfl
@[simp] theorem setCore_messages : (s.setCore c x).messages = s.messages := rfl
@[simp] theorem setCore_releases : (s.setCore c x).releases = s.releases := rfl
@[simp] theorem setCore_lineWrites : (s.setCore c x).lineWrites = s.lineWrites := rfl
@[simp] theorem setCore_controllers : (s.setCore c x).controllers = s.controllers := rfl
@[simp] theorem setCore_mem : (s.setCore c x).mem = s.mem := rfl
@[simp] theorem setCore_regs : (s.setCore c x).regs = s.regs := rfl
@[simp] theorem setCore_tlbInvs : (s.setCore c x).tlbInvs = s.tlbInvs := rfl
@[simp] theorem setCore_reloads : (s.setCore c x).reloads = s.reloads := rfl
@[simp] theorem setCore_publishes : (s.setCore c x).publishes = s.publishes := rfl
@[simp] theorem setCore_hiddenFailed : (s.setCore c x).hiddenFailed = s.hiddenFailed := rfl
@[simp] theorem setCore_tasks : (s.setCore c x).tasks = s.tasks := rfl
@[simp] theorem setCore_readyOrder : (s.setCore c x).readyOrder = s.readyOrder := rfl
@[simp] theorem setCore_versions : (s.setCore c x).versions = s.versions := rfl
@[simp] theorem setCore_linkOps : (s.setCore c x).linkOps = s.linkOps := rfl
@[simp] theorem setCore_releaseRecords : (s.setCore c x).releaseRecords = s.releaseRecords := rfl
@[simp] theorem setCore_catDrops : (s.setCore c x).catDrops = s.catDrops := rfl
@[simp] theorem setCore_heldParks : (s.setCore c x).heldParks = s.heldParks := rfl
@[simp] theorem setCore_syscalls : (s.setCore c x).syscalls = s.syscalls := rfl
@[simp] theorem setCore_freezeRecords : (s.setCore c x).freezeRecords = s.freezeRecords := rfl
@[simp] theorem setCore_frozenMasters : (s.setCore c x).frozenMasters = s.frozenMasters := rfl
@[simp] theorem setCore_interrupts : (s.setCore c x).interrupts = s.interrupts := rfl
@[simp] theorem setCore_fabric : (s.setCore c x).fabric = s.fabric := rfl
@[simp] theorem setCore_device : (s.setCore c x).device = s.device := rfl
@[simp] theorem setCore_control : (s.setCore c x).control = s.control := rfl

end

section
variable (s : State) (c : Fin 256) (f : Core → Core)

@[simp] theorem modCore_turns : (s.modCore c f).turns = s.turns := rfl
@[simp] theorem modCore_focus : (s.modCore c f).focus = s.focus := rfl
@[simp] theorem modCore_cur : (s.modCore c f).cur = s.cur := rfl
@[simp] theorem modCore_freeCtr : (s.modCore c f).freeCtr = s.freeCtr := rfl
@[simp] theorem modCore_nextId : (s.modCore c f).nextId = s.nextId := rfl
@[simp] theorem modCore_tick : (s.modCore c f).tick = s.tick := rfl
@[simp] theorem modCore_waves : (s.modCore c f).waves = s.waves := rfl
@[simp] theorem modCore_gangs : (s.modCore c f).gangs = s.gangs := rfl
@[simp] theorem modCore_launches : (s.modCore c f).launches = s.launches := rfl
@[simp] theorem modCore_seq : (s.modCore c f).seq = s.seq := rfl
@[simp] theorem modCore_deficits : (s.modCore c f).deficits = s.deficits := rfl
@[simp] theorem modCore_lastServed : (s.modCore c f).lastServed = s.lastServed := rfl
@[simp] theorem modCore_reservations : (s.modCore c f).reservations = s.reservations := rfl
@[simp] theorem modCore_holders : (s.modCore c f).holders = s.holders := rfl
@[simp] theorem modCore_systemAsids : (s.modCore c f).systemAsids = s.systemAsids := rfl
@[simp] theorem modCore_cores : (s.modCore c f).cores = s.cores.set c (f (s.core c)) := rfl
@[simp] theorem modCore_struck : (s.modCore c f).struck = s.struck := rfl
@[simp] theorem modCore_clusterTlbs : (s.modCore c f).clusterTlbs = s.clusterTlbs := rfl
@[simp] theorem modCore_homes : (s.modCore c f).homes = s.homes := rfl
@[simp] theorem modCore_messages : (s.modCore c f).messages = s.messages := rfl
@[simp] theorem modCore_releases : (s.modCore c f).releases = s.releases := rfl
@[simp] theorem modCore_lineWrites : (s.modCore c f).lineWrites = s.lineWrites := rfl
@[simp] theorem modCore_controllers : (s.modCore c f).controllers = s.controllers := rfl
@[simp] theorem modCore_mem : (s.modCore c f).mem = s.mem := rfl
@[simp] theorem modCore_regs : (s.modCore c f).regs = s.regs := rfl
@[simp] theorem modCore_tlbInvs : (s.modCore c f).tlbInvs = s.tlbInvs := rfl
@[simp] theorem modCore_reloads : (s.modCore c f).reloads = s.reloads := rfl
@[simp] theorem modCore_publishes : (s.modCore c f).publishes = s.publishes := rfl
@[simp] theorem modCore_hiddenFailed : (s.modCore c f).hiddenFailed = s.hiddenFailed := rfl
@[simp] theorem modCore_tasks : (s.modCore c f).tasks = s.tasks := rfl
@[simp] theorem modCore_readyOrder : (s.modCore c f).readyOrder = s.readyOrder := rfl
@[simp] theorem modCore_versions : (s.modCore c f).versions = s.versions := rfl
@[simp] theorem modCore_linkOps : (s.modCore c f).linkOps = s.linkOps := rfl
@[simp] theorem modCore_releaseRecords : (s.modCore c f).releaseRecords = s.releaseRecords := rfl
@[simp] theorem modCore_catDrops : (s.modCore c f).catDrops = s.catDrops := rfl
@[simp] theorem modCore_heldParks : (s.modCore c f).heldParks = s.heldParks := rfl
@[simp] theorem modCore_syscalls : (s.modCore c f).syscalls = s.syscalls := rfl
@[simp] theorem modCore_freezeRecords : (s.modCore c f).freezeRecords = s.freezeRecords := rfl
@[simp] theorem modCore_frozenMasters : (s.modCore c f).frozenMasters = s.frozenMasters := rfl
@[simp] theorem modCore_interrupts : (s.modCore c f).interrupts = s.interrupts := rfl
@[simp] theorem modCore_fabric : (s.modCore c f).fabric = s.fabric := rfl
@[simp] theorem modCore_device : (s.modCore c f).device = s.device := rfl
@[simp] theorem modCore_control : (s.modCore c f).control = s.control := rfl

end

section
variable (s : State) (h : Fin 128) (x : Home)

@[simp] theorem setHome_turns : (s.setHome h x).turns = s.turns := rfl
@[simp] theorem setHome_focus : (s.setHome h x).focus = s.focus := rfl
@[simp] theorem setHome_cur : (s.setHome h x).cur = s.cur := rfl
@[simp] theorem setHome_freeCtr : (s.setHome h x).freeCtr = s.freeCtr := rfl
@[simp] theorem setHome_nextId : (s.setHome h x).nextId = s.nextId := rfl
@[simp] theorem setHome_tick : (s.setHome h x).tick = s.tick := rfl
@[simp] theorem setHome_waves : (s.setHome h x).waves = s.waves := rfl
@[simp] theorem setHome_gangs : (s.setHome h x).gangs = s.gangs := rfl
@[simp] theorem setHome_launches : (s.setHome h x).launches = s.launches := rfl
@[simp] theorem setHome_seq : (s.setHome h x).seq = s.seq := rfl
@[simp] theorem setHome_deficits : (s.setHome h x).deficits = s.deficits := rfl
@[simp] theorem setHome_lastServed : (s.setHome h x).lastServed = s.lastServed := rfl
@[simp] theorem setHome_reservations : (s.setHome h x).reservations = s.reservations := rfl
@[simp] theorem setHome_holders : (s.setHome h x).holders = s.holders := rfl
@[simp] theorem setHome_systemAsids : (s.setHome h x).systemAsids = s.systemAsids := rfl
@[simp] theorem setHome_cores : (s.setHome h x).cores = s.cores := rfl
@[simp] theorem setHome_struck : (s.setHome h x).struck = s.struck := rfl
@[simp] theorem setHome_clusterTlbs : (s.setHome h x).clusterTlbs = s.clusterTlbs := rfl
@[simp] theorem setHome_homes : (s.setHome h x).homes = s.homes.set h x := rfl
@[simp] theorem setHome_messages : (s.setHome h x).messages = s.messages := rfl
@[simp] theorem setHome_releases : (s.setHome h x).releases = s.releases := rfl
@[simp] theorem setHome_lineWrites : (s.setHome h x).lineWrites = s.lineWrites := rfl
@[simp] theorem setHome_controllers : (s.setHome h x).controllers = s.controllers := rfl
@[simp] theorem setHome_mem : (s.setHome h x).mem = s.mem := rfl
@[simp] theorem setHome_regs : (s.setHome h x).regs = s.regs := rfl
@[simp] theorem setHome_tlbInvs : (s.setHome h x).tlbInvs = s.tlbInvs := rfl
@[simp] theorem setHome_reloads : (s.setHome h x).reloads = s.reloads := rfl
@[simp] theorem setHome_publishes : (s.setHome h x).publishes = s.publishes := rfl
@[simp] theorem setHome_hiddenFailed : (s.setHome h x).hiddenFailed = s.hiddenFailed := rfl
@[simp] theorem setHome_tasks : (s.setHome h x).tasks = s.tasks := rfl
@[simp] theorem setHome_readyOrder : (s.setHome h x).readyOrder = s.readyOrder := rfl
@[simp] theorem setHome_versions : (s.setHome h x).versions = s.versions := rfl
@[simp] theorem setHome_linkOps : (s.setHome h x).linkOps = s.linkOps := rfl
@[simp] theorem setHome_releaseRecords : (s.setHome h x).releaseRecords = s.releaseRecords := rfl
@[simp] theorem setHome_catDrops : (s.setHome h x).catDrops = s.catDrops := rfl
@[simp] theorem setHome_heldParks : (s.setHome h x).heldParks = s.heldParks := rfl
@[simp] theorem setHome_syscalls : (s.setHome h x).syscalls = s.syscalls := rfl
@[simp] theorem setHome_freezeRecords : (s.setHome h x).freezeRecords = s.freezeRecords := rfl
@[simp] theorem setHome_frozenMasters : (s.setHome h x).frozenMasters = s.frozenMasters := rfl
@[simp] theorem setHome_interrupts : (s.setHome h x).interrupts = s.interrupts := rfl
@[simp] theorem setHome_fabric : (s.setHome h x).fabric = s.fabric := rfl
@[simp] theorem setHome_device : (s.setHome h x).device = s.device := rfl
@[simp] theorem setHome_control : (s.setHome h x).control = s.control := rfl

end

section
variable (s : State) (h : Fin 128) (f : Home → Home)

@[simp] theorem modHome_turns : (s.modHome h f).turns = s.turns := rfl
@[simp] theorem modHome_focus : (s.modHome h f).focus = s.focus := rfl
@[simp] theorem modHome_cur : (s.modHome h f).cur = s.cur := rfl
@[simp] theorem modHome_freeCtr : (s.modHome h f).freeCtr = s.freeCtr := rfl
@[simp] theorem modHome_nextId : (s.modHome h f).nextId = s.nextId := rfl
@[simp] theorem modHome_tick : (s.modHome h f).tick = s.tick := rfl
@[simp] theorem modHome_waves : (s.modHome h f).waves = s.waves := rfl
@[simp] theorem modHome_gangs : (s.modHome h f).gangs = s.gangs := rfl
@[simp] theorem modHome_launches : (s.modHome h f).launches = s.launches := rfl
@[simp] theorem modHome_seq : (s.modHome h f).seq = s.seq := rfl
@[simp] theorem modHome_deficits : (s.modHome h f).deficits = s.deficits := rfl
@[simp] theorem modHome_lastServed : (s.modHome h f).lastServed = s.lastServed := rfl
@[simp] theorem modHome_reservations : (s.modHome h f).reservations = s.reservations := rfl
@[simp] theorem modHome_holders : (s.modHome h f).holders = s.holders := rfl
@[simp] theorem modHome_systemAsids : (s.modHome h f).systemAsids = s.systemAsids := rfl
@[simp] theorem modHome_cores : (s.modHome h f).cores = s.cores := rfl
@[simp] theorem modHome_struck : (s.modHome h f).struck = s.struck := rfl
@[simp] theorem modHome_clusterTlbs : (s.modHome h f).clusterTlbs = s.clusterTlbs := rfl
@[simp] theorem modHome_homes : (s.modHome h f).homes = s.homes.set h (f (s.home h)) := rfl
@[simp] theorem modHome_messages : (s.modHome h f).messages = s.messages := rfl
@[simp] theorem modHome_releases : (s.modHome h f).releases = s.releases := rfl
@[simp] theorem modHome_lineWrites : (s.modHome h f).lineWrites = s.lineWrites := rfl
@[simp] theorem modHome_controllers : (s.modHome h f).controllers = s.controllers := rfl
@[simp] theorem modHome_mem : (s.modHome h f).mem = s.mem := rfl
@[simp] theorem modHome_regs : (s.modHome h f).regs = s.regs := rfl
@[simp] theorem modHome_tlbInvs : (s.modHome h f).tlbInvs = s.tlbInvs := rfl
@[simp] theorem modHome_reloads : (s.modHome h f).reloads = s.reloads := rfl
@[simp] theorem modHome_publishes : (s.modHome h f).publishes = s.publishes := rfl
@[simp] theorem modHome_hiddenFailed : (s.modHome h f).hiddenFailed = s.hiddenFailed := rfl
@[simp] theorem modHome_tasks : (s.modHome h f).tasks = s.tasks := rfl
@[simp] theorem modHome_readyOrder : (s.modHome h f).readyOrder = s.readyOrder := rfl
@[simp] theorem modHome_versions : (s.modHome h f).versions = s.versions := rfl
@[simp] theorem modHome_linkOps : (s.modHome h f).linkOps = s.linkOps := rfl
@[simp] theorem modHome_releaseRecords : (s.modHome h f).releaseRecords = s.releaseRecords := rfl
@[simp] theorem modHome_catDrops : (s.modHome h f).catDrops = s.catDrops := rfl
@[simp] theorem modHome_heldParks : (s.modHome h f).heldParks = s.heldParks := rfl
@[simp] theorem modHome_syscalls : (s.modHome h f).syscalls = s.syscalls := rfl
@[simp] theorem modHome_freezeRecords : (s.modHome h f).freezeRecords = s.freezeRecords := rfl
@[simp] theorem modHome_frozenMasters : (s.modHome h f).frozenMasters = s.frozenMasters := rfl
@[simp] theorem modHome_interrupts : (s.modHome h f).interrupts = s.interrupts := rfl
@[simp] theorem modHome_fabric : (s.modHome h f).fabric = s.fabric := rfl
@[simp] theorem modHome_device : (s.modHome h f).device = s.device := rfl
@[simp] theorem modHome_control : (s.modHome h f).control = s.control := rfl

end

section
variable (s : State) (c : Fin 8) (x : Controller)

@[simp] theorem setCtl_turns : (s.setCtl c x).turns = s.turns := rfl
@[simp] theorem setCtl_focus : (s.setCtl c x).focus = s.focus := rfl
@[simp] theorem setCtl_cur : (s.setCtl c x).cur = s.cur := rfl
@[simp] theorem setCtl_freeCtr : (s.setCtl c x).freeCtr = s.freeCtr := rfl
@[simp] theorem setCtl_nextId : (s.setCtl c x).nextId = s.nextId := rfl
@[simp] theorem setCtl_tick : (s.setCtl c x).tick = s.tick := rfl
@[simp] theorem setCtl_waves : (s.setCtl c x).waves = s.waves := rfl
@[simp] theorem setCtl_gangs : (s.setCtl c x).gangs = s.gangs := rfl
@[simp] theorem setCtl_launches : (s.setCtl c x).launches = s.launches := rfl
@[simp] theorem setCtl_seq : (s.setCtl c x).seq = s.seq := rfl
@[simp] theorem setCtl_deficits : (s.setCtl c x).deficits = s.deficits := rfl
@[simp] theorem setCtl_lastServed : (s.setCtl c x).lastServed = s.lastServed := rfl
@[simp] theorem setCtl_reservations : (s.setCtl c x).reservations = s.reservations := rfl
@[simp] theorem setCtl_holders : (s.setCtl c x).holders = s.holders := rfl
@[simp] theorem setCtl_systemAsids : (s.setCtl c x).systemAsids = s.systemAsids := rfl
@[simp] theorem setCtl_cores : (s.setCtl c x).cores = s.cores := rfl
@[simp] theorem setCtl_struck : (s.setCtl c x).struck = s.struck := rfl
@[simp] theorem setCtl_clusterTlbs : (s.setCtl c x).clusterTlbs = s.clusterTlbs := rfl
@[simp] theorem setCtl_homes : (s.setCtl c x).homes = s.homes := rfl
@[simp] theorem setCtl_messages : (s.setCtl c x).messages = s.messages := rfl
@[simp] theorem setCtl_releases : (s.setCtl c x).releases = s.releases := rfl
@[simp] theorem setCtl_lineWrites : (s.setCtl c x).lineWrites = s.lineWrites := rfl
@[simp] theorem setCtl_controllers : (s.setCtl c x).controllers = s.controllers.set c x := rfl
@[simp] theorem setCtl_mem : (s.setCtl c x).mem = s.mem := rfl
@[simp] theorem setCtl_regs : (s.setCtl c x).regs = s.regs := rfl
@[simp] theorem setCtl_tlbInvs : (s.setCtl c x).tlbInvs = s.tlbInvs := rfl
@[simp] theorem setCtl_reloads : (s.setCtl c x).reloads = s.reloads := rfl
@[simp] theorem setCtl_publishes : (s.setCtl c x).publishes = s.publishes := rfl
@[simp] theorem setCtl_hiddenFailed : (s.setCtl c x).hiddenFailed = s.hiddenFailed := rfl
@[simp] theorem setCtl_tasks : (s.setCtl c x).tasks = s.tasks := rfl
@[simp] theorem setCtl_readyOrder : (s.setCtl c x).readyOrder = s.readyOrder := rfl
@[simp] theorem setCtl_versions : (s.setCtl c x).versions = s.versions := rfl
@[simp] theorem setCtl_linkOps : (s.setCtl c x).linkOps = s.linkOps := rfl
@[simp] theorem setCtl_releaseRecords : (s.setCtl c x).releaseRecords = s.releaseRecords := rfl
@[simp] theorem setCtl_catDrops : (s.setCtl c x).catDrops = s.catDrops := rfl
@[simp] theorem setCtl_heldParks : (s.setCtl c x).heldParks = s.heldParks := rfl
@[simp] theorem setCtl_syscalls : (s.setCtl c x).syscalls = s.syscalls := rfl
@[simp] theorem setCtl_freezeRecords : (s.setCtl c x).freezeRecords = s.freezeRecords := rfl
@[simp] theorem setCtl_frozenMasters : (s.setCtl c x).frozenMasters = s.frozenMasters := rfl
@[simp] theorem setCtl_interrupts : (s.setCtl c x).interrupts = s.interrupts := rfl
@[simp] theorem setCtl_fabric : (s.setCtl c x).fabric = s.fabric := rfl
@[simp] theorem setCtl_device : (s.setCtl c x).device = s.device := rfl
@[simp] theorem setCtl_control : (s.setCtl c x).control = s.control := rfl

end

section
variable (s : State) (c : Fin 8) (f : Controller → Controller)

@[simp] theorem modCtl_turns : (s.modCtl c f).turns = s.turns := rfl
@[simp] theorem modCtl_focus : (s.modCtl c f).focus = s.focus := rfl
@[simp] theorem modCtl_cur : (s.modCtl c f).cur = s.cur := rfl
@[simp] theorem modCtl_freeCtr : (s.modCtl c f).freeCtr = s.freeCtr := rfl
@[simp] theorem modCtl_nextId : (s.modCtl c f).nextId = s.nextId := rfl
@[simp] theorem modCtl_tick : (s.modCtl c f).tick = s.tick := rfl
@[simp] theorem modCtl_waves : (s.modCtl c f).waves = s.waves := rfl
@[simp] theorem modCtl_gangs : (s.modCtl c f).gangs = s.gangs := rfl
@[simp] theorem modCtl_launches : (s.modCtl c f).launches = s.launches := rfl
@[simp] theorem modCtl_seq : (s.modCtl c f).seq = s.seq := rfl
@[simp] theorem modCtl_deficits : (s.modCtl c f).deficits = s.deficits := rfl
@[simp] theorem modCtl_lastServed : (s.modCtl c f).lastServed = s.lastServed := rfl
@[simp] theorem modCtl_reservations : (s.modCtl c f).reservations = s.reservations := rfl
@[simp] theorem modCtl_holders : (s.modCtl c f).holders = s.holders := rfl
@[simp] theorem modCtl_systemAsids : (s.modCtl c f).systemAsids = s.systemAsids := rfl
@[simp] theorem modCtl_cores : (s.modCtl c f).cores = s.cores := rfl
@[simp] theorem modCtl_struck : (s.modCtl c f).struck = s.struck := rfl
@[simp] theorem modCtl_clusterTlbs : (s.modCtl c f).clusterTlbs = s.clusterTlbs := rfl
@[simp] theorem modCtl_homes : (s.modCtl c f).homes = s.homes := rfl
@[simp] theorem modCtl_messages : (s.modCtl c f).messages = s.messages := rfl
@[simp] theorem modCtl_releases : (s.modCtl c f).releases = s.releases := rfl
@[simp] theorem modCtl_lineWrites : (s.modCtl c f).lineWrites = s.lineWrites := rfl
@[simp] theorem modCtl_controllers : (s.modCtl c f).controllers = s.controllers.set c (f (s.ctl c)) := rfl
@[simp] theorem modCtl_mem : (s.modCtl c f).mem = s.mem := rfl
@[simp] theorem modCtl_regs : (s.modCtl c f).regs = s.regs := rfl
@[simp] theorem modCtl_tlbInvs : (s.modCtl c f).tlbInvs = s.tlbInvs := rfl
@[simp] theorem modCtl_reloads : (s.modCtl c f).reloads = s.reloads := rfl
@[simp] theorem modCtl_publishes : (s.modCtl c f).publishes = s.publishes := rfl
@[simp] theorem modCtl_hiddenFailed : (s.modCtl c f).hiddenFailed = s.hiddenFailed := rfl
@[simp] theorem modCtl_tasks : (s.modCtl c f).tasks = s.tasks := rfl
@[simp] theorem modCtl_readyOrder : (s.modCtl c f).readyOrder = s.readyOrder := rfl
@[simp] theorem modCtl_versions : (s.modCtl c f).versions = s.versions := rfl
@[simp] theorem modCtl_linkOps : (s.modCtl c f).linkOps = s.linkOps := rfl
@[simp] theorem modCtl_releaseRecords : (s.modCtl c f).releaseRecords = s.releaseRecords := rfl
@[simp] theorem modCtl_catDrops : (s.modCtl c f).catDrops = s.catDrops := rfl
@[simp] theorem modCtl_heldParks : (s.modCtl c f).heldParks = s.heldParks := rfl
@[simp] theorem modCtl_syscalls : (s.modCtl c f).syscalls = s.syscalls := rfl
@[simp] theorem modCtl_freezeRecords : (s.modCtl c f).freezeRecords = s.freezeRecords := rfl
@[simp] theorem modCtl_frozenMasters : (s.modCtl c f).frozenMasters = s.frozenMasters := rfl
@[simp] theorem modCtl_interrupts : (s.modCtl c f).interrupts = s.interrupts := rfl
@[simp] theorem modCtl_fabric : (s.modCtl c f).fabric = s.fabric := rfl
@[simp] theorem modCtl_device : (s.modCtl c f).device = s.device := rfl
@[simp] theorem modCtl_control : (s.modCtl c f).control = s.control := rfl

end

section
variable (s : State) (f : Fabric → Fabric)

@[simp] theorem modFabric_turns : (s.modFabric f).turns = s.turns := rfl
@[simp] theorem modFabric_focus : (s.modFabric f).focus = s.focus := rfl
@[simp] theorem modFabric_cur : (s.modFabric f).cur = s.cur := rfl
@[simp] theorem modFabric_freeCtr : (s.modFabric f).freeCtr = s.freeCtr := rfl
@[simp] theorem modFabric_nextId : (s.modFabric f).nextId = s.nextId := rfl
@[simp] theorem modFabric_tick : (s.modFabric f).tick = s.tick := rfl
@[simp] theorem modFabric_waves : (s.modFabric f).waves = s.waves := rfl
@[simp] theorem modFabric_gangs : (s.modFabric f).gangs = s.gangs := rfl
@[simp] theorem modFabric_launches : (s.modFabric f).launches = s.launches := rfl
@[simp] theorem modFabric_seq : (s.modFabric f).seq = s.seq := rfl
@[simp] theorem modFabric_deficits : (s.modFabric f).deficits = s.deficits := rfl
@[simp] theorem modFabric_lastServed : (s.modFabric f).lastServed = s.lastServed := rfl
@[simp] theorem modFabric_reservations : (s.modFabric f).reservations = s.reservations := rfl
@[simp] theorem modFabric_holders : (s.modFabric f).holders = s.holders := rfl
@[simp] theorem modFabric_systemAsids : (s.modFabric f).systemAsids = s.systemAsids := rfl
@[simp] theorem modFabric_cores : (s.modFabric f).cores = s.cores := rfl
@[simp] theorem modFabric_struck : (s.modFabric f).struck = s.struck := rfl
@[simp] theorem modFabric_clusterTlbs : (s.modFabric f).clusterTlbs = s.clusterTlbs := rfl
@[simp] theorem modFabric_homes : (s.modFabric f).homes = s.homes := rfl
@[simp] theorem modFabric_messages : (s.modFabric f).messages = s.messages := rfl
@[simp] theorem modFabric_releases : (s.modFabric f).releases = s.releases := rfl
@[simp] theorem modFabric_lineWrites : (s.modFabric f).lineWrites = s.lineWrites := rfl
@[simp] theorem modFabric_controllers : (s.modFabric f).controllers = s.controllers := rfl
@[simp] theorem modFabric_mem : (s.modFabric f).mem = s.mem := rfl
@[simp] theorem modFabric_regs : (s.modFabric f).regs = s.regs := rfl
@[simp] theorem modFabric_tlbInvs : (s.modFabric f).tlbInvs = s.tlbInvs := rfl
@[simp] theorem modFabric_reloads : (s.modFabric f).reloads = s.reloads := rfl
@[simp] theorem modFabric_publishes : (s.modFabric f).publishes = s.publishes := rfl
@[simp] theorem modFabric_hiddenFailed : (s.modFabric f).hiddenFailed = s.hiddenFailed := rfl
@[simp] theorem modFabric_tasks : (s.modFabric f).tasks = s.tasks := rfl
@[simp] theorem modFabric_readyOrder : (s.modFabric f).readyOrder = s.readyOrder := rfl
@[simp] theorem modFabric_versions : (s.modFabric f).versions = s.versions := rfl
@[simp] theorem modFabric_linkOps : (s.modFabric f).linkOps = s.linkOps := rfl
@[simp] theorem modFabric_releaseRecords : (s.modFabric f).releaseRecords = s.releaseRecords := rfl
@[simp] theorem modFabric_catDrops : (s.modFabric f).catDrops = s.catDrops := rfl
@[simp] theorem modFabric_heldParks : (s.modFabric f).heldParks = s.heldParks := rfl
@[simp] theorem modFabric_syscalls : (s.modFabric f).syscalls = s.syscalls := rfl
@[simp] theorem modFabric_freezeRecords : (s.modFabric f).freezeRecords = s.freezeRecords := rfl
@[simp] theorem modFabric_frozenMasters : (s.modFabric f).frozenMasters = s.frozenMasters := rfl
@[simp] theorem modFabric_interrupts : (s.modFabric f).interrupts = s.interrupts := rfl
@[simp] theorem modFabric_fabric : (s.modFabric f).fabric = f s.fabric := rfl
@[simp] theorem modFabric_device : (s.modFabric f).device = s.device := rfl
@[simp] theorem modFabric_control : (s.modFabric f).control = s.control := rfl

end

section
variable (s : State) (f : Device → Device)

@[simp] theorem modDevice_turns : (s.modDevice f).turns = s.turns := rfl
@[simp] theorem modDevice_focus : (s.modDevice f).focus = s.focus := rfl
@[simp] theorem modDevice_cur : (s.modDevice f).cur = s.cur := rfl
@[simp] theorem modDevice_freeCtr : (s.modDevice f).freeCtr = s.freeCtr := rfl
@[simp] theorem modDevice_nextId : (s.modDevice f).nextId = s.nextId := rfl
@[simp] theorem modDevice_tick : (s.modDevice f).tick = s.tick := rfl
@[simp] theorem modDevice_waves : (s.modDevice f).waves = s.waves := rfl
@[simp] theorem modDevice_gangs : (s.modDevice f).gangs = s.gangs := rfl
@[simp] theorem modDevice_launches : (s.modDevice f).launches = s.launches := rfl
@[simp] theorem modDevice_seq : (s.modDevice f).seq = s.seq := rfl
@[simp] theorem modDevice_deficits : (s.modDevice f).deficits = s.deficits := rfl
@[simp] theorem modDevice_lastServed : (s.modDevice f).lastServed = s.lastServed := rfl
@[simp] theorem modDevice_reservations : (s.modDevice f).reservations = s.reservations := rfl
@[simp] theorem modDevice_holders : (s.modDevice f).holders = s.holders := rfl
@[simp] theorem modDevice_systemAsids : (s.modDevice f).systemAsids = s.systemAsids := rfl
@[simp] theorem modDevice_cores : (s.modDevice f).cores = s.cores := rfl
@[simp] theorem modDevice_struck : (s.modDevice f).struck = s.struck := rfl
@[simp] theorem modDevice_clusterTlbs : (s.modDevice f).clusterTlbs = s.clusterTlbs := rfl
@[simp] theorem modDevice_homes : (s.modDevice f).homes = s.homes := rfl
@[simp] theorem modDevice_messages : (s.modDevice f).messages = s.messages := rfl
@[simp] theorem modDevice_releases : (s.modDevice f).releases = s.releases := rfl
@[simp] theorem modDevice_lineWrites : (s.modDevice f).lineWrites = s.lineWrites := rfl
@[simp] theorem modDevice_controllers : (s.modDevice f).controllers = s.controllers := rfl
@[simp] theorem modDevice_mem : (s.modDevice f).mem = s.mem := rfl
@[simp] theorem modDevice_regs : (s.modDevice f).regs = s.regs := rfl
@[simp] theorem modDevice_tlbInvs : (s.modDevice f).tlbInvs = s.tlbInvs := rfl
@[simp] theorem modDevice_reloads : (s.modDevice f).reloads = s.reloads := rfl
@[simp] theorem modDevice_publishes : (s.modDevice f).publishes = s.publishes := rfl
@[simp] theorem modDevice_hiddenFailed : (s.modDevice f).hiddenFailed = s.hiddenFailed := rfl
@[simp] theorem modDevice_tasks : (s.modDevice f).tasks = s.tasks := rfl
@[simp] theorem modDevice_readyOrder : (s.modDevice f).readyOrder = s.readyOrder := rfl
@[simp] theorem modDevice_versions : (s.modDevice f).versions = s.versions := rfl
@[simp] theorem modDevice_linkOps : (s.modDevice f).linkOps = s.linkOps := rfl
@[simp] theorem modDevice_releaseRecords : (s.modDevice f).releaseRecords = s.releaseRecords := rfl
@[simp] theorem modDevice_catDrops : (s.modDevice f).catDrops = s.catDrops := rfl
@[simp] theorem modDevice_heldParks : (s.modDevice f).heldParks = s.heldParks := rfl
@[simp] theorem modDevice_syscalls : (s.modDevice f).syscalls = s.syscalls := rfl
@[simp] theorem modDevice_freezeRecords : (s.modDevice f).freezeRecords = s.freezeRecords := rfl
@[simp] theorem modDevice_frozenMasters : (s.modDevice f).frozenMasters = s.frozenMasters := rfl
@[simp] theorem modDevice_interrupts : (s.modDevice f).interrupts = s.interrupts := rfl
@[simp] theorem modDevice_fabric : (s.modDevice f).fabric = s.fabric := rfl
@[simp] theorem modDevice_device : (s.modDevice f).device = f s.device := rfl
@[simp] theorem modDevice_control : (s.modDevice f).control = s.control := rfl

end

section
variable (s : State) (id : Nat) (f : Wave → Wave)

@[simp] theorem modWave_turns : (s.modWave id f).turns = s.turns := rfl
@[simp] theorem modWave_focus : (s.modWave id f).focus = s.focus := rfl
@[simp] theorem modWave_cur : (s.modWave id f).cur = s.cur := rfl
@[simp] theorem modWave_freeCtr : (s.modWave id f).freeCtr = s.freeCtr := rfl
@[simp] theorem modWave_nextId : (s.modWave id f).nextId = s.nextId := rfl
@[simp] theorem modWave_tick : (s.modWave id f).tick = s.tick := rfl
@[simp] theorem modWave_waves : (s.modWave id f).waves = s.waves.map fun w => if w.id = id then f w else w := rfl
@[simp] theorem modWave_gangs : (s.modWave id f).gangs = s.gangs := rfl
@[simp] theorem modWave_launches : (s.modWave id f).launches = s.launches := rfl
@[simp] theorem modWave_seq : (s.modWave id f).seq = s.seq := rfl
@[simp] theorem modWave_deficits : (s.modWave id f).deficits = s.deficits := rfl
@[simp] theorem modWave_lastServed : (s.modWave id f).lastServed = s.lastServed := rfl
@[simp] theorem modWave_reservations : (s.modWave id f).reservations = s.reservations := rfl
@[simp] theorem modWave_holders : (s.modWave id f).holders = s.holders := rfl
@[simp] theorem modWave_systemAsids : (s.modWave id f).systemAsids = s.systemAsids := rfl
@[simp] theorem modWave_cores : (s.modWave id f).cores = s.cores := rfl
@[simp] theorem modWave_struck : (s.modWave id f).struck = s.struck := rfl
@[simp] theorem modWave_clusterTlbs : (s.modWave id f).clusterTlbs = s.clusterTlbs := rfl
@[simp] theorem modWave_homes : (s.modWave id f).homes = s.homes := rfl
@[simp] theorem modWave_messages : (s.modWave id f).messages = s.messages := rfl
@[simp] theorem modWave_releases : (s.modWave id f).releases = s.releases := rfl
@[simp] theorem modWave_lineWrites : (s.modWave id f).lineWrites = s.lineWrites := rfl
@[simp] theorem modWave_controllers : (s.modWave id f).controllers = s.controllers := rfl
@[simp] theorem modWave_mem : (s.modWave id f).mem = s.mem := rfl
@[simp] theorem modWave_regs : (s.modWave id f).regs = s.regs := rfl
@[simp] theorem modWave_tlbInvs : (s.modWave id f).tlbInvs = s.tlbInvs := rfl
@[simp] theorem modWave_reloads : (s.modWave id f).reloads = s.reloads := rfl
@[simp] theorem modWave_publishes : (s.modWave id f).publishes = s.publishes := rfl
@[simp] theorem modWave_hiddenFailed : (s.modWave id f).hiddenFailed = s.hiddenFailed := rfl
@[simp] theorem modWave_tasks : (s.modWave id f).tasks = s.tasks := rfl
@[simp] theorem modWave_readyOrder : (s.modWave id f).readyOrder = s.readyOrder := rfl
@[simp] theorem modWave_versions : (s.modWave id f).versions = s.versions := rfl
@[simp] theorem modWave_linkOps : (s.modWave id f).linkOps = s.linkOps := rfl
@[simp] theorem modWave_releaseRecords : (s.modWave id f).releaseRecords = s.releaseRecords := rfl
@[simp] theorem modWave_catDrops : (s.modWave id f).catDrops = s.catDrops := rfl
@[simp] theorem modWave_heldParks : (s.modWave id f).heldParks = s.heldParks := rfl
@[simp] theorem modWave_syscalls : (s.modWave id f).syscalls = s.syscalls := rfl
@[simp] theorem modWave_freezeRecords : (s.modWave id f).freezeRecords = s.freezeRecords := rfl
@[simp] theorem modWave_frozenMasters : (s.modWave id f).frozenMasters = s.frozenMasters := rfl
@[simp] theorem modWave_interrupts : (s.modWave id f).interrupts = s.interrupts := rfl
@[simp] theorem modWave_fabric : (s.modWave id f).fabric = s.fabric := rfl
@[simp] theorem modWave_device : (s.modWave id f).device = s.device := rfl
@[simp] theorem modWave_control : (s.modWave id f).control = s.control := rfl

end

section
variable (s : State) (id : Nat) (t : Tag) (f : Path → Path)

@[simp] theorem modPath_turns : (s.modPath id t f).turns = s.turns := rfl
@[simp] theorem modPath_focus : (s.modPath id t f).focus = s.focus := rfl
@[simp] theorem modPath_cur : (s.modPath id t f).cur = s.cur := rfl
@[simp] theorem modPath_freeCtr : (s.modPath id t f).freeCtr = s.freeCtr := rfl
@[simp] theorem modPath_nextId : (s.modPath id t f).nextId = s.nextId := rfl
@[simp] theorem modPath_tick : (s.modPath id t f).tick = s.tick := rfl
@[simp] theorem modPath_waves : (s.modPath id t f).waves = s.waves.map fun w => if w.id = id then w.modPath t f else w := rfl
@[simp] theorem modPath_gangs : (s.modPath id t f).gangs = s.gangs := rfl
@[simp] theorem modPath_launches : (s.modPath id t f).launches = s.launches := rfl
@[simp] theorem modPath_seq : (s.modPath id t f).seq = s.seq := rfl
@[simp] theorem modPath_deficits : (s.modPath id t f).deficits = s.deficits := rfl
@[simp] theorem modPath_lastServed : (s.modPath id t f).lastServed = s.lastServed := rfl
@[simp] theorem modPath_reservations : (s.modPath id t f).reservations = s.reservations := rfl
@[simp] theorem modPath_holders : (s.modPath id t f).holders = s.holders := rfl
@[simp] theorem modPath_systemAsids : (s.modPath id t f).systemAsids = s.systemAsids := rfl
@[simp] theorem modPath_cores : (s.modPath id t f).cores = s.cores := rfl
@[simp] theorem modPath_struck : (s.modPath id t f).struck = s.struck := rfl
@[simp] theorem modPath_clusterTlbs : (s.modPath id t f).clusterTlbs = s.clusterTlbs := rfl
@[simp] theorem modPath_homes : (s.modPath id t f).homes = s.homes := rfl
@[simp] theorem modPath_messages : (s.modPath id t f).messages = s.messages := rfl
@[simp] theorem modPath_releases : (s.modPath id t f).releases = s.releases := rfl
@[simp] theorem modPath_lineWrites : (s.modPath id t f).lineWrites = s.lineWrites := rfl
@[simp] theorem modPath_controllers : (s.modPath id t f).controllers = s.controllers := rfl
@[simp] theorem modPath_mem : (s.modPath id t f).mem = s.mem := rfl
@[simp] theorem modPath_regs : (s.modPath id t f).regs = s.regs := rfl
@[simp] theorem modPath_tlbInvs : (s.modPath id t f).tlbInvs = s.tlbInvs := rfl
@[simp] theorem modPath_reloads : (s.modPath id t f).reloads = s.reloads := rfl
@[simp] theorem modPath_publishes : (s.modPath id t f).publishes = s.publishes := rfl
@[simp] theorem modPath_hiddenFailed : (s.modPath id t f).hiddenFailed = s.hiddenFailed := rfl
@[simp] theorem modPath_tasks : (s.modPath id t f).tasks = s.tasks := rfl
@[simp] theorem modPath_readyOrder : (s.modPath id t f).readyOrder = s.readyOrder := rfl
@[simp] theorem modPath_versions : (s.modPath id t f).versions = s.versions := rfl
@[simp] theorem modPath_linkOps : (s.modPath id t f).linkOps = s.linkOps := rfl
@[simp] theorem modPath_releaseRecords : (s.modPath id t f).releaseRecords = s.releaseRecords := rfl
@[simp] theorem modPath_catDrops : (s.modPath id t f).catDrops = s.catDrops := rfl
@[simp] theorem modPath_heldParks : (s.modPath id t f).heldParks = s.heldParks := rfl
@[simp] theorem modPath_syscalls : (s.modPath id t f).syscalls = s.syscalls := rfl
@[simp] theorem modPath_freezeRecords : (s.modPath id t f).freezeRecords = s.freezeRecords := rfl
@[simp] theorem modPath_frozenMasters : (s.modPath id t f).frozenMasters = s.frozenMasters := rfl
@[simp] theorem modPath_interrupts : (s.modPath id t f).interrupts = s.interrupts := rfl
@[simp] theorem modPath_fabric : (s.modPath id t f).fabric = s.fabric := rfl
@[simp] theorem modPath_device : (s.modPath id t f).device = s.device := rfl
@[simp] theorem modPath_control : (s.modPath id t f).control = s.control := rfl

end

section
variable (s : State) (id : Nat) (f : Gang → Gang)

@[simp] theorem modGang_turns : (s.modGang id f).turns = s.turns := rfl
@[simp] theorem modGang_focus : (s.modGang id f).focus = s.focus := rfl
@[simp] theorem modGang_cur : (s.modGang id f).cur = s.cur := rfl
@[simp] theorem modGang_freeCtr : (s.modGang id f).freeCtr = s.freeCtr := rfl
@[simp] theorem modGang_nextId : (s.modGang id f).nextId = s.nextId := rfl
@[simp] theorem modGang_tick : (s.modGang id f).tick = s.tick := rfl
@[simp] theorem modGang_waves : (s.modGang id f).waves = s.waves := rfl
@[simp] theorem modGang_gangs : (s.modGang id f).gangs = s.gangs.map fun g => if g.id = id then f g else g := rfl
@[simp] theorem modGang_launches : (s.modGang id f).launches = s.launches := rfl
@[simp] theorem modGang_seq : (s.modGang id f).seq = s.seq := rfl
@[simp] theorem modGang_deficits : (s.modGang id f).deficits = s.deficits := rfl
@[simp] theorem modGang_lastServed : (s.modGang id f).lastServed = s.lastServed := rfl
@[simp] theorem modGang_reservations : (s.modGang id f).reservations = s.reservations := rfl
@[simp] theorem modGang_holders : (s.modGang id f).holders = s.holders := rfl
@[simp] theorem modGang_systemAsids : (s.modGang id f).systemAsids = s.systemAsids := rfl
@[simp] theorem modGang_cores : (s.modGang id f).cores = s.cores := rfl
@[simp] theorem modGang_struck : (s.modGang id f).struck = s.struck := rfl
@[simp] theorem modGang_clusterTlbs : (s.modGang id f).clusterTlbs = s.clusterTlbs := rfl
@[simp] theorem modGang_homes : (s.modGang id f).homes = s.homes := rfl
@[simp] theorem modGang_messages : (s.modGang id f).messages = s.messages := rfl
@[simp] theorem modGang_releases : (s.modGang id f).releases = s.releases := rfl
@[simp] theorem modGang_lineWrites : (s.modGang id f).lineWrites = s.lineWrites := rfl
@[simp] theorem modGang_controllers : (s.modGang id f).controllers = s.controllers := rfl
@[simp] theorem modGang_mem : (s.modGang id f).mem = s.mem := rfl
@[simp] theorem modGang_regs : (s.modGang id f).regs = s.regs := rfl
@[simp] theorem modGang_tlbInvs : (s.modGang id f).tlbInvs = s.tlbInvs := rfl
@[simp] theorem modGang_reloads : (s.modGang id f).reloads = s.reloads := rfl
@[simp] theorem modGang_publishes : (s.modGang id f).publishes = s.publishes := rfl
@[simp] theorem modGang_hiddenFailed : (s.modGang id f).hiddenFailed = s.hiddenFailed := rfl
@[simp] theorem modGang_tasks : (s.modGang id f).tasks = s.tasks := rfl
@[simp] theorem modGang_readyOrder : (s.modGang id f).readyOrder = s.readyOrder := rfl
@[simp] theorem modGang_versions : (s.modGang id f).versions = s.versions := rfl
@[simp] theorem modGang_linkOps : (s.modGang id f).linkOps = s.linkOps := rfl
@[simp] theorem modGang_releaseRecords : (s.modGang id f).releaseRecords = s.releaseRecords := rfl
@[simp] theorem modGang_catDrops : (s.modGang id f).catDrops = s.catDrops := rfl
@[simp] theorem modGang_heldParks : (s.modGang id f).heldParks = s.heldParks := rfl
@[simp] theorem modGang_syscalls : (s.modGang id f).syscalls = s.syscalls := rfl
@[simp] theorem modGang_freezeRecords : (s.modGang id f).freezeRecords = s.freezeRecords := rfl
@[simp] theorem modGang_frozenMasters : (s.modGang id f).frozenMasters = s.frozenMasters := rfl
@[simp] theorem modGang_interrupts : (s.modGang id f).interrupts = s.interrupts := rfl
@[simp] theorem modGang_fabric : (s.modGang id f).fabric = s.fabric := rfl
@[simp] theorem modGang_device : (s.modGang id f).device = s.device := rfl
@[simp] theorem modGang_control : (s.modGang id f).control = s.control := rfl

end

section
variable (s : State) (k : Fin 256) (f : Launch → Launch)

@[simp] theorem modLaunch_turns : (s.modLaunch k f).turns = s.turns := rfl
@[simp] theorem modLaunch_focus : (s.modLaunch k f).focus = s.focus := rfl
@[simp] theorem modLaunch_cur : (s.modLaunch k f).cur = s.cur := rfl
@[simp] theorem modLaunch_freeCtr : (s.modLaunch k f).freeCtr = s.freeCtr := rfl
@[simp] theorem modLaunch_nextId : (s.modLaunch k f).nextId = s.nextId := rfl
@[simp] theorem modLaunch_tick : (s.modLaunch k f).tick = s.tick := rfl
@[simp] theorem modLaunch_waves : (s.modLaunch k f).waves = s.waves := rfl
@[simp] theorem modLaunch_gangs : (s.modLaunch k f).gangs = s.gangs := rfl
@[simp] theorem modLaunch_launches : (s.modLaunch k f).launches = s.launches.map fun l => if l.slot = k then f l else l := rfl
@[simp] theorem modLaunch_seq : (s.modLaunch k f).seq = s.seq := rfl
@[simp] theorem modLaunch_deficits : (s.modLaunch k f).deficits = s.deficits := rfl
@[simp] theorem modLaunch_lastServed : (s.modLaunch k f).lastServed = s.lastServed := rfl
@[simp] theorem modLaunch_reservations : (s.modLaunch k f).reservations = s.reservations := rfl
@[simp] theorem modLaunch_holders : (s.modLaunch k f).holders = s.holders := rfl
@[simp] theorem modLaunch_systemAsids : (s.modLaunch k f).systemAsids = s.systemAsids := rfl
@[simp] theorem modLaunch_cores : (s.modLaunch k f).cores = s.cores := rfl
@[simp] theorem modLaunch_struck : (s.modLaunch k f).struck = s.struck := rfl
@[simp] theorem modLaunch_clusterTlbs : (s.modLaunch k f).clusterTlbs = s.clusterTlbs := rfl
@[simp] theorem modLaunch_homes : (s.modLaunch k f).homes = s.homes := rfl
@[simp] theorem modLaunch_messages : (s.modLaunch k f).messages = s.messages := rfl
@[simp] theorem modLaunch_releases : (s.modLaunch k f).releases = s.releases := rfl
@[simp] theorem modLaunch_lineWrites : (s.modLaunch k f).lineWrites = s.lineWrites := rfl
@[simp] theorem modLaunch_controllers : (s.modLaunch k f).controllers = s.controllers := rfl
@[simp] theorem modLaunch_mem : (s.modLaunch k f).mem = s.mem := rfl
@[simp] theorem modLaunch_regs : (s.modLaunch k f).regs = s.regs := rfl
@[simp] theorem modLaunch_tlbInvs : (s.modLaunch k f).tlbInvs = s.tlbInvs := rfl
@[simp] theorem modLaunch_reloads : (s.modLaunch k f).reloads = s.reloads := rfl
@[simp] theorem modLaunch_publishes : (s.modLaunch k f).publishes = s.publishes := rfl
@[simp] theorem modLaunch_hiddenFailed : (s.modLaunch k f).hiddenFailed = s.hiddenFailed := rfl
@[simp] theorem modLaunch_tasks : (s.modLaunch k f).tasks = s.tasks := rfl
@[simp] theorem modLaunch_readyOrder : (s.modLaunch k f).readyOrder = s.readyOrder := rfl
@[simp] theorem modLaunch_versions : (s.modLaunch k f).versions = s.versions := rfl
@[simp] theorem modLaunch_linkOps : (s.modLaunch k f).linkOps = s.linkOps := rfl
@[simp] theorem modLaunch_releaseRecords : (s.modLaunch k f).releaseRecords = s.releaseRecords := rfl
@[simp] theorem modLaunch_catDrops : (s.modLaunch k f).catDrops = s.catDrops := rfl
@[simp] theorem modLaunch_heldParks : (s.modLaunch k f).heldParks = s.heldParks := rfl
@[simp] theorem modLaunch_syscalls : (s.modLaunch k f).syscalls = s.syscalls := rfl
@[simp] theorem modLaunch_freezeRecords : (s.modLaunch k f).freezeRecords = s.freezeRecords := rfl
@[simp] theorem modLaunch_frozenMasters : (s.modLaunch k f).frozenMasters = s.frozenMasters := rfl
@[simp] theorem modLaunch_interrupts : (s.modLaunch k f).interrupts = s.interrupts := rfl
@[simp] theorem modLaunch_fabric : (s.modLaunch k f).fabric = s.fabric := rfl
@[simp] theorem modLaunch_device : (s.modLaunch k f).device = s.device := rfl
@[simp] theorem modLaunch_control : (s.modLaunch k f).control = s.control := rfl

end

section
variable (s : State) (pa : Nat) (x : DWord)

@[simp] theorem setReg_turns : (s.setReg pa x).turns = s.turns := rfl
@[simp] theorem setReg_focus : (s.setReg pa x).focus = s.focus := rfl
@[simp] theorem setReg_cur : (s.setReg pa x).cur = s.cur := rfl
@[simp] theorem setReg_freeCtr : (s.setReg pa x).freeCtr = s.freeCtr := rfl
@[simp] theorem setReg_nextId : (s.setReg pa x).nextId = s.nextId := rfl
@[simp] theorem setReg_tick : (s.setReg pa x).tick = s.tick := rfl
@[simp] theorem setReg_waves : (s.setReg pa x).waves = s.waves := rfl
@[simp] theorem setReg_gangs : (s.setReg pa x).gangs = s.gangs := rfl
@[simp] theorem setReg_launches : (s.setReg pa x).launches = s.launches := rfl
@[simp] theorem setReg_seq : (s.setReg pa x).seq = s.seq := rfl
@[simp] theorem setReg_deficits : (s.setReg pa x).deficits = s.deficits := rfl
@[simp] theorem setReg_lastServed : (s.setReg pa x).lastServed = s.lastServed := rfl
@[simp] theorem setReg_reservations : (s.setReg pa x).reservations = s.reservations := rfl
@[simp] theorem setReg_holders : (s.setReg pa x).holders = s.holders := rfl
@[simp] theorem setReg_systemAsids : (s.setReg pa x).systemAsids = s.systemAsids := rfl
@[simp] theorem setReg_cores : (s.setReg pa x).cores = s.cores := rfl
@[simp] theorem setReg_struck : (s.setReg pa x).struck = s.struck := rfl
@[simp] theorem setReg_clusterTlbs : (s.setReg pa x).clusterTlbs = s.clusterTlbs := rfl
@[simp] theorem setReg_homes : (s.setReg pa x).homes = s.homes := rfl
@[simp] theorem setReg_messages : (s.setReg pa x).messages = s.messages := rfl
@[simp] theorem setReg_releases : (s.setReg pa x).releases = s.releases := rfl
@[simp] theorem setReg_lineWrites : (s.setReg pa x).lineWrites = s.lineWrites := rfl
@[simp] theorem setReg_controllers : (s.setReg pa x).controllers = s.controllers := rfl
@[simp] theorem setReg_mem : (s.setReg pa x).mem = s.mem := rfl
@[simp] theorem setReg_regs : (s.setReg pa x).regs = SMap.set (regReset pa) s.regs pa x := rfl
@[simp] theorem setReg_tlbInvs : (s.setReg pa x).tlbInvs = s.tlbInvs := rfl
@[simp] theorem setReg_reloads : (s.setReg pa x).reloads = s.reloads := rfl
@[simp] theorem setReg_publishes : (s.setReg pa x).publishes = s.publishes := rfl
@[simp] theorem setReg_hiddenFailed : (s.setReg pa x).hiddenFailed = s.hiddenFailed := rfl
@[simp] theorem setReg_tasks : (s.setReg pa x).tasks = s.tasks := rfl
@[simp] theorem setReg_readyOrder : (s.setReg pa x).readyOrder = s.readyOrder := rfl
@[simp] theorem setReg_versions : (s.setReg pa x).versions = s.versions := rfl
@[simp] theorem setReg_linkOps : (s.setReg pa x).linkOps = s.linkOps := rfl
@[simp] theorem setReg_releaseRecords : (s.setReg pa x).releaseRecords = s.releaseRecords := rfl
@[simp] theorem setReg_catDrops : (s.setReg pa x).catDrops = s.catDrops := rfl
@[simp] theorem setReg_heldParks : (s.setReg pa x).heldParks = s.heldParks := rfl
@[simp] theorem setReg_syscalls : (s.setReg pa x).syscalls = s.syscalls := rfl
@[simp] theorem setReg_freezeRecords : (s.setReg pa x).freezeRecords = s.freezeRecords := rfl
@[simp] theorem setReg_frozenMasters : (s.setReg pa x).frozenMasters = s.frozenMasters := rfl
@[simp] theorem setReg_interrupts : (s.setReg pa x).interrupts = s.interrupts := rfl
@[simp] theorem setReg_fabric : (s.setReg pa x).fabric = s.fabric := rfl
@[simp] theorem setReg_device : (s.setReg pa x).device = s.device := rfl
@[simp] theorem setReg_control : (s.setReg pa x).control = s.control := rfl

end

section
variable (s : State) (i : Interrupt)

@[simp] theorem interrupt_turns : (s.interrupt i).turns = s.turns := rfl
@[simp] theorem interrupt_focus : (s.interrupt i).focus = s.focus := rfl
@[simp] theorem interrupt_cur : (s.interrupt i).cur = s.cur := rfl
@[simp] theorem interrupt_freeCtr : (s.interrupt i).freeCtr = s.freeCtr := rfl
@[simp] theorem interrupt_nextId : (s.interrupt i).nextId = s.nextId := rfl
@[simp] theorem interrupt_tick : (s.interrupt i).tick = s.tick := rfl
@[simp] theorem interrupt_waves : (s.interrupt i).waves = s.waves := rfl
@[simp] theorem interrupt_gangs : (s.interrupt i).gangs = s.gangs := rfl
@[simp] theorem interrupt_launches : (s.interrupt i).launches = s.launches := rfl
@[simp] theorem interrupt_seq : (s.interrupt i).seq = s.seq := rfl
@[simp] theorem interrupt_deficits : (s.interrupt i).deficits = s.deficits := rfl
@[simp] theorem interrupt_lastServed : (s.interrupt i).lastServed = s.lastServed := rfl
@[simp] theorem interrupt_reservations : (s.interrupt i).reservations = s.reservations := rfl
@[simp] theorem interrupt_holders : (s.interrupt i).holders = s.holders := rfl
@[simp] theorem interrupt_systemAsids : (s.interrupt i).systemAsids = s.systemAsids := rfl
@[simp] theorem interrupt_cores : (s.interrupt i).cores = s.cores := rfl
@[simp] theorem interrupt_struck : (s.interrupt i).struck = s.struck := rfl
@[simp] theorem interrupt_clusterTlbs : (s.interrupt i).clusterTlbs = s.clusterTlbs := rfl
@[simp] theorem interrupt_homes : (s.interrupt i).homes = s.homes := rfl
@[simp] theorem interrupt_messages : (s.interrupt i).messages = s.messages := rfl
@[simp] theorem interrupt_releases : (s.interrupt i).releases = s.releases := rfl
@[simp] theorem interrupt_lineWrites : (s.interrupt i).lineWrites = s.lineWrites := rfl
@[simp] theorem interrupt_controllers : (s.interrupt i).controllers = s.controllers := rfl
@[simp] theorem interrupt_mem : (s.interrupt i).mem = s.mem := rfl
@[simp] theorem interrupt_regs : (s.interrupt i).regs = s.regs := rfl
@[simp] theorem interrupt_tlbInvs : (s.interrupt i).tlbInvs = s.tlbInvs := rfl
@[simp] theorem interrupt_reloads : (s.interrupt i).reloads = s.reloads := rfl
@[simp] theorem interrupt_publishes : (s.interrupt i).publishes = s.publishes := rfl
@[simp] theorem interrupt_hiddenFailed : (s.interrupt i).hiddenFailed = s.hiddenFailed := rfl
@[simp] theorem interrupt_tasks : (s.interrupt i).tasks = s.tasks := rfl
@[simp] theorem interrupt_readyOrder : (s.interrupt i).readyOrder = s.readyOrder := rfl
@[simp] theorem interrupt_versions : (s.interrupt i).versions = s.versions := rfl
@[simp] theorem interrupt_linkOps : (s.interrupt i).linkOps = s.linkOps := rfl
@[simp] theorem interrupt_releaseRecords : (s.interrupt i).releaseRecords = s.releaseRecords := rfl
@[simp] theorem interrupt_catDrops : (s.interrupt i).catDrops = s.catDrops := rfl
@[simp] theorem interrupt_heldParks : (s.interrupt i).heldParks = s.heldParks := rfl
@[simp] theorem interrupt_syscalls : (s.interrupt i).syscalls = s.syscalls := rfl
@[simp] theorem interrupt_freezeRecords : (s.interrupt i).freezeRecords = s.freezeRecords := rfl
@[simp] theorem interrupt_frozenMasters : (s.interrupt i).frozenMasters = s.frozenMasters := rfl
@[simp] theorem interrupt_interrupts : (s.interrupt i).interrupts = s.interrupts ++ [i] := rfl
@[simp] theorem interrupt_fabric : (s.interrupt i).fabric = s.fabric := rfl
@[simp] theorem interrupt_device : (s.interrupt i).device = s.device := rfl
@[simp] theorem interrupt_control : (s.interrupt i).control = s.control := rfl

end

section
variable (s : State) (m : DWord) (c k : Nat)

@[simp] theorem freezeRecord_turns : (s.freezeRecord m c k).turns = s.turns := rfl
@[simp] theorem freezeRecord_focus : (s.freezeRecord m c k).focus = s.focus := rfl
@[simp] theorem freezeRecord_cur : (s.freezeRecord m c k).cur = s.cur := rfl
@[simp] theorem freezeRecord_freeCtr : (s.freezeRecord m c k).freeCtr = s.freeCtr := rfl
@[simp] theorem freezeRecord_nextId : (s.freezeRecord m c k).nextId = s.nextId := rfl
@[simp] theorem freezeRecord_tick : (s.freezeRecord m c k).tick = s.tick := rfl
@[simp] theorem freezeRecord_waves : (s.freezeRecord m c k).waves = s.waves := rfl
@[simp] theorem freezeRecord_gangs : (s.freezeRecord m c k).gangs = s.gangs := rfl
@[simp] theorem freezeRecord_launches : (s.freezeRecord m c k).launches = s.launches := rfl
@[simp] theorem freezeRecord_seq : (s.freezeRecord m c k).seq = s.seq := rfl
@[simp] theorem freezeRecord_deficits : (s.freezeRecord m c k).deficits = s.deficits := rfl
@[simp] theorem freezeRecord_lastServed : (s.freezeRecord m c k).lastServed = s.lastServed := rfl
@[simp] theorem freezeRecord_reservations : (s.freezeRecord m c k).reservations = s.reservations := rfl
@[simp] theorem freezeRecord_holders : (s.freezeRecord m c k).holders = s.holders := rfl
@[simp] theorem freezeRecord_systemAsids : (s.freezeRecord m c k).systemAsids = s.systemAsids := rfl
@[simp] theorem freezeRecord_cores : (s.freezeRecord m c k).cores = s.cores := rfl
@[simp] theorem freezeRecord_struck : (s.freezeRecord m c k).struck = s.struck := rfl
@[simp] theorem freezeRecord_clusterTlbs : (s.freezeRecord m c k).clusterTlbs = s.clusterTlbs := rfl
@[simp] theorem freezeRecord_homes : (s.freezeRecord m c k).homes = s.homes := rfl
@[simp] theorem freezeRecord_messages : (s.freezeRecord m c k).messages = s.messages := rfl
@[simp] theorem freezeRecord_releases : (s.freezeRecord m c k).releases = s.releases := rfl
@[simp] theorem freezeRecord_lineWrites : (s.freezeRecord m c k).lineWrites = s.lineWrites := rfl
@[simp] theorem freezeRecord_controllers : (s.freezeRecord m c k).controllers = s.controllers := rfl
@[simp] theorem freezeRecord_mem : (s.freezeRecord m c k).mem = s.mem := rfl
@[simp] theorem freezeRecord_regs : (s.freezeRecord m c k).regs = s.regs := rfl
@[simp] theorem freezeRecord_tlbInvs : (s.freezeRecord m c k).tlbInvs = s.tlbInvs := rfl
@[simp] theorem freezeRecord_reloads : (s.freezeRecord m c k).reloads = s.reloads := rfl
@[simp] theorem freezeRecord_publishes : (s.freezeRecord m c k).publishes = s.publishes := rfl
@[simp] theorem freezeRecord_hiddenFailed : (s.freezeRecord m c k).hiddenFailed = s.hiddenFailed := rfl
@[simp] theorem freezeRecord_tasks : (s.freezeRecord m c k).tasks = s.tasks := rfl
@[simp] theorem freezeRecord_readyOrder : (s.freezeRecord m c k).readyOrder = s.readyOrder := rfl
@[simp] theorem freezeRecord_versions : (s.freezeRecord m c k).versions = s.versions := rfl
@[simp] theorem freezeRecord_linkOps : (s.freezeRecord m c k).linkOps = s.linkOps := rfl
@[simp] theorem freezeRecord_releaseRecords : (s.freezeRecord m c k).releaseRecords = s.releaseRecords := rfl
@[simp] theorem freezeRecord_catDrops : (s.freezeRecord m c k).catDrops = s.catDrops := rfl
@[simp] theorem freezeRecord_heldParks : (s.freezeRecord m c k).heldParks = s.heldParks := rfl
@[simp] theorem freezeRecord_syscalls : (s.freezeRecord m c k).syscalls = s.syscalls := rfl
@[simp] theorem freezeRecord_freezeRecords : (s.freezeRecord m c k).freezeRecords = s.freezeRecords ++ [{ master := m, cause := c, code := k }] := rfl
@[simp] theorem freezeRecord_frozenMasters : (s.freezeRecord m c k).frozenMasters = s.frozenMasters := rfl
@[simp] theorem freezeRecord_interrupts : (s.freezeRecord m c k).interrupts = s.interrupts := rfl
@[simp] theorem freezeRecord_fabric : (s.freezeRecord m c k).fabric = s.fabric := rfl
@[simp] theorem freezeRecord_device : (s.freezeRecord m c k).device = s.device := rfl
@[simp] theorem freezeRecord_control : (s.freezeRecord m c k).control = s.control := rfl

end

section
variable (s : State) (w : Wave) (c k : Nat)

@[simp] theorem freezeWave_turns : (s.freezeWave w c k).turns = s.turns := rfl
@[simp] theorem freezeWave_focus : (s.freezeWave w c k).focus = s.focus := rfl
@[simp] theorem freezeWave_cur : (s.freezeWave w c k).cur = s.cur := rfl
@[simp] theorem freezeWave_freeCtr : (s.freezeWave w c k).freeCtr = s.freeCtr := rfl
@[simp] theorem freezeWave_nextId : (s.freezeWave w c k).nextId = s.nextId := rfl
@[simp] theorem freezeWave_tick : (s.freezeWave w c k).tick = s.tick := rfl
@[simp] theorem freezeWave_waves : (s.freezeWave w c k).waves = s.waves.map fun x => if x.id = w.id then { x with frozen := some (c, k) } else x := rfl
@[simp] theorem freezeWave_gangs : (s.freezeWave w c k).gangs = s.gangs := rfl
@[simp] theorem freezeWave_launches : (s.freezeWave w c k).launches = s.launches := rfl
@[simp] theorem freezeWave_seq : (s.freezeWave w c k).seq = s.seq := rfl
@[simp] theorem freezeWave_deficits : (s.freezeWave w c k).deficits = s.deficits := rfl
@[simp] theorem freezeWave_lastServed : (s.freezeWave w c k).lastServed = s.lastServed := rfl
@[simp] theorem freezeWave_reservations : (s.freezeWave w c k).reservations = s.reservations := rfl
@[simp] theorem freezeWave_holders : (s.freezeWave w c k).holders = s.holders := rfl
@[simp] theorem freezeWave_systemAsids : (s.freezeWave w c k).systemAsids = s.systemAsids := rfl
@[simp] theorem freezeWave_cores : (s.freezeWave w c k).cores = s.cores := rfl
@[simp] theorem freezeWave_struck : (s.freezeWave w c k).struck = s.struck := rfl
@[simp] theorem freezeWave_clusterTlbs : (s.freezeWave w c k).clusterTlbs = s.clusterTlbs := rfl
@[simp] theorem freezeWave_homes : (s.freezeWave w c k).homes = s.homes := rfl
@[simp] theorem freezeWave_messages : (s.freezeWave w c k).messages = s.messages := rfl
@[simp] theorem freezeWave_releases : (s.freezeWave w c k).releases = s.releases := rfl
@[simp] theorem freezeWave_lineWrites : (s.freezeWave w c k).lineWrites = s.lineWrites := rfl
@[simp] theorem freezeWave_controllers : (s.freezeWave w c k).controllers = s.controllers := rfl
@[simp] theorem freezeWave_mem : (s.freezeWave w c k).mem = s.mem := rfl
@[simp] theorem freezeWave_regs : (s.freezeWave w c k).regs = s.regs := rfl
@[simp] theorem freezeWave_tlbInvs : (s.freezeWave w c k).tlbInvs = s.tlbInvs := rfl
@[simp] theorem freezeWave_reloads : (s.freezeWave w c k).reloads = s.reloads := rfl
@[simp] theorem freezeWave_publishes : (s.freezeWave w c k).publishes = s.publishes := rfl
@[simp] theorem freezeWave_hiddenFailed : (s.freezeWave w c k).hiddenFailed = s.hiddenFailed := rfl
@[simp] theorem freezeWave_tasks : (s.freezeWave w c k).tasks = s.tasks := rfl
@[simp] theorem freezeWave_readyOrder : (s.freezeWave w c k).readyOrder = s.readyOrder := rfl
@[simp] theorem freezeWave_versions : (s.freezeWave w c k).versions = s.versions := rfl
@[simp] theorem freezeWave_linkOps : (s.freezeWave w c k).linkOps = s.linkOps := rfl
@[simp] theorem freezeWave_releaseRecords : (s.freezeWave w c k).releaseRecords = s.releaseRecords := rfl
@[simp] theorem freezeWave_catDrops : (s.freezeWave w c k).catDrops = s.catDrops := rfl
@[simp] theorem freezeWave_heldParks : (s.freezeWave w c k).heldParks = s.heldParks := rfl
@[simp] theorem freezeWave_syscalls : (s.freezeWave w c k).syscalls = s.syscalls := rfl
@[simp] theorem freezeWave_freezeRecords : (s.freezeWave w c k).freezeRecords = s.freezeRecords ++ [{ master := w.master, cause := c, code := k }] := rfl
@[simp] theorem freezeWave_frozenMasters : (s.freezeWave w c k).frozenMasters = s.frozenMasters := rfl
@[simp] theorem freezeWave_interrupts : (s.freezeWave w c k).interrupts = s.interrupts := rfl
@[simp] theorem freezeWave_fabric : (s.freezeWave w c k).fabric = s.fabric := rfl
@[simp] theorem freezeWave_device : (s.freezeWave w c k).device = s.device := rfl
@[simp] theorem freezeWave_control : (s.freezeWave w c k).control = s.control := rfl

end

section
variable (s : State)

@[simp] theorem fresh_1 : s.fresh.1 = s.nextId := rfl
@[simp] theorem takeFree_1 : s.takeFree.1 = s.freeCtr := rfl
@[simp] theorem fresh_turns : s.fresh.2.turns = s.turns := rfl
@[simp] theorem fresh_focus : s.fresh.2.focus = s.focus := rfl
@[simp] theorem fresh_cur : s.fresh.2.cur = s.cur := rfl
@[simp] theorem fresh_freeCtr : s.fresh.2.freeCtr = s.freeCtr := rfl
@[simp] theorem fresh_nextId : s.fresh.2.nextId = s.nextId + 1 := rfl
@[simp] theorem fresh_tick : s.fresh.2.tick = s.tick := rfl
@[simp] theorem fresh_waves : s.fresh.2.waves = s.waves := rfl
@[simp] theorem fresh_gangs : s.fresh.2.gangs = s.gangs := rfl
@[simp] theorem fresh_launches : s.fresh.2.launches = s.launches := rfl
@[simp] theorem fresh_seq : s.fresh.2.seq = s.seq := rfl
@[simp] theorem fresh_deficits : s.fresh.2.deficits = s.deficits := rfl
@[simp] theorem fresh_lastServed : s.fresh.2.lastServed = s.lastServed := rfl
@[simp] theorem fresh_reservations : s.fresh.2.reservations = s.reservations := rfl
@[simp] theorem fresh_holders : s.fresh.2.holders = s.holders := rfl
@[simp] theorem fresh_systemAsids : s.fresh.2.systemAsids = s.systemAsids := rfl
@[simp] theorem fresh_cores : s.fresh.2.cores = s.cores := rfl
@[simp] theorem fresh_struck : s.fresh.2.struck = s.struck := rfl
@[simp] theorem fresh_clusterTlbs : s.fresh.2.clusterTlbs = s.clusterTlbs := rfl
@[simp] theorem fresh_homes : s.fresh.2.homes = s.homes := rfl
@[simp] theorem fresh_messages : s.fresh.2.messages = s.messages := rfl
@[simp] theorem fresh_releases : s.fresh.2.releases = s.releases := rfl
@[simp] theorem fresh_lineWrites : s.fresh.2.lineWrites = s.lineWrites := rfl
@[simp] theorem fresh_controllers : s.fresh.2.controllers = s.controllers := rfl
@[simp] theorem fresh_mem : s.fresh.2.mem = s.mem := rfl
@[simp] theorem fresh_regs : s.fresh.2.regs = s.regs := rfl
@[simp] theorem fresh_tlbInvs : s.fresh.2.tlbInvs = s.tlbInvs := rfl
@[simp] theorem fresh_reloads : s.fresh.2.reloads = s.reloads := rfl
@[simp] theorem fresh_publishes : s.fresh.2.publishes = s.publishes := rfl
@[simp] theorem fresh_hiddenFailed : s.fresh.2.hiddenFailed = s.hiddenFailed := rfl
@[simp] theorem fresh_tasks : s.fresh.2.tasks = s.tasks := rfl
@[simp] theorem fresh_readyOrder : s.fresh.2.readyOrder = s.readyOrder := rfl
@[simp] theorem fresh_versions : s.fresh.2.versions = s.versions := rfl
@[simp] theorem fresh_linkOps : s.fresh.2.linkOps = s.linkOps := rfl
@[simp] theorem fresh_releaseRecords : s.fresh.2.releaseRecords = s.releaseRecords := rfl
@[simp] theorem fresh_catDrops : s.fresh.2.catDrops = s.catDrops := rfl
@[simp] theorem fresh_heldParks : s.fresh.2.heldParks = s.heldParks := rfl
@[simp] theorem fresh_syscalls : s.fresh.2.syscalls = s.syscalls := rfl
@[simp] theorem fresh_freezeRecords : s.fresh.2.freezeRecords = s.freezeRecords := rfl
@[simp] theorem fresh_frozenMasters : s.fresh.2.frozenMasters = s.frozenMasters := rfl
@[simp] theorem fresh_interrupts : s.fresh.2.interrupts = s.interrupts := rfl
@[simp] theorem fresh_fabric : s.fresh.2.fabric = s.fabric := rfl
@[simp] theorem fresh_device : s.fresh.2.device = s.device := rfl
@[simp] theorem fresh_control : s.fresh.2.control = s.control := rfl
@[simp] theorem takeFree_turns : s.takeFree.2.turns = s.turns := rfl
@[simp] theorem takeFree_focus : s.takeFree.2.focus = s.focus := rfl
@[simp] theorem takeFree_cur : s.takeFree.2.cur = s.cur := rfl
@[simp] theorem takeFree_freeCtr : s.takeFree.2.freeCtr = s.freeCtr + 1 := rfl
@[simp] theorem takeFree_nextId : s.takeFree.2.nextId = s.nextId := rfl
@[simp] theorem takeFree_tick : s.takeFree.2.tick = s.tick := rfl
@[simp] theorem takeFree_waves : s.takeFree.2.waves = s.waves := rfl
@[simp] theorem takeFree_gangs : s.takeFree.2.gangs = s.gangs := rfl
@[simp] theorem takeFree_launches : s.takeFree.2.launches = s.launches := rfl
@[simp] theorem takeFree_seq : s.takeFree.2.seq = s.seq := rfl
@[simp] theorem takeFree_deficits : s.takeFree.2.deficits = s.deficits := rfl
@[simp] theorem takeFree_lastServed : s.takeFree.2.lastServed = s.lastServed := rfl
@[simp] theorem takeFree_reservations : s.takeFree.2.reservations = s.reservations := rfl
@[simp] theorem takeFree_holders : s.takeFree.2.holders = s.holders := rfl
@[simp] theorem takeFree_systemAsids : s.takeFree.2.systemAsids = s.systemAsids := rfl
@[simp] theorem takeFree_cores : s.takeFree.2.cores = s.cores := rfl
@[simp] theorem takeFree_struck : s.takeFree.2.struck = s.struck := rfl
@[simp] theorem takeFree_clusterTlbs : s.takeFree.2.clusterTlbs = s.clusterTlbs := rfl
@[simp] theorem takeFree_homes : s.takeFree.2.homes = s.homes := rfl
@[simp] theorem takeFree_messages : s.takeFree.2.messages = s.messages := rfl
@[simp] theorem takeFree_releases : s.takeFree.2.releases = s.releases := rfl
@[simp] theorem takeFree_lineWrites : s.takeFree.2.lineWrites = s.lineWrites := rfl
@[simp] theorem takeFree_controllers : s.takeFree.2.controllers = s.controllers := rfl
@[simp] theorem takeFree_mem : s.takeFree.2.mem = s.mem := rfl
@[simp] theorem takeFree_regs : s.takeFree.2.regs = s.regs := rfl
@[simp] theorem takeFree_tlbInvs : s.takeFree.2.tlbInvs = s.tlbInvs := rfl
@[simp] theorem takeFree_reloads : s.takeFree.2.reloads = s.reloads := rfl
@[simp] theorem takeFree_publishes : s.takeFree.2.publishes = s.publishes := rfl
@[simp] theorem takeFree_hiddenFailed : s.takeFree.2.hiddenFailed = s.hiddenFailed := rfl
@[simp] theorem takeFree_tasks : s.takeFree.2.tasks = s.tasks := rfl
@[simp] theorem takeFree_readyOrder : s.takeFree.2.readyOrder = s.readyOrder := rfl
@[simp] theorem takeFree_versions : s.takeFree.2.versions = s.versions := rfl
@[simp] theorem takeFree_linkOps : s.takeFree.2.linkOps = s.linkOps := rfl
@[simp] theorem takeFree_releaseRecords : s.takeFree.2.releaseRecords = s.releaseRecords := rfl
@[simp] theorem takeFree_catDrops : s.takeFree.2.catDrops = s.catDrops := rfl
@[simp] theorem takeFree_heldParks : s.takeFree.2.heldParks = s.heldParks := rfl
@[simp] theorem takeFree_syscalls : s.takeFree.2.syscalls = s.syscalls := rfl
@[simp] theorem takeFree_freezeRecords : s.takeFree.2.freezeRecords = s.freezeRecords := rfl
@[simp] theorem takeFree_frozenMasters : s.takeFree.2.frozenMasters = s.frozenMasters := rfl
@[simp] theorem takeFree_interrupts : s.takeFree.2.interrupts = s.interrupts := rfl
@[simp] theorem takeFree_fabric : s.takeFree.2.fabric = s.fabric := rfl
@[simp] theorem takeFree_device : s.takeFree.2.device = s.device := rfl
@[simp] theorem takeFree_control : s.takeFree.2.control = s.control := rfl

end

/-! Counting an event changes registers only (R422). -/

section
variable (s : State) (u : CounterUnit) (src n : Nat)

theorem countOne_regs (k : Nat) : ∃ r, s.countOne u src n k = { s with regs := r } := by
  simp only [countOne]
  split
  · exact ⟨_, rfl⟩
  · exact ⟨s.regs, rfl⟩

/-- Counting changes registers and nothing else. -/
theorem count_regs : ∃ r, s.count u src n = { s with regs := r } := by
  have h : ∀ (l : List Nat) (t : State), (∃ r, t = { s with regs := r }) →
      ∃ r, l.foldl (fun s k => s.countOne u src n k) t = { s with regs := r } := by
    intro l
    induction l with
    | nil => exact fun _ ht => ht
    | cons k l ih =>
      rintro t ⟨r, rfl⟩
      obtain ⟨r', h'⟩ := countOne_regs { s with regs := r } u src n k
      exact ih _ ⟨r', h'⟩
  exact h _ s ⟨s.regs, rfl⟩

@[simp] theorem count_turns : (s.count u src n).turns = s.turns := by
  obtain ⟨r, h⟩ := count_regs s u src n; rw [h]
@[simp] theorem count_focus : (s.count u src n).focus = s.focus := by
  obtain ⟨r, h⟩ := count_regs s u src n; rw [h]
@[simp] theorem count_cur : (s.count u src n).cur = s.cur := by
  obtain ⟨r, h⟩ := count_regs s u src n; rw [h]
@[simp] theorem count_freeCtr : (s.count u src n).freeCtr = s.freeCtr := by
  obtain ⟨r, h⟩ := count_regs s u src n; rw [h]
@[simp] theorem count_nextId : (s.count u src n).nextId = s.nextId := by
  obtain ⟨r, h⟩ := count_regs s u src n; rw [h]
@[simp] theorem count_tick : (s.count u src n).tick = s.tick := by
  obtain ⟨r, h⟩ := count_regs s u src n; rw [h]
@[simp] theorem count_waves : (s.count u src n).waves = s.waves := by
  obtain ⟨r, h⟩ := count_regs s u src n; rw [h]
@[simp] theorem count_gangs : (s.count u src n).gangs = s.gangs := by
  obtain ⟨r, h⟩ := count_regs s u src n; rw [h]
@[simp] theorem count_launches : (s.count u src n).launches = s.launches := by
  obtain ⟨r, h⟩ := count_regs s u src n; rw [h]
@[simp] theorem count_seq : (s.count u src n).seq = s.seq := by
  obtain ⟨r, h⟩ := count_regs s u src n; rw [h]
@[simp] theorem count_deficits : (s.count u src n).deficits = s.deficits := by
  obtain ⟨r, h⟩ := count_regs s u src n; rw [h]
@[simp] theorem count_lastServed : (s.count u src n).lastServed = s.lastServed := by
  obtain ⟨r, h⟩ := count_regs s u src n; rw [h]
@[simp] theorem count_reservations : (s.count u src n).reservations = s.reservations := by
  obtain ⟨r, h⟩ := count_regs s u src n; rw [h]
@[simp] theorem count_holders : (s.count u src n).holders = s.holders := by
  obtain ⟨r, h⟩ := count_regs s u src n; rw [h]
@[simp] theorem count_systemAsids : (s.count u src n).systemAsids = s.systemAsids := by
  obtain ⟨r, h⟩ := count_regs s u src n; rw [h]
@[simp] theorem count_cores : (s.count u src n).cores = s.cores := by
  obtain ⟨r, h⟩ := count_regs s u src n; rw [h]
@[simp] theorem count_struck : (s.count u src n).struck = s.struck := by
  obtain ⟨r, h⟩ := count_regs s u src n; rw [h]
@[simp] theorem count_clusterTlbs : (s.count u src n).clusterTlbs = s.clusterTlbs := by
  obtain ⟨r, h⟩ := count_regs s u src n; rw [h]
@[simp] theorem count_homes : (s.count u src n).homes = s.homes := by
  obtain ⟨r, h⟩ := count_regs s u src n; rw [h]
@[simp] theorem count_messages : (s.count u src n).messages = s.messages := by
  obtain ⟨r, h⟩ := count_regs s u src n; rw [h]
@[simp] theorem count_releases : (s.count u src n).releases = s.releases := by
  obtain ⟨r, h⟩ := count_regs s u src n; rw [h]
@[simp] theorem count_lineWrites : (s.count u src n).lineWrites = s.lineWrites := by
  obtain ⟨r, h⟩ := count_regs s u src n; rw [h]
@[simp] theorem count_controllers : (s.count u src n).controllers = s.controllers := by
  obtain ⟨r, h⟩ := count_regs s u src n; rw [h]
@[simp] theorem count_mem : (s.count u src n).mem = s.mem := by
  obtain ⟨r, h⟩ := count_regs s u src n; rw [h]
@[simp] theorem count_tlbInvs : (s.count u src n).tlbInvs = s.tlbInvs := by
  obtain ⟨r, h⟩ := count_regs s u src n; rw [h]
@[simp] theorem count_reloads : (s.count u src n).reloads = s.reloads := by
  obtain ⟨r, h⟩ := count_regs s u src n; rw [h]
@[simp] theorem count_publishes : (s.count u src n).publishes = s.publishes := by
  obtain ⟨r, h⟩ := count_regs s u src n; rw [h]
@[simp] theorem count_hiddenFailed : (s.count u src n).hiddenFailed = s.hiddenFailed := by
  obtain ⟨r, h⟩ := count_regs s u src n; rw [h]
@[simp] theorem count_tasks : (s.count u src n).tasks = s.tasks := by
  obtain ⟨r, h⟩ := count_regs s u src n; rw [h]
@[simp] theorem count_readyOrder : (s.count u src n).readyOrder = s.readyOrder := by
  obtain ⟨r, h⟩ := count_regs s u src n; rw [h]
@[simp] theorem count_versions : (s.count u src n).versions = s.versions := by
  obtain ⟨r, h⟩ := count_regs s u src n; rw [h]
@[simp] theorem count_linkOps : (s.count u src n).linkOps = s.linkOps := by
  obtain ⟨r, h⟩ := count_regs s u src n; rw [h]
@[simp] theorem count_releaseRecords : (s.count u src n).releaseRecords = s.releaseRecords := by
  obtain ⟨r, h⟩ := count_regs s u src n; rw [h]
@[simp] theorem count_catDrops : (s.count u src n).catDrops = s.catDrops := by
  obtain ⟨r, h⟩ := count_regs s u src n; rw [h]
@[simp] theorem count_heldParks : (s.count u src n).heldParks = s.heldParks := by
  obtain ⟨r, h⟩ := count_regs s u src n; rw [h]
@[simp] theorem count_syscalls : (s.count u src n).syscalls = s.syscalls := by
  obtain ⟨r, h⟩ := count_regs s u src n; rw [h]
@[simp] theorem count_freezeRecords : (s.count u src n).freezeRecords = s.freezeRecords := by
  obtain ⟨r, h⟩ := count_regs s u src n; rw [h]
@[simp] theorem count_frozenMasters : (s.count u src n).frozenMasters = s.frozenMasters := by
  obtain ⟨r, h⟩ := count_regs s u src n; rw [h]
@[simp] theorem count_interrupts : (s.count u src n).interrupts = s.interrupts := by
  obtain ⟨r, h⟩ := count_regs s u src n; rw [h]
@[simp] theorem count_fabric : (s.count u src n).fabric = s.fabric := by
  obtain ⟨r, h⟩ := count_regs s u src n; rw [h]
@[simp] theorem count_device : (s.count u src n).device = s.device := by
  obtain ⟨r, h⟩ := count_regs s u src n; rw [h]
@[simp] theorem count_control : (s.count u src n).control = s.control := by
  obtain ⟨r, h⟩ := count_regs s u src n; rw [h]

end

end State
end Sys2Proof.Machine
end

