-- ==== Sys2Proof/Tests/Slice0.lean ====
section
/-! SUPPORT. Tests: ill-formed terms, words written out from the encoding tables of the spec, values of its tables, one step
of an instruction on a small state, and for every statement with hypotheses a state and operands that meet them. -/

namespace Sys2Proof.Tests

open Sys2Proof Sys2Proof.Machine

set_option Elab.async false

/-! ## Ill-formed terms, one for each check of WellFormed -/

theorem test_wf_illegal : (Instr.illegal 0x02000000#32).WellFormed = false := by decide
theorem test_wf_li : (Instr.li true (.v 1) 0).WellFormed = false := by decide
theorem test_wf_add : (Instr.add true (.v 1) (.v 2) (.v 3)).WellFormed = false := by decide
theorem test_wf_not : (Instr.not true (.s 0) (.v 2)).WellFormed = false := by decide
theorem test_wf_cvt : (Instr.cvt true .fp32 (.v 1) (.v 2)).WellFormed = false := by decide
theorem test_wf_qpush : (Instr.qpush true (.s 1) (.v 2) 0).WellFormed = false := by decide
theorem test_wf_qstat : (Instr.qstat true (.s 1) 0).WellFormed = false := by decide
theorem test_wf_fence :
    (Instr.fence { net := false, eng := false, scr := false, st := false, ld := false } .wg).WellFormed = false := by decide
theorem test_wf_l2Fill : (Instr.l2Fill 0x400000000 0).WellFormed = false := by decide
theorem test_wf_expandedRead : (Instr.expandedRead 0 0).WellFormed = false := by decide
theorem test_wf_pageWalk : (Instr.pageWalk 0 0 (2 ^ 55)).WellFormed = false := by decide
theorem test_wf_mcpgcmdFixed : (Instr.mcpgcmdFixed 0 0 0 []).WellFormed = false := by decide
theorem test_wf_marginReplan : (Instr.marginReplan []).WellFormed = false := by decide

/-! ## Words written out from the encoding: opcode, nw, d, a, b (R40 to R43), the functions in d and b -/

/-- Opcode 0x40: LD v1, [s0 + v0] (R42's example). -/
theorem test_word_ld : decodeWord 0b1000000_0_00000001_10000000_00000000#32 = .ok (.ld (.v 1) (.s 0) (.v 0)) := by rfl
/-- Opcode 0x10, nw = 1: ADD _, v2, v3. -/
theorem test_word_add : decodeWord 0b0010000_1_00000000_00000010_00000011#32 = .ok (.add true (.v 0) (.v 2) (.v 3)) := by rfl
/-- Opcode 0x12: MUL v4, l0, v2. -/
theorem test_word_mul : decodeWord 0b0010010_0_00000100_11000000_00000010#32 = .ok (.mul false (.v 4) (.l 0) (.v 2)) := by rfl
/-- Opcode 0x25: CMP.LT p1, v3, v4. -/
theorem test_word_cmp : decodeWord 0b0100101_0_00000100_00000011_00010010#32 = .ok (.cmp false 1 .lt (.v 3) (.v 4)) := by rfl
/-- Opcode 0x2B: SQRT v5, v6. -/
theorem test_word_sqrt : decodeWord 0b0101011_0_00000101_00000110_00010010#32 = .ok (.sqrt false (.v 5) (.v 6)) := by rfl
/-- Opcode 0x03: LI v3, -5. -/
theorem test_word_li : decodeWord 0b0000011_0_00000011_1111111111111011#32 = .ok (.li false (.v 3) 0xFFFB#16) := by rfl
/-- Opcode 0x04: LIH s1, 0x1234. -/
theorem test_word_lih : decodeWord 0b0000100_0_10000001_0001001000110100#32 = .ok (.lih false (.s 1) 0x1234#16) := by rfl
/-- Opcode 0x05: ADDI s2, -1. -/
theorem test_word_addi : decodeWord 0b0000101_0_10000010_1111111111111111#32 = .ok (.addi false (.s 2) 0xFFFF#16) := by rfl
/-- Opcode 0x2D, function 1.01: PACK.IH v4, v5, 1. -/
theorem test_word_pack : decodeWord 0x5A040551#32 = .ok (.packIh false 1 (.v 4) (.v 5)) := by rfl
/-- Opcode 0x2A: TWOPROD v10, v1, v2. -/
theorem test_word_twoprod : decodeWord 0x540A0102#32 = .ok (.twoprod false (.v 10) (.v 1) (.v 2)) := by rfl
/-- Opcode 0x02: MODE 0xA05A. -/
theorem test_word_mode : decodeWord 0x0400A05A#32 = .ok (.mode 0xA05A#16) := by rfl
/-- Opcode 0x0E: TRAP 7. -/
theorem test_word_trap : decodeWord 0b0001110_0_00000000_0000000000000111#32 = .ok (.trap 7) := by rfl
/-- Opcode 0x77: CSRR s10, 0. -/
theorem test_word_csrr : decodeWord 0b1110111_0_10001010_00000000_00000000#32 = .ok (.csrr false (.s 10) 0) := by rfl
/-- Opcode 0x47: FENCE dev, ld, st. -/
theorem test_word_fence : decodeWord 0x8E00000E#32 =
    .ok (.fence { net := false, eng := false, scr := false, st := true, ld := true } .dev) := by rfl
/-- Opcode 0x00, and a reserved opcode, are no instruction (R57). -/
theorem test_word_illegal : decodeWord 0xFE000001#32 = .ok (.illegal 0xFE000001#32) := by rfl
/-- Bits above the class select of a function that the card reserves are no instruction (R47, R58). -/
theorem test_word_nop_bits : (decodeWord 0x02000001#32).toOption = none := by decide

/-- Opcodes 0x06 to 0x0D: BR, JMP, CALL and JPT with a 25-bit offset in [24:0], RET, JTAB, EXIT, YIELD (R41, R56). -/
theorem test_words_jumps :
    decodeWord 0b0000110_0000000000000000000000101#32 = .ok (.br 5)
    ∧ decodeWord 0b0000111_1111111111111111111111110#32 = .ok (.jmp 0x1FFFFFE)
    ∧ decodeWord 0b0001000_1000000000000000000000000#32 = .ok (.call 0x1000000)
    ∧ decodeWord 0b0001001_0000000000000000000000001#32 = .ok (.jpt 1)
    ∧ decodeWord 0b0001010_0_00000000_11000100_00000000#32 = .ok (.ret .zero)
    ∧ decodeWord 0b0001011_0_00000000_00000100_10000010#32 = .ok (.jtab (.v 4) (.s 2))
    ∧ decodeWord 0b0001100_0_00000000_00000000_00000000#32 = .ok (.exit)
    ∧ decodeWord 0b0001101_0_00000000_00000000_00000000#32 = .ok (.yield)
    ∧ decodeWord 0b0001111_0_00000010_00001000_10000011#32 = .ok (.sysc (.v 2) (.v 8) (.s 3)) := by
  exact ⟨rfl, rfl, rfl, rfl, rfl, rfl, rfl, rfl, rfl⟩

/-- Opcodes 0x14, 0x18, 0x21, 0x24, 0x26, 0x27 (R56): MAD, ADDMAX, ROL, BFI, DIV, REM; specials and predicates as sources (R43, R44). -/
theorem test_words_alu :
    decodeWord 0b0010100_0_00000001_00000010_00000011#32 = .ok (.mad false (.v 1) (.v 2) (.v 3))
    ∧ decodeWord 0b0011000_0_00000001_11000111_11000101#32 = .ok (.addmax false (.v 1) .ones .lane)
    ∧ decodeWord 0b0100001_1_00000000_11000110_11011111#32 = .ok (.rol true (.v 0) .wave (.special .devid))
    ∧ decodeWord 0b0100100_0_01111111_11001111_10111111#32 = .ok (.bfi false (.v 127) (.p 7) (.s 63))
    ∧ decodeWord 0b0100110_0_11001010_11010000_11011101#32 = .ok (.div false (.p 2) (.special .wg) (.special .task))
    ∧ decodeWord 0b0100111_0_00000001_11000011_11000100#32 = .ok (.rem false (.v 1) (.l 3) .zero) := by
  set_option maxRecDepth 4000 in exact ⟨rfl, rfl, rfl, rfl, rfl, rfl⟩

/-- Opcodes 0x2B and 0x2C (R58): BREV is function 0x06, COS2PI 0x16, CLASS 0x1C; CVT holds the code of the source type (bf16 is 10). -/
theorem test_words_unary :
    decodeWord 0b0101011_0_00000001_00000010_00000110#32 = .ok (.brev false (.v 1) (.v 2))
    ∧ decodeWord 0b0101011_0_00000001_00000010_00010110#32 = .ok (.cos2pi false (.v 1) (.v 2))
    ∧ decodeWord 0b0101011_0_00000001_00000010_00011100#32 = .ok (.class false (.v 1) (.v 2))
    ∧ decodeWord 0b0101100_0_00000001_00000010_00001010#32 = .ok (.cvt false .bf16 (.v 1) (.v 2))
    ∧ decodeWord 0b0101101_0_00000001_00000010_01000011#32 = .ok (.packIb false 3 (.v 1) (.v 2))
    ∧ decodeWord 0b0101101_0_00000001_00000010_00000111#32 = .ok (.packXn false 7 (.v 1) (.v 2)) := by
  exact ⟨rfl, rfl, rfl, rfl, rfl, rfl⟩

/-- Opcodes 0x30 to 0x39 (R56, R58): SHFL, BALLOT, VOTE.ALL, MATCH, REDUCE.MAX, SCAN.ADD.X, BCAST. -/
theorem test_words_lanes :
    decodeWord 0b0110000_0_00000001_00000010_00000011#32 = .ok (.shfl false (.v 1) (.v 2) (.v 3))
    ∧ decodeWord 0b0110011_0_00000001_00000010_00000011#32 = .ok (.shflx false (.v 1) (.v 2) (.v 3))
    ∧ decodeWord 0b0110100_0_10000001_11001001_00000000#32 = .ok (.ballot false (.s 1) (.p 1))
    ∧ decodeWord 0b0110101_0_10000001_00000010_00000001#32 = .ok (.voteAll false (.s 1) (.v 2))
    ∧ decodeWord 0b0110110_0_00000001_00000010_00000000#32 = .ok (.match_ false (.v 1) (.v 2))
    ∧ decodeWord 0b0110111_0_10000001_00000010_00000010#32 = .ok (.reduceMax false (.s 1) (.v 2))
    ∧ decodeWord 0b0111000_0_00000001_00000010_00001000#32 = .ok (.scanAdd false true (.v 1) (.v 2))
    ∧ decodeWord 0b0111000_0_00000001_00000010_00000101#32 = .ok (.scanXor false false (.v 1) (.v 2))
    ∧ decodeWord 0b0111001_0_00000001_00000010_10000000#32 = .ok (.bcast false (.v 1) (.v 2) (.s 0)) := by
  exact ⟨rfl, rfl, rfl, rfl, rfl, rfl, rfl, rfl, rfl⟩

/-- Opcodes 0x41 to 0x4A (R56, R58). -/
theorem test_words_memory :
    decodeWord 0b1000001_0_00000001_10000000_00000010#32 = .ok (.st (.v 1) (.s 0) (.v 2))
    ∧ decodeWord 0b1000010_0_00000001_10000000_00000010#32 = .ok (.lds (.v 1) (.s 0) (.v 2))
    ∧ decodeWord 0b1000011_0_00000001_10000000_00000010#32 = .ok (.sts (.v 1) (.s 0) (.v 2))
    ∧ decodeWord 0b1000100_0_00000010_10000000_00000100#32 = .ok (.stm (.v 2) (.s 0) (.v 4))
    ∧ decodeWord 0b1000101_0_00000001_10000000_00000010#32 = .ok (.ldacq (.v 1) (.s 0) (.v 2))
    ∧ decodeWord 0b1000110_0_00000001_10000000_00000010#32 = .ok (.strel (.v 1) (.s 0) (.v 2))
    ∧ decodeWord 0b1000111_0_00000000_00000000_01100011#32 = .ok (.fence ⟨true, true, false, false, false⟩ .pod)
    ∧ decodeWord 0b1001000_0_00000000_10000010_00000000#32 = .ok (.pref (.s 2))
    ∧ decodeWord 0b1001000_0_00000000_10000010_00000001#32 = .ok (.clean (.s 2))
    ∧ decodeWord 0b1001000_0_00000000_10000010_00000010#32 = .ok (.inval (.s 2))
    ∧ decodeWord 0b1001001_0_00000000_10000010_00000000#32 = .ok (.monitor (.s 2))
    ∧ decodeWord 0b1001010_0_00000000_00000000_00000000#32 = .ok (.mwait) := by
  exact ⟨rfl, rfl, rfl, rfl, rfl, rfl, rfl, rfl, rfl, rfl, rfl, rfl⟩

/-- Opcodes 0x4C to 0x55 (R56, R58): ATCAS has no b; the functions of the combiner group. -/
theorem test_words_atomics :
    decodeWord 0b1001100_0_00000001_00000010_00000100#32 = .ok (.atadd false (.v 1) (.v 2) (.v 4))
    ∧ decodeWord 0b1001111_1_00000000_00000010_00000100#32 = .ok (.atand true (.v 0) (.v 2) (.v 4))
    ∧ decodeWord 0b1010010_0_00000001_00000010_00000100#32 = .ok (.atxchg false (.v 1) (.v 2) (.v 4))
    ∧ decodeWord 0b1010011_0_00000001_00000010_00000000#32 = .ok (.atcas false (.v 1) (.v 2))
    ∧ decodeWord 0b1010100_0_00000010_00000100_00000110#32 = .ok (.comb false (.v 2) (.v 4) (.v 6))
    ∧ decodeWord 0b1010101_0_00000010_00000000_00000000#32 = .ok (.cmbarg (.v 2))
    ∧ decodeWord 0b1010101_0_00000000_00000010_00000001#32 = .ok (.cmbreply (.v 2))
    ∧ decodeWord 0b1010101_0_00000000_00000000_00000010#32 = .ok (.cmbend) := by
  exact ⟨rfl, rfl, rfl, rfl, rfl, rfl, rfl, rfl⟩

/-- Opcodes 0x56 to 0x5B (R56): the b field of the queue instructions names the queue. -/
theorem test_words_barriers :
    decodeWord 0b1010110_0_10000001_10000010_10000011#32 = .ok (.arrive false (.s 1) (.s 2) (.s 3))
    ∧ decodeWord 0b1010111_0_00000000_10000010_10000011#32 = .ok (.waitb (.s 2) (.s 3))
    ∧ decodeWord 0b1011000_0_00000000_10000010_10000011#32 = .ok (.bar (.s 2) (.s 3))
    ∧ decodeWord 0b1011001_0_10000001_00000010_00001111#32 = .ok (.qpush false (.s 1) (.v 2) 15)
    ∧ decodeWord 0b1011010_0_00000010_00000000_00000011#32 = .ok (.qpop (.v 2) 3)
    ∧ decodeWord 0b1011011_0_10000001_00000000_00000011#32 = .ok (.qstat false (.s 1) 3) := by
  exact ⟨rfl, rfl, rfl, rfl, rfl, rfl⟩

/-- Opcodes 0x60 to 0x69 (R56, R58). -/
theorem test_words_engine :
    decodeWord 0b1100000_0_10000010_10000100_10000110#32 = .ok (.copy false (.s 2) (.s 4) (.s 6))
    ∧ decodeWord 0b1100001_1_00000000_10000100_10000110#32 = .ok (.copym true (.v 0) (.s 4) (.s 6))
    ∧ decodeWord 0b1100010_0_00000000_10000001_10000010#32 = .ok (.engwait (.s 1) (.s 2))
    ∧ decodeWord 0b1100011_0_00000000_10000010_00000000#32 = .ok (.sleepuntil (.s 2))
    ∧ decodeWord 0b1100100_0_00000000_10000010_00000000#32 = .ok (.publish (.s 2))
    ∧ decodeWord 0b1100101_0_10000010_10000100_10000110#32 = .ok (.quant2 false (.s 2) (.s 4) (.s 6))
    ∧ decodeWord 0b1100110_0_00000000_10000100_10000110#32 = .ok (.mma (.s 4) (.s 6))
    ∧ decodeWord 0b1100111_0_00000000_10000001_00000000#32 = .ok (.accz (.s 1))
    ∧ decodeWord 0b1100111_0_00000010_10000001_00000001#32 = .ok (.accrd (.v 2) (.s 1))
    ∧ decodeWord 0b1100111_0_00000010_10000001_00000010#32 = .ok (.accwr (.v 2) (.s 1))
    ∧ decodeWord 0b1100111_0_10000010_10000001_00000011#32 = .ok (.acccvt (.s 2) (.s 1))
    ∧ decodeWord 0b1101000_0_00000000_10000100_00000000#32 = .ok (.cbld (.s 4))
    ∧ decodeWord 0b1101000_0_00000000_10000100_00000001#32 = .ok (.rotld (.s 4))
    ∧ decodeWord 0b1101000_0_00000010_00000100_00000010#32 = .ok (.rot (.v 2) (.v 4))
    ∧ decodeWord 0b1101001_0_10000010_00000000_00000000#32 = .ok (.clockTick false (.s 2))
    ∧ decodeWord 0b1101001_0_10000010_00000000_00000011#32 = .ok (.clockPod false (.s 2)) := by
  exact ⟨rfl, rfl, rfl, rfl, rfl, rfl, rfl, rfl, rfl, rfl, rfl, rfl, rfl, rfl, rfl, rfl⟩

/-- Opcodes 0x70 to 0x74 (R56, R58). -/
theorem test_words_links :
    decodeWord 0b1110000_0_10000001_10000100_00000000#32 = .ok (.segopen false (.s 1) (.s 4))
    ∧ decodeWord 0b1110000_0_00000000_10000100_00000001#32 = .ok (.segseal (.s 4))
    ∧ decodeWord 0b1110000_0_10000001_10000100_00000010#32 = .ok (.segref false (.s 1) (.s 4))
    ∧ decodeWord 0b1110000_0_00000000_10000100_00000011#32 = .ok (.segdrop (.s 4))
    ∧ decodeWord 0b1110001_0_10000010_10000100_10001000#32 = .ok (.link false (.s 2) (.s 4) (.s 8))
    ∧ decodeWord 0b1110010_1_00000000_10000100_10001000#32 = .ok (.unlink true (.v 0) (.s 4) (.s 8))
    ∧ decodeWord 0b1110011_0_10000010_10000100_00000000#32 = .ok (.ctxpin false (.s 2) (.s 4))
    ∧ decodeWord 0b1110011_0_00000000_00000000_00000001#32 = .ok (.ctxunpin)
    ∧ decodeWord 0b1110100_0_10000001_10000100_00000000#32 = .ok (.tkpost false (.s 1) (.s 4))
    ∧ decodeWord 0b1110100_0_00000000_00000000_00000001#32 = .ok (.tkdone)
    ∧ decodeWord 0b1110100_0_10000010_10000001_00000010#32 = .ok (.tkpull (.s 2) (.s 1))
    ∧ decodeWord 0b1110100_0_10000001_10000100_00000011#32 = .ok (.tkcancel false (.s 1) (.s 4))
    ∧ decodeWord 0b1110100_0_10000001_10000100_00000100#32 = .ok (.tkpark false (.s 1) (.s 4))
    ∧ decodeWord 0b1110100_0_10000001_10000100_00000101#32 = .ok (.tkresume false (.s 1) (.s 4)) := by
  exact ⟨rfl, rfl, rfl, rfl, rfl, rfl, rfl, rfl, rfl, rfl, rfl, rfl, rfl, rfl⟩

/-- Opcodes 0x75 to 0x77 (R56, R58): function bit 3 is the ordered class. -/
theorem test_words_net :
    decodeWord 0b1110101_0_00000010_10000100_00000000#32 = .ok (.nput (.v 2) (.s 4))
    ∧ decodeWord 0b1110101_0_00000010_10000100_00001000#32 = .ok (.nputOrd (.v 2) (.s 4))
    ∧ decodeWord 0b1110101_0_00000010_10000100_00000001#32 = .ok (.nget (.v 2) (.s 4))
    ∧ decodeWord 0b1110101_0_00000010_10000100_00001010#32 = .ok (.nsendOrd (.v 2) (.s 4))
    ∧ decodeWord 0b1110101_0_00000010_10000001_00000011#32 = .ok (.nrecv (.v 2) (.s 1))
    ∧ decodeWord 0b1110101_0_00000000_00000000_00000100#32 = .ok (.nfence)
    ∧ decodeWord 0b1110110_0_10000010_10000100_10000110#32 = .ok (.launch false (.s 2) (.s 4) (.s 6))
    ∧ decodeWord 0b1110111_0_10000001_00000000_00000001#32 = .ok (.csrw (.s 1) 0)
    ∧ decodeWord 0b1110111_0_00000000_00000000_00010000#32 = .ok (.trapretResume)
    ∧ decodeWord 0b1110111_0_00000000_00000000_00010010#32 = .ok (.trapretExit) := by
  exact ⟨rfl, rfl, rfl, rfl, rfl, rfl, rfl, rfl, rfl, rfl⟩

/-- Reserved functions are no instruction: NGET with the ordered bit, FENCE with no path, CMP with condition 15, a PACK position
beyond its range, a SCAN operation of 6 (R58). -/
theorem test_words_reserved :
    [0b1110101_0_00000010_10000100_00001001#32, 0b1000111_0_00000000_00000000_00000011#32, 0b0100101_0_00000001_00000010_00001111#32, 0b0101101_0_00000001_00000010_01000100#32, 0b0111000_0_00000001_00000010_00000110#32].all
      (fun x => (decodeWord x).toOption.isNone) = true := by decide

/-- custom-0 with funct7 0: cdm.launch x5, x6, x7 is funct3 0, cdm.lstat x5, x6 is funct3 1; another funct3, or another
funct7, is none of these (R285). -/
theorem test_words_cdm :
    decodeCdm 0b0000000_00111_00110_000_00101_0001011#32 = some (.cdmLaunch 7 6 5)
    ∧ decodeCdm 0b0000000_00111_00110_001_00101_0001011#32 = some (.cdmLstat 7 6 5)
    ∧ decodeCdm 0b0000000_00111_00110_010_00101_0001011#32 = none
    ∧ decodeCdm 0b0000001_00111_00110_000_00101_0001011#32 = none := by decide

/-! ## Words that the spec writes out beside its rules -/

/-- A word and the instruction that it stands for. -/
def reads (x : Word × Instr) : Bool := (decodeWord x.1).toOption == some x.2

/-- R129, R131, R139. -/
theorem test_worked_homes :
    ([(0x98020004#32, .atadd false (.v 2) (.v 0) (.v 4)),
     (0x99008407#32, .atadd true (.v 0) (.s 4) (.v 7)),
     (0x9C8A8486#32, .atmax false (.s 10) (.s 4) (.s 6)),
     (0xA6088200#32, .atcas false (.v 8) (.s 2)),
     (0xA50002C7#32, .atxchg true (.v 0) (.v 2) .ones),
     (0xA80A860C#32, .comb false (.v 10) (.s 6) (.v 12)),
     (0xA9008688#32, .comb true (.v 0) (.s 6) (.s 8)),
     (0xAA000000#32, .cmbarg (.v 0)),
     (0xAA000601#32, .cmbreply (.v 6)),
     (0xAA000002#32, .cmbend)] : List (Word × Instr)).all reads = true := by decide +kernel

/-- R152 to R165. -/
theorem test_worked_access :
    ([(0x82028600#32, .st (.v 2) (.s 6) (.v 0)),
     (0x808480C4#32, .ld (.s 4) (.s 0) .zero),
     (0x88068603#32, .stm (.v 6) (.s 6) (.v 3)),
     (0x8A8A84C4#32, .ldacq (.s 10) (.s 4) .zero),
     (0x8C8B84C4#32, .strel (.s 11) (.s 4) .zero),
     (0x8E000009#32, .fence ⟨false, false, false, true, false⟩ .gang),
     (0x90008400#32, .pref (.s 4)),
     (0x90000201#32, .clean (.v 2)),
     (0x90008402#32, .inval (.s 4)),
     (0x92008400#32, .monitor (.s 4)),
     (0x94000000#32, .mwait),
     (0x84048200#32, .lds (.v 4) (.s 2) (.v 0)),
     (0x86058200#32, .sts (.v 5) (.s 2) (.v 0)),
     (0xAC8C8385#32, .arrive false (.s 12) (.s 3) (.s 5)),
     (0xAD0083C4#32, .arrive true (.v 0) (.s 3) .zero),
     (0xAE00838C#32, .waitb (.s 3) (.s 12)),
     (0xB2870903#32, .qpush false (.s 7) (.v 9) 3),
     (0xB4090003#32, .qpop (.v 9) 3),
     (0xB6880003#32, .qstat false (.s 8) 3)] : List (Word × Instr)).all reads = true := by decide +kernel

/-- R199 to R205, R223 to R228. -/
theorem test_worked_engine :
    ([(0xC09490C4#32, .copy false (.s 20) (.s 16) .zero),
     (0xC3009082#32, .copym true (.v 0) (.s 16) (.s 2)),
     (0xCA9692C4#32, .quant2 false (.s 22) (.s 18) .zero),
     (0xC6009400#32, .sleepuntil (.s 20)),
     (0xC40083C4#32, .engwait (.s 3) .zero),
     (0xC8008500#32, .publish (.s 5)),
     (0xCE008400#32, .accz (.s 4)),
     (0xCE088401#32, .accrd (.v 8) (.s 4)),
     (0xCE088402#32, .accwr (.v 8) (.s 4)),
     (0xCE868403#32, .acccvt (.s 6) (.s 4)),
     (0xD0008A00#32, .cbld (.s 10)),
     (0xD0008A01#32, .rotld (.s 10)),
     (0xD0020402#32, .rot (.v 2) (.v 4))] : List (Word × Instr)).all reads = true := by decide +kernel

/-- R232 to R259. -/
theorem test_worked_lanes :
    ([(0x06C900FF#32, .li false (.p 1) 255),
     (0x4A860325#32, .cmp false 2 .ge (.v 3) (.s 6)),
     (0x56898804#32, .clz false (.s 9) (.s 8)),
     (0x6E8C0500#32, .reduceAdd false (.s 12) (.v 5)),
     (0x70060500#32, .scanAdd false false (.v 6) (.v 5)),
     (0x62070582#32, .shflup false (.v 7) (.v 5) (.s 2)),
     (0x26040102#32, .mulh false (.v 4) (.v 1) (.v 2)),
     (0x2E070583#32, .addmin false (.v 7) (.v 5) (.s 3)),
     (0x3C020381#32, .sha false (.v 2) (.v 3) (.s 1)),
     (0x3E0A0B84#32, .fshl false (.v 10) (.v 11) (.s 4)),
     (0x44030102#32, .sel false (.v 3) (.v 1) (.v 2)),
     (0x46020385#32, .bfx false (.v 2) (.v 3) (.s 5)),
     (0x500A0102#32, .twosum false (.v 10) (.v 1) (.v 2)),
     (0x52848182#32, .fasttwosum false (.s 4) (.s 1) (.s 2)),
     (0x56030210#32, .rcp false (.v 3) (.v 2)),
     (0x56868613#32, .exp2 false (.s 6) (.s 6)),
     (0x58040108#32, .cvt false .fp32 (.v 4) (.v 1)),
     (0x5809060B#32, .cvt false .fp8e4 (.v 9) (.v 6)),
     (0x58010211#32, .cvt false .pair (.v 1) (.v 2)),
     (0x5A010213#32, .packXb false 3 (.v 1) (.v 2))] : List (Word × Instr)).all reads = true := by decide +kernel

/-- R276, R282, R297, R300, R336, R342, R343, R351 to R360, R372 to R376, R391. -/
theorem test_worked_system :
    ([(0x16000388#32, .jtab (.v 3) (.s 8)),
     (0xEC9490C4#32, .launch false (.s 20) (.s 16) .zero),
     (0xB000C7C4#32, .bar .ones .zero),
     (0xD2940001#32, .clockLogical false (.s 20)),
     (0xD2960003#32, .clockPod false (.s 22)),
     (0x1E142083#32, .sysc (.v 20) (.v 32) (.s 3)),
     (0x1C000007#32, .trap 7),
     (0xEE840101#32, .csrw (.s 4) 1),
     (0xE0949000#32, .segopen false (.s 20) (.s 16)),
     (0xE0009501#32, .segseal (.s 21)),
     (0xE0949802#32, .segref false (.s 20) (.s 24)),
     (0xE0009503#32, .segdrop (.s 21)),
     (0xE2949098#32, .link false (.s 20) (.s 16) (.s 24)),
     (0xE4949096#32, .unlink false (.s 20) (.s 16) (.s 22)),
     (0xE6929000#32, .ctxpin false (.s 18) (.s 16)),
     (0xE6000001#32, .ctxunpin),
     (0xE8949000#32, .tkpost false (.s 20) (.s 16)),
     (0xE8000001#32, .tkdone),
     (0xE8928502#32, .tkpull (.s 18) (.s 5)),
     (0xE9009603#32, .tkcancel true (.v 0) (.s 22)),
     (0xE8959804#32, .tkpark false (.s 21) (.s 24)),
     (0xE8959605#32, .tkresume false (.s 21) (.s 22)),
     (0xEA048808#32, .nputOrd (.v 4) (.s 8)),
     (0xEA068801#32, .nget (.v 6) (.s 8)),
     (0xEA048802#32, .nsend (.v 4) (.s 8)),
     (0xEA0A8C03#32, .nrecv (.v 10) (.s 12)),
     (0xEA000004#32, .nfence)] : List (Word × Instr)).all reads = true := by decide +kernel
/-! ## One instruction on a small wave -/

/-- M with a type. -/
def modeOf (t : ElemType) : Mode := { Mode.initial with type := t }

/-- A path that has its pipe. -/
def pathOf (m : Mode) : Path :=
  { tag := Tag.root, pc := 0x10000, mask := 0xFFFFFFFF#32, mode := m, latches := Vector.replicate 4 Latch.empty, pending := [],
    jp := none, wj := none, status := .ready, stage := .none, swDone := true, swNext := false, late := false,
    halted := false }

/-- A wave of this one path. -/
def waveOf (p : Path) : Wave := { placedWave with paths := [p] }

/-- The machine with this one wave, whose root path executes. -/
def stateOf (w : Wave) : State := { State.reset with waves := [w], cur := some (w.id, Tag.root) }

/-- What a test asks of the next state. -/
def next (r : Result) (f : State → Bool) : Bool :=
  match r with
  | .next t => f t
  | _ => false

/-- v6 and v7 of lane 3 after an instruction, with v2:v3, v4:v5 and v6:v7 given. -/
def v6 (m : Mode) (i : Instr) (x y c : DWord) (want : DWord) : Bool :=
  let put := fun (w : Wave) (r : Fin 128) (a : DWord) =>
    let q : Fin 128 := r + 1
    { w with v := (w.v.set r (splat (lo32 a))).set q (splat (hi32 a)) }
  let w := put (put (put (waveOf (pathOf m)) 2 x) 4 y) 6 c
  next (exec i (stateOf w)) fun t => t.waves.any fun (w : Wave) =>
    join64 w.v[6][3] w.v[7][3] == (if isWide m.type then want else join64 (lo32 want) (hi32 c))

def two (mk : Bool → Operand → Operand → Operand → Instr) : Instr := mk false (.v 6) (.v 2) (.v 4)
def one (mk : Bool → Operand → Operand → Instr) : Instr := mk false (.v 6) (.v 2)
def i32 : Mode := modeOf .i32
def f32 : Mode := modeOf .fp32
/-- M with M.sat = 1. -/
def sat (m : Mode) : Mode := { m with sat := true }

/-- The table of R65: i8 100 + 100, ui8 3 - 5, i32 overflow, ui16 300 · 300, i64 at its minimum. -/
theorem test_saturation :
    v6 (modeOf .i8) (two .add) 100 100 0 0xFFFFFFC8 = true
    ∧ v6 (sat (modeOf .i8)) (two .add) 100 100 0 127 = true
    ∧ v6 (modeOf .ui8) (two .sub) 3 5 0 254 = true
    ∧ v6 (sat (modeOf .ui8)) (two .sub) 3 5 0 0 = true
    ∧ v6 i32 (two .add) 0x7FFFFFFF 1 0 0x80000000 = true
    ∧ v6 (sat i32) (two .add) 0x7FFFFFFF 1 0 0x7FFFFFFF = true
    ∧ v6 (modeOf .ui16) (two .mul) 300 300 0 0x5F90 = true
    ∧ v6 (sat (modeOf .ui16)) (two .mul) 300 300 0 0xFFFF = true
    ∧ v6 (modeOf .i64) (two .sub) 0x8000000000000000 1 0 0x7FFFFFFFFFFFFFFF = true
    ∧ v6 (sat (modeOf .i64)) (two .sub) 0x8000000000000000 1 0 0x8000000000000000 = true := by decide +kernel

/-- The table of R238: DIV and REM. -/
theorem test_division :
    v6 i32 (two .div) 7 0xFFFFFFFE 0 0xFFFFFFFD = true
    ∧ v6 i32 (two .rem) 7 0xFFFFFFFE 0 1 = true
    ∧ v6 i32 (two .div) 0xFFFFFFF9 2 0 0xFFFFFFFD = true
    ∧ v6 i32 (two .rem) 0xFFFFFFF9 2 0 0xFFFFFFFF = true
    ∧ v6 (modeOf .ui32) (two .div) 5 0 0 0xFFFFFFFF = true
    ∧ v6 (modeOf .ui32) (two .rem) 5 0 0 5 = true
    ∧ v6 i32 (two .div) 0x80000000 0xFFFFFFFF 0 0x80000000 = true
    ∧ v6 (sat i32) (two .div) 0x80000000 0xFFFFFFFF 0 0x7FFFFFFF = true
    ∧ v6 i32 (two .rem) 0x80000000 0xFFFFFFFF 0 0 = true := by decide +kernel

/-- The table of R238: MULH, ADDMIN, the shifts, the funnel shifts, SEL and the fields. -/
theorem test_bits :
    v6 i32 (two .mulh) 0xFFFFFFFE 3 0 0xFFFFFFFF = true
    ∧ v6 i32 (two .addmin) 0x7FFFFFFF 1 5 0x80000000 = true
    ∧ v6 (sat i32) (two .addmin) 0x7FFFFFFF 1 5 5 = true
    ∧ v6 i32 (two .shl) 1 40 0 0 = true
    ∧ v6 (sat i32) (two .shl) 1 40 0 0x7FFFFFFF = true
    ∧ v6 i32 (two .sha) 0xFFFFFFF8 40 0 0xFFFFFFFF = true
    ∧ v6 i32 (two .shr) 0x80000000 31 0 1 = true
    ∧ v6 (modeOf .ui16) (two .rol) 0x8001 1 0 3 = true
    ∧ v6 i32 (two .fshl) 0x9ABCDEF0 8 0x12345678 0x3456789A = true
    ∧ v6 i32 (two .fshr) 0x9ABCDEF0 8 0x12345678 0x789ABCDE = true
    ∧ v6 i32 (two .fshl) 0x9ABCDEF0 40 0x12345678 0x9ABCDEF0 = true
    ∧ v6 (modeOf .b32) (two .sel) 0xAAAAAAAA 0x55555555 0xFFFF0000 0xAAAA5555 = true
    ∧ v6 i32 (two .bfx) 0xF0A0 0x0808 0 0xFFFFFFF0 = true
    ∧ v6 (modeOf .ui32) (two .bfx) 0xF0A0 0x0808 0 0xF0 = true
    ∧ v6 i32 (two .bfi) 5 0x0404 0xFFFFFFFF 0xFFFFFF5F = true := by decide +kernel

/-- R240: CLZ, CTZ, POPC and BREV of 0x00010000, NEG of the most negative number. -/
theorem test_counts :
    v6 i32 (one .clz) 0x10000 0 0 15 = true
    ∧ v6 i32 (one .ctz) 0x10000 0 0 16 = true
    ∧ v6 i32 (one .popc) 0x10000 0 0 1 = true
    ∧ v6 i32 (one .brev) 0x10000 0 0 0x8000 = true
    ∧ v6 i32 (one .neg) 0x80000000 0 0 0x80000000 = true
    ∧ v6 (sat i32) (one .neg) 0x80000000 0 0 0x7FFFFFFF = true := by decide +kernel

/-- The worked results of R251 under fp32. -/
theorem test_float :
    v6 f32 (two .add) 0x3F800000 0xBF800000 0 0 = true
    ∧ v6 { f32 with round := .rd } (two .add) 0x3F800000 0xBF800000 0 0x80000000 = true
    ∧ v6 f32 (two .mul) 0x3F800800 0x3F800800 0 0x3F801000 = true
    ∧ v6 { f32 with round := .ru } (two .mul) 0x3F800800 0x3F800800 0 0x3F801001 = true
    ∧ v6 f32 (two .mad) 0x3F800800 0x3F800800 0xBF801000 0x33800000 = true
    ∧ v6 f32 (two .div) 0x3F800000 0x80000000 0 0xFF800000 = true
    ∧ v6 (sat f32) (two .div) 0x3F800000 0x80000000 0 0xFF7FFFFF = true
    ∧ v6 (sat f32) (two .add) 0x7F800000 0x3F800000 0 0x7F7FFFFF = true
    ∧ v6 f32 (two .max) 0x80000000 0 0 0 = true
    ∧ v6 f32 (two .addmin) 0x7F800000 0xFF800000 0x40400000 0x40400000 = true := by decide +kernel

/-- R254, R255: exact results, the rounding functions and FRAC. -/
theorem test_functions :
    v6 f32 (one .exp2) 0x40400000 0 0 0x41000000 = true
    ∧ v6 f32 (one .exp2) 0xC3160000 0 0 0 = true
    ∧ v6 f32 (one .log2) 0x41000000 0 0 0x40400000 = true
    ∧ v6 f32 (one .log2) 0x3F800000 0 0 0 = true
    ∧ v6 f32 (one .sin2pi) 0x3E800000 0 0 0x3F800000 = true
    ∧ v6 f32 (one .sin2pi) 0xBF000000 0 0 0x80000000 = true
    ∧ v6 f32 (one .cos2pi) 0x3E800000 0 0 0 = true
    ∧ v6 f32 (one .ceil) 0xBF000000 0 0 0x80000000 = true
    ∧ v6 f32 (one .floor) 0x3E99999A 0 0 0 = true
    ∧ v6 f32 (one .rint) 0x40200000 0 0 0x40000000 = true
    ∧ v6 { f32 with round := .rna } (one .rint) 0x40200000 0 0 0x40400000 = true
    ∧ v6 f32 (one .frac) 0xB0800000 0 0 0x3F800000 = true := by decide +kernel

/-- The table of R68 and the worked listing of chapter 12: CVT and PACK. -/
theorem test_conversion :
    v6 (modeOf .bf16) (one (.cvt · .fp32)) 0xC0200000 0 0 0xC020 = true
    ∧ v6 (modeOf .fp16) (one (.cvt · .fp32)) 0xC0200000 0 0 0xC100 = true
    ∧ v6 (modeOf .fp8e5) (one (.cvt · .fp32)) 0xC0200000 0 0 0xC1 = true
    ∧ v6 (sat (modeOf .fp8e4)) (one (.cvt · .fp32)) 0x7F800000 0 0 0x7E = true
    ∧ v6 f32 (one (.cvt · .bf16)) 0xC0203F80 0 0 0x3F800000 = true
    ∧ v6 f32 (one (.cvt · .fp8e4)) 0x7E 0 0 0x43E00000 = true
    ∧ v6 i32 (one (.packIh · 1)) 0xC020 0 0x3F80 0xC0203F80 = true
    ∧ v6 i32 (one (.packXb · 3)) 0xC0203F80 0 0 0xC0 = true := by decide +kernel

/-- R252: TWOPROD of 1 + 2^-12 with itself; R87: the pair sum of the worked example. -/
theorem test_pairs :
    v6 f32 (two .twoprod) 0x3F800800 0x3F800800 0x3380000000000000 0x3F801000 = true
    ∧ v6 (modeOf .pair) (two .add) 0x2B8000003F800000 0x2680000033000000 0 0x330001003F800000 = true := by decide +kernel

/-- The worked block of R207: amax 37.5 and -0.3 under both scale formats. -/
theorem test_quant :
    scaleCode .fp8e4 .e8m0 (ofFp32 0x42160000#32) = 0x7C ∧ scaleCode .fp8e4 .ue5m3 (ofFp32 0x42160000#32) = 0x5B
    ∧ quantElem .fp8e4 .e8m0 .rne 0x7C (ofFp32 0x42160000#32) = (0x79, false)
    ∧ quantElem .fp8e4 .e8m0 .rne 0x7C (ofFp32 0xBE99999A#32) = (0xC2, false)
    ∧ quantElem .fp8e4 .ue5m3 .rne 0x5B (ofFp32 0x42160000#32) = (0x7E, false)
    ∧ quantElem .fp8e4 .ue5m3 .rne 0x5B (ofFp32 0xBE99999A#32) = (0xC6, false) := by decide +kernel
/-! ## Witnesses: for every statement with hypotheses, states and operands that meet them -/

/-- The placed context, with a wave whose root path executes. -/
def m0 (w : Wave) : State := { State.reset.placeWord 0x02000000#32 with waves := [w], cur := some (1, Tag.root) }

/-- A check that passes, with a result as `f` asks. -/
def okIs {ε α : Type} (e : Except ε α) (f : α → Bool) : Bool :=
  match e with
  | .ok x => f x
  | .error _ => false

/-- A check that fails, as `f` asks. -/
def failIs {ε α : Type} (e : Except ε α) (f : ε → Bool) : Bool :=
  match e with
  | .ok _ => false
  | .error x => f x

/-- The checks of an instruction that is no switch point. -/
def readyBool (w : Wave) (p : Path) (fields uniform : List Field) : Bool :=
  p.stage == .none && p.calm && allFree fields w p && noneStreamed uniform p

theorem ready_of {s : State} {w : Wave} {p : Path} {f u : List Field} (hc : s.cursor? = some { w := w, p := p })
    (h : readyBool w p f u = true) : s.Ready w p f u := by
  simp only [readyBool, Bool.and_eq_true, beq_iff_eq] at h
  exact ⟨⟨hc, h.1.1.1⟩, h.1.1.2, h.1.2, h.2⟩

/-- The checks that ReadyClear adds. -/
def clearBool (s : State) (w : Wave) : Bool := s.quiet w && w.undisturbed && w.mayAct

theorem clear_of {s : State} {w : Wave} {p : Path} {f u : List Field} (hc : s.cursor? = some { w := w, p := p })
    (h : (readyBool w p f u && clearBool s w) = true) : s.ReadyClear w p f u := by
  simp only [clearBool, Bool.and_eq_true] at h
  exact ⟨ready_of hc h.1, h.2.1.1, h.2.1.2, h.2.2⟩

theorem switch_of {s : State} {w : Wave} {p : Path} {f u : List Field} (hc : s.cursor? = some { w := w, p := p })
    (h : (readyBool w p.atSwitch f u && clearBool s w && s.keepsPipe w p && p.stage == .none) = true) :
    s.ReadySwitch w p f u := by
  simp only [readyBool, clearBool, Bool.and_eq_true, beq_iff_eq] at h
  exact ⟨⟨hc, h.2⟩, h.1.1.1.1.2, h.1.1.1.2, h.1.1.2.1.1, h.1.1.2.1.2, h.1.1.2.2, h.1.2⟩

/-- A path with M of a type, and a wave and a state of it. -/
def P (t : ElemType) : Path := pathOf (modeOf t)
def W (t : ElemType) : Wave := waveOf (P t)
def S (t : ElemType) : State := m0 (W t)

theorem ready (t : ElemType) {f u : List Field} (h : readyBool (W t) (P t) f u = true) : (S t).Ready (W t) (P t) f u :=
  ready_of rfl h
theorem clear (t : ElemType) {f u : List Field} (h : (readyBool (W t) (P t) f u && clearBool (S t) (W t)) = true) :
    (S t).ReadyClear (W t) (P t) f u := clear_of rfl h
theorem switch (t : ElemType) {f u : List Field}
    (h : (readyBool (W t) (P t).atSwitch f u && clearBool (S t) (W t) && (S t).keepsPipe (W t) (P t)
      && (P t).stage == .none) = true) : (S t).ReadySwitch (W t) (P t) f u := switch_of rfl h

theorem witness_EncodeDecode : (Instr.bfi true (.p 7) (.special .devid) (.s 63)).WellFormed = true
    ∧ (Instr.cdmLstat 31 0 31).WellFormed = true := by decide +kernel

theorem witness_DecodeEncode : decodeWord 0xFFFFFFFF#32 = .ok (.illegal 0xFFFFFFFF#32) := by rfl

theorem witness_TwoSourceCompletes : ∀ ty ∈ [ElemType.i32, .ui64, .fp32, .pair, .b32], ∀ dsrc : Bool,
    let dst := Field.dstOf (isWide ty) (.v 126)
    let srcs := [Field.srcOf (isWide ty) (.s 62), Field.srcOf (isWide ty) (.v 4)]
    (S ty).Ready (W ty) (P ty) (resultFields false dsrc dst srcs) (resultUniform false dst srcs) :=
  fun ty h dsrc => ready ty (by revert ty dsrc; decide +kernel)

theorem witness_OneSourceCompletes : ∀ ty ∈ [ElemType.i8, .i64, .fp32, .b32],
    let dst := Field.dstOf (isWide ty) (.s 62)
    let srcs := [Field.srcOf (isWide ty) (.s 0)]
    (S ty).Ready (W ty) (P ty) (resultFields false false dst srcs) (resultUniform false dst srcs) :=
  fun ty h => ready ty (by revert ty; decide +kernel)

theorem witness_ConstantsConversionsComplete :
    (S .i32).Ready (W .i32) (P .i32) (resultFields false false (.dstOf false (.p 7)) []) (resultUniform false (.dstOf false (.p 7)) [])
    ∧ (S .i32).Ready (W .i32) (P .i32) (resultFields false true (.group isReg 1 1 (.s 63)) [])
        (resultUniform false (.group isReg 1 1 (.s 63)) [])
    ∧ (S .i64).Ready (W .i64) (P .i64) (resultFields false true (.dstOf true (.s 62)) []) (resultUniform false (.dstOf true (.s 62)) [])
    ∧ (S .fp32).Ready (W .fp32) (P .fp32) (resultFields false false (.group isReg 2 2 (.v 126)) [.src (.v 1), .src .zero])
        (resultUniform false (.group isReg 2 2 (.v 126)) [.src (.v 1), .src .zero])
    ∧ cvtAccepts .fp32 .bf16 = true
    ∧ (S .bf16).Ready (W .bf16) (P .bf16) (resultFields false false (.dstOf false (.v 1)) [.srcOf false (.v 2)])
        (resultUniform false (.dstOf false (.v 1)) [.srcOf false (.v 2)])
    ∧ ∀ ins : Bool, (S .fp4).Ready (W .fp4) (P .fp4) (resultFields false ins (.group isReg 1 1 (.v 127)) [.src (.p 0)])
        (resultUniform false (.group isReg 1 1 (.v 127)) [.src (.p 0)]) :=
  ⟨ready _ (by decide +kernel), ready _ (by decide +kernel), ready _ (by decide +kernel), ready _ (by decide +kernel), rfl,
   ready _ (by decide +kernel), fun ins => ready _ (by revert ins; decide +kernel)⟩

theorem witness_CmpCompletes : condAccepts .geu .fp32 = true ∧ condAccepts .ntst .ui64 = true
    ∧ (S .fp32).Ready (W .fp32) (P .fp32) [.srcOf false .zero, .srcOf false (.v 127)] []
    ∧ (S .ui64).Ready (W .ui64) (P .ui64) [.srcOf true .ones, .srcOf true (.v 126)] [] :=
  ⟨rfl, rfl, ready _ (by decide +kernel), ready _ (by decide +kernel)⟩

theorem witness_CrossLanesComplete :
    (∀ ty ∈ [ElemType.i32, .ui64, .fp32, .pair, .b32], ∀ nw : Bool,
      let dst := if isWide ty then Field.group isVec 2 2 (.v 126) else .group isVec 1 1 (.v 126)
      (S ty).Ready (W ty) (P ty) (resultFields nw false dst [.srcOf (isWide ty) (.v 2), .src (.s 3)]) [.src (.s 3)]
      ∧ (S ty).Ready (W ty) (P ty) (resultFields nw false dst [.srcOf (isWide ty) (.v 2)]) [])
    ∧ (S .i32).Ready (W .i32) (P .i32) (resultFields false false (.dstOf false (.p 7)) [.srcOf false (.v 2)]) []
    ∧ (S .i32).Ready (W .i32) (P .i32) (resultFields false false (.group isReg 1 1 (.s 63)) [.srcOf false (.v 2)]) [] :=
  ⟨fun ty h nw => ⟨ready ty (by revert ty nw; decide +kernel), ready ty (by revert ty nw; decide +kernel)⟩,
   ready _ (by decide +kernel), ready _ (by decide +kernel)⟩

theorem witness_values : (modeOf .ui32).sat = false ∧ intT (modeOf .i8).type = true ∧ (modeOf .i8).intTy.read 0 = 0
    ∧ (modeOf .i8).intTy.read 0xFF ≠ 0 ∧ (sat (modeOf .i64)).sat = true ∧ (modeOf .b32).type = .b32 := by decide +kernel

theorem witness_NopModeJptYield : (S .i32).Ready (W .i32) (P .i32) [] [] ∧ Mode.ofWord? 0x2009#16 ≠ none
    ∧ Mode.ofWord? 0x1F00#16 = none ∧ (W .i32).kind = .launched :=
  ⟨ready _ (by decide +kernel), by decide +kernel, by decide +kernel, rfl⟩

/-- A path whose guard is p0. -/
def guarded : Path := pathOf { Mode.initial with gen := true }
/-- A guarded wave with a p0. -/
def guardWave (x : Mask) : Wave := { waveOf guarded with p := (Vector.replicate 8 0).set 0 x }

theorem witness_BranchCompletes :
    (S .i32).ReadySwitch (W .i32) (P .i32) [] [] ∧ (W .i32).unhurried = true ∧ (P .i32).mask &&& ~~~execMask (W .i32) (P .i32) = 0
    ∧ (m0 (guardWave 0)).ReadySwitch (guardWave 0) guarded [] [] ∧ (guardWave 0).unhurried = true
    ∧ execMask (guardWave 0) guarded = 0 ∧ guarded.mask &&& ~~~execMask (guardWave 0) guarded ≠ 0
    ∧ (m0 (guardWave 1)).ReadySwitch (guardWave 1) guarded [] [] ∧ (guardWave 1).unhurried = true
    ∧ ((guardWave 1).kind == .launched && decide ((guardWave 1).resident ≥ 8) && !(m0 (guardWave 1)).hasSaveArea 1) = false
    ∧ (∀ q ∈ (guardWave 1).paths, q.tag.entry ≤ (guardWave 1).splits.length)
    ∧ execMask (guardWave 1) guarded ≠ 0 ∧ guarded.mask &&& ~~~execMask (guardWave 1) guarded ≠ 0 :=
  ⟨switch _ (by decide +kernel), by decide +kernel, by decide +kernel, switch_of rfl (by decide +kernel), by decide +kernel,
   by decide +kernel, by decide +kernel, switch_of rfl (by decide +kernel), by decide +kernel, by decide +kernel,
   by decide +kernel, by decide +kernel, by decide +kernel⟩

theorem witness_JumpCallRet :
    let full : Wave := { W .i32 with returns := List.replicate 16 (0x10000, Tag.root) }
    let odd : Wave := { W .i32 with base := 2 }
    let split : Wave := { W .i32 with v := (W .i32).v.set 5 ((splat 0).set 3 4) }
    let rets := [Field.group (fun o => isReg o || o == .zero) 1 1 .zero]
    (0 < (5 : BitVec 25).toInt ∧ (0x1FFFFFF : BitVec 25).toInt ≤ 0 ∧ (W .i32).kind = .launched ∧ (W .i32).returns.length < 16)
    ∧ (S .i32).Ready (W .i32) (P .i32) [] [] ∧ (S .i32).ReadySwitch (W .i32) (P .i32) [] []
    ∧ (m0 full).ReadySwitch full (P .i32) rets [] ∧ full.unhurried = true ∧ 16 ≤ full.returns.length
    ∧ okIs (retTarget full (P .i32) .zero) (fun x => x.1 % 4 == 0 && x.2) = true
    ∧ (m0 odd).ReadySwitch odd (P .i32) [Field.group (fun o => isReg o || o == .zero) 1 1 (.s 63)] []
    ∧ okIs (retTarget odd (P .i32) (.s 63)) (fun x => x.1 % 4 != 0) = true
    ∧ failIs (retTarget (W .i32) (P .i32) .zero) (fun _ => true) = true
    ∧ (P .i32).mask ≠ 0 ∧ (∀ i : Fin 32, inMask (P .i32).mask i = true → (W .i32).v[(127 : Fin 128)][i] = 0)
    ∧ split.v[(5 : Fin 128)][(3 : Fin 32)] ≠ split.v[(5 : Fin 128)][(31 : Fin 32)] :=
  ⟨by decide +kernel, ready _ (by decide +kernel), switch _ (by decide +kernel), switch_of rfl (by decide +kernel),
   by decide +kernel, by decide +kernel, by decide +kernel, switch_of rfl (by decide +kernel), by decide +kernel,
   by decide +kernel, by decide +kernel, by decide +kernel, by decide +kernel⟩

/-- Lanes that name entry 0, but for lane 0, which names entry 1. -/
def forked : Lanes := (splat 0).set 0 1

/-- The line of an address in the L1 of core 0, clean and whole, as memory has it. -/
def cached (s : State) (pa : Nat) : State :=
  s.modCore 0 fun k => { k with l1 := { line := pa / 128, sectors := Vector.ofFn fun (i : Fin 4) =>
    { Sector.empty with
      st := .c, mask := 0xFFFFFFFF#32
      bytes := Vector.ofFn fun (j : Fin 32) => s.mem.read (pa / 128 * 128 + 32 * i.val + j.val) } } :: k.l1 }

/-- A jump table at 0x10100 with n entries and its join 8 behind the base; its base in s8:s9, the index of each lane in v4. -/
def jtabWave (w : Wave) (idx : Lanes) : Wave := { w with s := w.s.set 8 0x10100, v := w.v.set 4 idx }
def jtabState (w : Wave) (n : Nat) : State :=
  let s := m0 w
  { s with mem := s.mem.writeN 0x10100 (leBytes 8 (n + 8 * 2 ^ 32) ++ leBytes 4 0x10 ++ leBytes 4 0x20) }
/-- The read of the table that a JTAB waits for, arrived, whole or with a lane that failed. -/
def tableRead (failed : Bool) : Inflight :=
  let f := Inflight.new 5 .table [] true 3 0x10000
  if failed then f.fail 0 (lostInfo .lost 0x10100) else f
/-- What JtabCompletes asks of the state behind the switch point. -/
def jtabGoes (s : State) (w : Wave) (p : Path) (plan : Except TableStop JumpPlan → Bool) : Bool :=
  let w1 := w.switched p
  let p1 := p.atSwitch
  let s1 := (s.switched w p).settleHolds w.id
  let f := w1.tableWait? p1
  let s2 := if f.isSome then s1.modWave w.id fun x => x.endTable p1 else s1
  w.kind == .launched && w.unhurried && !s1.tableHeld w1 p1 (.v 4) (.s 8) && f.all (fun x => x.arrived && x.failed.isEmpty)
    && plan (s2.jumpPlan (w1.endTable p1) p1 (.v 4) (.s 8))
def jtabFields : List Field :=
  [{ op := .v 4, allow := fun o => isSrc o && !isPred o, align := 1, span := 1, latches := 1 }, baseField (.s 8)]

/-- A path of lanes 0 and 1 only. -/
def narrow (p : Path) : Path := { p with mask := 3 }
def narrowWave (w : Wave) (p : Path) : Wave := { w with paths := [narrow p] }

theorem witness_JtabCompletes :
    let p := narrow (P .i32)
    let g := narrow guarded
    let all := jtabWave (narrowWave (W .i32) (P .i32)) (splat 0)
    let two := jtabWave (narrowWave (W .i32) (P .i32)) forked
    let part := jtabWave (narrowWave (guardWave 2) guarded) (splat 0)
    let none := jtabWave (narrowWave (guardWave 0) guarded) (splat 0)
    let back : Wave := { all with inflight := [tableRead false] }
    let S := fun w n => cached (jtabState w n) 0x10100
    (S all 2).ReadySwitch all p jtabFields [] ∧ (S two 2).ReadySwitch two p jtabFields []
    ∧ (S part 2).ReadySwitch part g jtabFields [] ∧ (S none 2).ReadySwitch none g jtabFields []
    ∧ (jtabState all 2).ReadySwitch all p jtabFields [] ∧ (S back 2).ReadySwitch back p jtabFields []
    ∧ jtabGoes (S all 0) all p (failIs · fun | .trap _ => true | .need .. => false) = true
    ∧ jtabGoes (jtabState all 2) all p (failIs · fun | .need x l => x.width == 8 && l == 3 | .trap _ => false) = true
    ∧ jtabGoes (S none 2) none g (okIs · fun x => x.groups.isEmpty) = true
    ∧ jtabGoes (S all 2) all p (okIs · fun x => x.groups.length == 1) = true
    ∧ jtabGoes (S back 2) back p (okIs · fun x => x.groups.length == 1) = true
    ∧ (back.switched p).tableWait? p.atSwitch = some (tableRead false)
    ∧ p.mask &&& ~~~(execMask all p) = 0
    ∧ jtabGoes (S part 2) part g (okIs · fun x => x.groups.length == 1) = true ∧ g.mask &&& ~~~(execMask part g) ≠ 0
    ∧ jtabGoes (S two 2) two p (okIs · fun x => x.groups.length == 2) = true :=
  ⟨switch_of rfl (by decide +kernel), switch_of rfl (by decide +kernel), switch_of rfl (by decide +kernel),
   switch_of rfl (by decide +kernel), switch_of rfl (by decide +kernel), switch_of rfl (by decide +kernel),
   by decide +kernel, by decide +kernel, by decide +kernel, by decide +kernel, by decide +kernel, by decide +kernel,
   by decide +kernel, by decide +kernel, by decide +kernel, by decide +kernel⟩

/-- A JTAB whose read of the table has failed. -/
theorem witness_JtabFails :
    let p := narrow (P .i32)
    let w : Wave := { jtabWave (narrowWave (W .i32) (P .i32)) (splat 0) with inflight := [tableRead true] }
    let s := jtabState w 2
    s.ReadySwitch w p jtabFields []
    ∧ ((s.switched w p).settleHolds w.id).tableHeld (w.switched p) p.atSwitch (.v 4) (.s 8) = false
    ∧ (w.switched p).tableWait? p.atSwitch = some (tableRead true)
    ∧ (tableRead true).arrived = true ∧ (tableRead true).failed.head?.isSome = true :=
  ⟨switch_of rfl (by decide +kernel), by decide +kernel, by decide +kernel, by decide +kernel, by decide +kernel⟩

/-- The placed context, with dirty bytes in the L1 of the wave's core. -/
def soiled : State := (S .i32).modCore 0 fun k =>
  { k with l1 := [{ line := 0x202, sectors := Vector.replicate 4 { Sector.empty with st := .d, mask := 1 } }], fifo := [.line 0x202] }

theorem witness_ExitCompletes :
    (m0 (guardWave 0)).ReadyClear (guardWave 0) guarded [] [] ∧ execMask (guardWave 0) guarded = 0
    ∧ (m0 (guardWave 1)).ReadyClear (guardWave 1) guarded [] [] ∧ execMask (guardWave 1) guarded ≠ 0
    ∧ (guardWave 1).liveMask &&& ~~~(execMask (guardWave 1) guarded) ≠ 0
    ∧ guarded.mask &&& ~~~(execMask (guardWave 1) guarded) ≠ 0
    ∧ (S .i32).ReadySwitch (W .i32) (P .i32) [] [] ∧ execMask (W .i32) (P .i32) ≠ 0
    ∧ (W .i32).liveMask &&& ~~~(execMask (W .i32) (P .i32)) = 0
    ∧ ((S .i32).switched (W .i32) (P .i32)).endStalls ((W .i32).switched (P .i32)) (execMask (W .i32) (P .i32)) = false
    ∧ soiled.Runs (W .i32) (P .i32) ∧ soiled.quiet (W .i32) = true ∧ (W .i32).undisturbed = true
    ∧ (soiled.switched (W .i32) (P .i32)).endStalls ((W .i32).switched (P .i32)) (execMask (W .i32) (P .i32)) = true
    ∧ (∀ h, (W .i32).kind ≠ .combiner h) :=
  ⟨clear_of rfl (by decide +kernel), by decide +kernel, clear_of rfl (by decide +kernel), by decide +kernel, by decide +kernel,
   by decide +kernel, switch _ (by decide +kernel), by decide +kernel, by decide +kernel, by decide +kernel, ⟨rfl, rfl⟩,
   by decide +kernel, by decide +kernel, by decide +kernel, fun h e => by cases e⟩

theorem witness_TrapEntry : let s := (S .i32).setReg (Reg.trapBase 1) 0x8000000000010000
    s.wave? (W .i32).id = some (W .i32) ∧ (W .i32).path? (P .i32).tag = some (P .i32) ∧ s.TrapsPlainly (W .i32)
    ∧ TrapCode.soft ≠ .boundary :=
  ⟨rfl, rfl, ⟨rfl, rfl, by decide +kernel, rfl, rfl⟩, by decide⟩

theorem witness_ReservedOpcodes : (0xFFFFFFFF#32).toNat / 2 ^ 25 = 0x7F ∧ (S .i32).Runs (W .i32) (P .i32) := ⟨rfl, rfl, rfl⟩

theorem witness_TrapInstruction : (S .i32).Ready (W .i32) (P .i32) [] [] ∧ execMask (W .i32) (P .i32) ≠ 0
    ∧ (m0 (guardWave 0)).Ready (guardWave 0) guarded [] [] ∧ execMask (guardWave 0) guarded = 0 :=
  ⟨ready _ (by decide +kernel), by decide +kernel, ready_of rfl (by decide +kernel), by decide +kernel⟩

/-- A wave in handler state, and one of a system context. -/
def handling : Wave := { W .i32 with handler := some (Tag.root, 0) }
def systemWave : Wave := { W .i32 with system := true }
/-- A producer micro-program. -/
def producing : Wave := { W .i32 with kind := .producer, system := true }

theorem witness_CsrAccess : csrAllowed handling = true ∧ ((m0 handling).csrRead handling 0x1B).isSome = true
    ∧ (m0 handling).Ready handling (P .i32) [.group isSca 1 1 (.s 63)] [] ∧ csrWritable 0x17 = true
    ∧ (m0 handling).Ready handling (P .i32) [.src (.s 4)] [.src (.s 4)]
    ∧ csrAllowed (W .i32) = false ∧ (S .i32).Ready (W .i32) (P .i32) [] []
    ∧ csrAllowed producing = false ∧ (m0 producing).Ready producing (P .i32) [] [] :=
  ⟨rfl, by decide +kernel, ready_of rfl (by decide +kernel), by decide +kernel, ready_of rfl (by decide +kernel), rfl,
   ready _ (by decide +kernel), rfl, ready_of rfl (by decide +kernel)⟩

theorem witness_TrapReturn :
    (m0 handling).Ready handling (P .i32) [] [] ∧ handling.unhurried = true ∧ csrAllowed handling = true
    ∧ trapretPlaced handling = true ∧ (m0 handling).endStalls handling (P .i32).mask = false
    ∧ ({ soiled with waves := [handling] } : State).Ready handling (P .i32) [] []
    ∧ ({ soiled with waves := [handling] } : State).endStalls handling (P .i32).mask = true
    ∧ (m0 systemWave).Ready systemWave (P .i32) [] [] ∧ csrAllowed systemWave = true ∧ trapretPlaced systemWave = false :=
  ⟨ready_of rfl (by decide +kernel), by decide +kernel, rfl, by decide +kernel, by decide +kernel,
   ready_of rfl (by decide +kernel), by decide +kernel, ready_of rfl (by decide +kernel), rfl, rfl⟩
/-! ### Memory -/

/-- A path of lane 0 with M of a scope, and its wave, whose s0:s1 is the address of its page. -/
def pathAt (t : ElemType) (c : Scope) : Path := { pathOf { modeOf t with scope := c } with mask := 1 }
def waveAt (t : ElemType) (c : Scope) : Wave :=
  let w := waveOf (pathAt t c)
  { w with v := w.v.set 3 (splat 15), s := (w.s.set 0 0x10000).set 2 2 }
/-- The same at workgroup scope. -/
def M (t : ElemType) : Path := pathAt t .wg
def memWave (t : ElemType) : Wave := waveAt t .wg
def memState (t : ElemType) : State := m0 (memWave t)

theorem memReady (t : ElemType) {f u : List Field} (h : readyBool (memWave t) (M t) f u = true) :
    (memState t).Ready (memWave t) (M t) f u := ready_of rfl h

theorem plain_of {w : Wave} (h : (w.kind == .launched && w.det.isNone && !w.versioned && w.holds.isEmpty && !w.outgrown) = true) :
    w.Plain := by
  simp only [Bool.and_eq_true, beq_iff_eq, Option.isNone_iff_eq_none, Bool.not_eq_true', List.isEmpty_iff] at h
  exact ⟨h.1.1.1.1, h.1.1.1.2, h.1.1.2, h.1.2, h.2⟩

theorem witness_LaneChecks :
    ([(0, 4, Except.ok 4), (31, 8, .error .memFault)] : List (Fin 32 × Nat × Except TrapCode Nat)).map (·.1) = [0, 31]
    ∧ failIs ((memState .i32).placeAny (memWave .i32) (2 ^ 55) 4 4 .r) (· == .memFault) = true
    ∧ failIs ((memState .i32).placeAny (memWave .i32) (2 ^ 55 - 1) 4 4 .r) (· == .memAlign) = true
    ∧ failIs ((memState .i32).placeAny (memWave .i32) 0 4 4 .r) (fun c => failIs ((memState .i32).translate (memWave .i32) 0 .r) (· == c))
        = true := by decide +kernel

/-- A direct write of the wave to another line, on its way, and a hold of the wave that waits for it. -/
def behind (s : State) : State :=
  { s with messages := [{ id := 77, home := 0, req := s.requester (memWave .i32) 0, op := .write 0x7FFF80 [0] }] }
def heldWave (t : ElemType) (c : Scope) : Wave :=
  { waveAt t c with holds := [{ classes := [.load, .store, .scratch, .net], through := none, deps := [77], loads := [],
                                commands := [], netOps := [], acquire := false }] }
def heldState (t : ElemType) (c : Scope) : State := behind (m0 (heldWave t c))

/-- Loads and stores that a hold keeps back stand in the memory queue. -/
theorem witness_queued :
    let w := heldWave .i32 .wg
    let s := heldState .i32 .wg
    w.kind = .launched ∧ w.det = none ∧ w.versioned = false
    ∧ s.Ready w (M .i32) (loadFields false (.v 127) (.s 0) .zero) []
    ∧ okIs (s.loadLanes w (M .i32) false (execMask w (M .i32)) 4 (.s 0) .zero) (fun l => l.length == 1
        && !((State.walked { s.settleHolds w.id with nextId := s.nextId + 1 } w (l.map (·.2.1))).globalWaits w [.load]
          (l.map (·.2.1)) (l.map (·.2.2 / 128))).isNone) = true
    ∧ s.Ready w (M .i32) [valueField false (.v 2), baseField (.s 0), offsetField .zero] []
    ∧ okIs (s.storeLanes w (M .i32) 1 false 4 (.v 2) (.s 0) .zero) (fun l => laneEas l != []
        && !(((s.walked w (laneEas l)).settleHolds w.id).globalWaits w [.store] (laneEas l) [0x10000 / 128]).isNone) = true :=
  ⟨rfl, rfl, rfl, ready_of rfl (by decide +kernel), by decide +kernel, ready_of rfl (by decide +kernel), by decide +kernel⟩

theorem witness_LoadsComplete :
    (memWave .i32).Plain ∧ accessWidth? .i32 = some 4 ∧ syncType .i32 = true ∧ (M .i32).mode.scope = .wg
    ∧ (memState .i32).Ready (memWave .i32) (M .i32) (loadFields false (.v 127) (.s 0) .zero) []
    ∧ (memState .i32).Ready (memWave .i32) (M .i32) (loadFields false (.s 63) (.s 0) .zero) [offsetField .zero]
    ∧ okIs ((memState .i32).loadLanes (memWave .i32) (M .i32) false (execMask (memWave .i32) (M .i32)) 4 (.s 0) .zero)
        (fun l => l.length == 1 && l.all fun x => !(memState .i32).lineBusy 1 (x.2.2 / 128)) = true
    ∧ (memState .i32).Ready (memWave .i32) (M .i32) (loadFields false (.v 127) (.s 0) (.s 2)) []
    ∧ failIs ((memState .i32).loadLanes (memWave .i32) (M .i32) false (execMask (memWave .i32) (M .i32)) 4 (.s 0) (.s 2))
        (·.code == .memAlign) = true
    ∧ (waveAt .i64 .pod).Plain ∧ syncType .i64 = true ∧ accessWidth? .i64 = some 8 ∧ (pathAt .i64 .pod).mode.scope ≠ .wg
    ∧ (m0 (waveAt .i64 .pod)).Ready (waveAt .i64 .pod) (pathAt .i64 .pod) (loadFields true (.v 126) (.s 0) .zero) []
    ∧ okIs ((m0 (waveAt .i64 .pod)).loadLanes (waveAt .i64 .pod) (pathAt .i64 .pod) false 1 8 (.s 0) .zero)
        (fun l => l.length == 1 && l.all fun x => !(m0 (waveAt .i64 .pod)).lineBusy 1 (x.2.2 / 128)) = true :=
  ⟨plain_of (by decide +kernel), rfl, rfl, rfl, memReady _ (by decide +kernel), memReady _ (by decide +kernel),
   by decide +kernel, memReady _ (by decide +kernel), by decide +kernel, plain_of (by decide +kernel), rfl, rfl, by decide,
   ready_of rfl (by decide +kernel), by decide +kernel⟩

theorem witness_StoresComplete :
    let w := memWave .i32
    let s := memState .i32
    let x := waveAt .i32 .dev
    let fields := [valueField false (.v 2), baseField (.s 0), offsetField .zero]
    w.Plain ∧ s.Ready w (M .i32) fields [] ∧ s.releaseReady w .wg = true ∧ s.quiet w = true
    ∧ okIs (s.storeLanes w (M .i32) 1 false 4 (.v 2) (.s 0) .zero) (fun l => l.length == 1 && s.linesFree w l) = true
    ∧ failIs (s.storeLanes w (M .i32) 1 false 4 (.v 2) (.s 0) (.s 2)) (·.code == .memAlign) = true
    ∧ s.Ready w (M .i32) [.group isVec 2 2 (.v 2), baseField (.s 0), offsetField .zero] []
    ∧ okIs (collectLanes ((lanesIn 1).map fun i =>
        (i, laneEa w (M .i32) (.s 0) .zero i, s.maskedBytes w (.v 2) (laneEa w (M .i32) (.s 0) .zero i) i)) none)
        (fun l => s.linesFree w l) = true
    ∧ failIs (collectLanes ((lanesIn 1).map fun i =>
        (i, laneEa w (M .i32) (.s 4) .zero i, s.maskedBytes w (.v 2) (laneEa w (M .i32) (.s 4) .zero i) i)) none)
        (·.code == .memFault) = true
    ∧ x.Plain ∧ (pathAt .i32 .dev).mode.scope ≠ .wg ∧ (m0 x).quiet x = true ∧ (m0 x).Ready x (pathAt .i32 .dev) fields []
    ∧ okIs ((m0 x).storeLanes x (pathAt .i32 .dev) 1 false 4 (.v 2) (.s 0) .zero) (fun l => (m0 x).linesFree x l) = true
    ∧ s.directOf w.id = [] ∧ (behind s).directOf w.id ≠ [] ∧ (behind s).Ready w (M .i32) fields [] ∧ (behind s).quiet w = true
    ∧ okIs ((behind s).storeLanes w (M .i32) 1 false 4 (.v 2) (.s 0) .zero) (fun _ => true) = true :=
  ⟨plain_of (by decide +kernel), memReady _ (by decide +kernel), by decide +kernel, by decide +kernel, by decide +kernel,
   by decide +kernel, memReady _ (by decide +kernel), by decide +kernel, by decide +kernel, plain_of (by decide +kernel),
   by decide, by decide +kernel, ready_of rfl (by decide +kernel), by decide +kernel, by decide +kernel, by decide +kernel,
   ready_of rfl (by decide +kernel), by decide +kernel, by decide +kernel⟩

theorem witness_FenceCacheWatch :
    let w := waveAt .i32 .dev
    let s := m0 w
    let p := pathAt .i32 .dev
    let fired : Wave := { w with watch := some { line := 5, fired := false, entry := false } }
    s.ReadyClear w p [] [] ∧ w.Plain ∧ s.Ready w p [.group isReg 2 2 (.s 0)] []
    ∧ okIs (s.place w (pairEa w p (.s 0) 0) 1 .r) (fun _ => true) = true
    ∧ (∀ k < 4, ((s.core w.core).sector (4 * (0x10000 / 128) + k)).full = false)
    ∧ okIs (collectLanes ((actLanes true 1).map fun j => (j, pairEa w p (.s 0) j, s.placeClean w (pairEa w p (.s 0) j)))
        (some p.mask)) (fun l => l.length == 1) = true
    ∧ failIs (collectLanes ((actLanes true 1).map fun j => (j, pairEa w p (.s 2) j, s.placeClean w (pairEa w p (.s 2) j)))
        (some p.mask)) (fun _ => true) = true
    ∧ s.Ready w p [baseField (.s 0)] [] ∧ okIs (s.translate w 0x10000 .r) (fun _ => true) = true
    ∧ failIs (s.translate w 0 .r) (fun _ => true) = true
    ∧ s.ReadySwitch w p [] [] ∧ w.det = none ∧ (w.wakePending || (match w.watch with | some x => x.fired | none => true)) = true
    ∧ (m0 fired).ReadySwitch fired p [] []
    ∧ (fired.wakePending || (match fired.watch with | some x => x.fired | none => true)) = false :=
  ⟨clear_of rfl (by decide +kernel), plain_of (by decide +kernel), ready_of rfl (by decide +kernel), by decide +kernel,
   by decide +kernel, by decide +kernel, by decide +kernel, ready_of rfl (by decide +kernel), by decide +kernel,
   by decide +kernel, switch_of rfl (by decide +kernel), rfl, rfl, switch_of rfl (by decide +kernel), rfl⟩

/-- PREF, CLEAN and INVAL that a hold keeps back. -/
theorem witness_cacheQueued :
    let w := heldWave .i32 .dev
    let s := heldState .i32 .dev
    let p := pathAt .i32 .dev
    w.kind = .launched ∧ s.Ready w p [.group isReg 2 2 (.s 0)] []
    ∧ okIs (s.place w (pairEa w p (.s 0) 0) 1 .r) (fun pa => !(((s.settleHolds w.id).walked w [pairEa w p (.s 0) 0]).globalWaits w
        [.load] [pairEa w p (.s 0) 0] [pa / 128]).isNone) = true
    ∧ okIs (collectLanes ((actLanes true 1).map fun j => (j, pairEa w p (.s 0) j, s.placeClean w (pairEa w p (.s 0) j)))
        (some p.mask)) (fun l => l != [] && !(((s.settleHolds w.id).walked w (l.map (·.2.1))).globalWaits w [.load, .store]
          (l.map (·.2.1)) (l.map (·.2.2 / 128))).isNone) = true :=
  ⟨rfl, ready_of rfl (by decide +kernel), by decide +kernel, by decide +kernel⟩

/-- A gang of one workgroup on core 0, with one unit of scratchpad and every queue. -/
def wg0 : Workgroup :=
  { lin := 0, core := 0, base := 0, size := 768, remap := Vector.replicate 8 0, qmask := 0xFFFF, launchBars := 0, gangBars := 0,
    bars := [], races := [], savedScratch := [], savedQueues := [], savedArrivals := [] }
def gang0 : Gang :=
  { id := 0, launch := 0, seq := 0, x := 0, y := 0, z := 0, stage := 0, gangid := 0, cluster := 0, firstSlot := 0, wgs := [wg0],
    bars := [], resident := true, stopping := false, saved := false, savedArray := [], savedCmds := [] }
def g0 (w : Wave) : State := { m0 w with gangs := [gang0] }

theorem witness_ScratchpadComplete :
    (memWave .i32).Plain ∧ (g0 (memWave .i32)).Ready (memWave .i32) (M .i32) [regField false (.v 1), .group isSca 1 1 (.s 8), offsetField .zero] []
    ∧ (g0 (memWave .i32)).Ready (memWave .i32) (M .i32) [regField false (.s 1), .group isSca 1 1 (.s 8), offsetField .zero] [offsetField .zero]
    ∧ (∀ i ∈ actLanes false 1,
        okIs ((g0 (memWave .i32)).windowAligned (memWave .i32).gang (laneOffset (memWave .i32) (M .i32) (.s 8) .zero i) 4) (fun _ => true) = true)
    ∧ (g0 (memWave .i32)).Ready (memWave .i32) (M .i32) [valueField false (.v 1), .group isSca 1 1 (.s 8), offsetField .zero] [] :=
  ⟨plain_of (by decide +kernel), ready_of rfl (by decide +kernel), ready_of rfl (by decide +kernel), by decide +kernel,
   ready_of rfl (by decide +kernel)⟩

/-- LDS and STS that a hold keeps back. -/
theorem witness_scratchQueued :
    let w := heldWave .i32 .wg
    let s := { heldState .i32 .wg with gangs := [gang0] }
    w.kind = .launched ∧ w.det = none
    ∧ s.Ready w (M .i32) [regField false (.v 1), .group isSca 1 1 (.s 8), offsetField .zero] []
    ∧ s.Ready w (M .i32) [valueField false (.v 1), .group isSca 1 1 (.s 8), offsetField .zero] []
    ∧ (∀ i ∈ actLanes false 1, okIs (s.windowAligned w.gang (laneOffset w (M .i32) (.s 8) .zero i) 4) (fun _ => true) = true)
    ∧ ((s.settleHolds w.id).scratchWaits w ((actLanes false 1).map (laneOffset w (M .i32) (.s 8) .zero))).isNone = false
    ∧ execMask w (M .i32) ≠ 0 :=
  ⟨rfl, rfl, ready_of rfl (by decide +kernel), ready_of rfl (by decide +kernel), by decide +kernel, by decide +kernel,
   by decide +kernel⟩

/-! ### Synchronisation, queues, clocks -/

/-- The gang's scratchpad holds a barrier word at 0 that expects one arrival, and core 0's queue 15 a record. -/
def b0 (w : Wave) : State := (g0 w).modCore 0 fun k =>
  { k with scratch := k.scratch.writeN 0 (leBytes 8 1), queues := k.queues.set 15 [splat 7] }

theorem witness_BarrierWordRule : barValid (65535 + 2 ^ 48) = true ∧ (65535 + 2 ^ 48 : Nat) < 2 ^ 64
    ∧ bitsOf (65535 + 2 ^ 48) 47 32 + 65534 < bitsOf (65535 + 2 ^ 48) 31 0
    ∧ bitsOf (65535 + 2 ^ 48) 31 0 ≤ bitsOf (65535 + 2 ^ 48) 47 32 + 65535 := by decide +kernel

theorem witness_BarrierInstructions :
    let w := memWave .i32
    let s := b0 w
    let s1 := s.switched w (M .i32)
    let w1 := w.switched (M .i32)
    let det : Wave := { w with det := some { buffer := [], retired := 0, ended := false, atEnd := true, tried := false } }
    s.ReadyClear w (M .i32) ([Field.group isSca 1 1 (.s 63)] ++ uniFields [.s 8, .zero]) (uniFields [.s 8, .zero])
    ∧ okIs (s.barWord? w 0) (· == 1) = true ∧ failIs (s.barWord? w 0x10000) (fun _ => true) = true
    ∧ s.ReadySwitch w (M .i32) (uniFields [.s 8, .zero]) (uniFields [.s 8, .zero]) ∧ w.isDet = false
    ∧ okIs (s1.barWord? w1 0) (fun x => barPhase x == 0) = true
    ∧ s.ReadySwitch w (M .i32) (uniFields [.s 0, .ones]) (uniFields [.s 0, .ones])
    ∧ failIs (s1.barWord? w1 0x10000) (fun _ => true) = true
    ∧ (b0 det).ReadySwitch det (M .i32) (uniFields [.s 8, .zero]) (uniFields [.s 8, .zero]) ∧ det.isDet = true
    ∧ s.ReadySwitch w (M .i32) (uniFields [.ones, .zero]) (uniFields [.ones, .zero])
    ∧ (s1.barCheck w1 (M .i32).atSwitch 0xFFFFFFFF#32 0).isNone = true ∧ (barScope? 0).isSome = true
    ∧ (s1.barCheck w1 (M .i32).atSwitch 0xFFFFFFFF#32 0xFFFFFFFF#32).isSome = true :=
  ⟨clear_of rfl (by decide +kernel), by decide +kernel, by decide +kernel, switch_of rfl (by decide +kernel), rfl,
   by decide +kernel, switch_of rfl (by decide +kernel), by decide +kernel, switch_of rfl (by decide +kernel), rfl,
   switch_of rfl (by decide +kernel), by decide +kernel, by decide +kernel, by decide +kernel⟩

theorem witness_QueuesComplete :
    let w := memWave .i32
    (15 : BitVec 8).toNat < 16 ∧ (∀ h, w.kind ≠ .combiner h)
    ∧ (b0 w).ReadyClear w (M .i32) ([Field.group isSca 1 1 (.s 63)] ++ [Field.group isVec 1 1 (.v 127)]) []
    ∧ (b0 w).mayQueue w 15 = true ∧ (m0 w).ReadyClear w (M .i32) ([Field.group isSca 1 1 (.s 63)] ++ [Field.group isVec 1 1 (.v 127)]) []
    ∧ (m0 w).mayQueue w 15 = false
    ∧ (b0 w).ReadySwitch w (M .i32) [.group isVec 1 1 (.v 127)] [] ∧ ((b0 w).core w.core).queues[(15 : Fin 16)].length ≠ 0
    ∧ w.isDet = false ∧ ((b0 w).core w.core).queues[(14 : Fin 16)].length = 0
    ∧ (b0 w).Ready w (M .i32) [.group isSca 1 1 (.s 63)] [] ∧ (m0 w).Ready w (M .i32) [.group isSca 1 1 (.s 63)] [] :=
  ⟨by decide, fun _ h => (nomatch h), clear_of rfl (by decide +kernel), by decide +kernel, clear_of rfl (by decide +kernel),
   by decide +kernel, switch_of rfl (by decide +kernel), by decide +kernel, rfl, by decide +kernel,
   ready_of rfl (by decide +kernel), ready_of rfl (by decide +kernel)⟩

theorem witness_ClocksComplete : (W .i32).kind = .launched
    ∧ (S .i32).Ready (W .i32) (P .i32) [.group isSca 2 2 (.s 62)] [] ∧ (S .i32).Ready (W .i32) (P .i32) [] [] :=
  ⟨rfl, ready _ (by decide +kernel), ready _ (by decide +kernel)⟩
/-! ### Atomics, COMB, the combiner group -/

/-- A task of a version, held by a wave, and the version. -/
def versionWave (t : ElemType) : Wave := { memWave t with task := some { index := 0, mode := .versioned 3, pull := 0x10000 } }
def version0 : Version :=
  { part := 0, ver := 3, bytes := [], written := [], stamps := [], claimed := [], atomics := [], links := [] }
def versionState (t : ElemType) : State := { m0 (versionWave t) with versions := [version0] }
/-- The checks of an atomic of lane 0. -/
def atomicChecks (s : State) (w : Wave) (p : Path) (a : Operand) : Except TrapInfo (List (Fin 32 × Nat × Nat)) :=
  collectLanes ((actLanes false (execMask w p)).map fun j => (j, pairEa w p a j, s.place w (pairEa w p a j) 4 .rw)) none

theorem witness_AtomicsComplete :
    let w := memWave .i32
    let s := memState .i32
    let f := fun (cas nw : Bool) => atomicFields cas nw false (.v 0) (.s 0) .zero
    let u := fun (cas nw : Bool) => atomicUniform cas nw false (.v 0) (.s 0) .zero
    (∀ op ∈ [AtomicOp.add, .min, .max, .and, .or, .xor, .xchg, .cas], atomicType op .i32 = true)
    ∧ (∀ cas nw : Bool, s.ReadyClear w (M .i32) (f cas nw) (u cas nw)) ∧ w.Plain ∧ w.versioned = false
    ∧ okIs (atomicChecks s w (M .i32) (.s 0)) (fun l => l.length == 1) = true
    ∧ failIs (atomicChecks s w (M .i32) (.s 4)) (fun _ => true) = true
    ∧ s.ReadyClear w (M .i32) (atomicFields false false false (.v 0) (.s 4) .zero) (atomicUniform false false false (.v 0) (.s 4) .zero)
    ∧ heldAtomic .add true .i32 = true ∧ (versionWave .i32).holds = []
    ∧ (versionState .i32).versionOf? (versionWave .i32) = some version0
    ∧ okIs (atomicChecks (versionState .i32) (versionWave .i32) (M .i32) (.s 0)) (fun l => l.length == 1) = true
    ∧ (versionState .i32).ReadyClear (versionWave .i32) (M .i32) (f false true) (u false true) :=
  ⟨by decide +kernel, fun cas nw => clear_of rfl (by revert cas nw; decide +kernel), plain_of (by decide +kernel), rfl,
   by decide +kernel, by decide +kernel, clear_of rfl (by decide +kernel), rfl, rfl, by decide +kernel, by decide +kernel,
   clear_of rfl (by decide +kernel)⟩

/-- A COMB request of lane 0, the batch of it at home 0, and its combiner wave. -/
def comb0 : CombReq :=
  { req := (memState .i32).requester (memWave .i32) 0x10000, obj := 0x10000, objVa := 0x10000, arg := 5, lane := 0, op := 1,
    infl := none, msg := 9 }
def batch0 : Batch :=
  { obj := 0x10000, reqs := [comb0], header := 0, nlines := 1, staged := [], replies := [], wave := 1, start := 0, len := 4 }
def combinerWave : Wave := { memWave .i32 with kind := .combiner 0 }
def combinerState : State := (m0 combinerWave).modHome 0 fun h => { h with batch := some batch0 }

theorem witness_CombAndCombiner :
    let w := memWave .i32
    let s := memState .i32
    s.ReadyClear w (M .i32) (combFields false (.v 2) (.s 0) .zero) (combUniform false (.v 2) (.s 0) .zero) ∧ w.Plain
    ∧ okIs (s.combLanes w (M .i32) false (.v 2) (.s 0) .zero) (fun l => l.length == 1) = true
    ∧ s.ReadyClear w (M .i32) (combFields true (.v 2) (.s 4) .zero) (combUniform true (.v 2) (.s 4) .zero)
    ∧ failIs (s.combLanes w (M .i32) true (.v 2) (.s 4) .zero) (fun _ => true) = true
    ∧ combinerWave.kind = .combiner 0 ∧ (combinerState.home 0).batch = some batch0
    ∧ combinerState.Ready combinerWave (M .i32) [.group isVec 2 2 (.v 126)] [] ∧ combinerState.Ready combinerWave (M .i32) [] []
    ∧ (M .i32).mask = batch0.lanes ∧ batch0.headerKept = true :=
  ⟨clear_of rfl (by decide +kernel), plain_of (by decide +kernel), by decide +kernel, clear_of rfl (by decide +kernel),
   by decide +kernel, rfl, rfl, ready_of rfl (by decide +kernel), ready_of rfl (by decide +kernel), by decide +kernel,
   by decide +kernel⟩

/-! ### The homes -/

/-- A deferred result that has come whole. -/
def reply0 (k : DeferKind) : Inflight :=
  { id := 5, kind := k, dst := [.v 127], uniform := false, mask := 1, vals := [splat 7], waiting := [], due := 0, failed := [],
    acquire := some .dev, pc := 0x10000 }
def replyWave (k : DeferKind) : Wave := { memWave .i32 with inflight := [reply0 k] }

theorem witness_RepliesWrite : ∀ k ∈ [DeferKind.load, .loadAcquire, .lds, .qpop, .tkpull, .atomic, .comb],
    (m0 (replyWave k)).wave? 1 = some (replyWave k) ∧ (replyWave k).inflight.find? (fun x => x.id == 5) = some (reply0 k)
    ∧ (reply0 k).arrived = true ∧ (reply0 k).vals ≠ [] ∧ (reply0 k).dst.Nodup := fun k _ => ⟨rfl, rfl, rfl, by simp [reply0], by simp [reply0]⟩

theorem witness_HomeBytes : okIs ((memState .i32).ensureL2 512 1 0) (fun x => x.2.homes.any fun h => !h.lines.isEmpty) = true
    ∧ okIs ((memState .i32).homeWrite 0x1007F [5] 1 0) (fun t => (t.l2Line? 512).isSome) = true
    ∧ okIs ((memState .i32).ensureL2 512 1 0) (fun x => (x.2.l2Line? 512).isSome && okIs (x.2.homeWrite 0x10000 [5] 1 0) fun _ => true)
        = true := by decide +kernel

/-- A message to the home of the placed page, first of its kind there, and the state that holds it. -/
def msg0 (op : HomeOp) : Message := { id := 9, home := homeOf 0x10000, req := comb0.req, op := op }
def msgState (op : HomeOp) : State := { memState .i32 with messages := [msg0 op] }
def atomic0 : AtomicReq :=
  { op := .add, type := .i32, round := .rne, sat := false, pa := 0x10000, ea := 0x10000, lane := 0, val := 1, cmp := 0, infl := none }
def lane0 : LaneWait := { lane := 0, ea := 0x10000, pa := 0x10000, width := 4, signed := true, own := [] }
/-- The home serves the message. -/
def servedBool (op : HomeOp) : Bool := (msgState op).served? 9 == some (msg0 op)
def release0 (a : ReleaseAct) : Release := { id := 4, req := comb0.req, waits := Waits.none, act := a }
def releaseState (a : ReleaseAct) : State := { b0 (memWave .i32) with releases := [release0 a] }
/-- A message of a versioned task, and the state that holds it. -/
def versionMsg (op : HomeOp) : Message := { msg0 op with req := { comb0.req with ver := some 3 } }
def versionMsgs (op : HomeOp) : State := { versionState .i32 with messages := [versionMsg op] }
/-- Format window 0 over the placed page: rows of 24 elements fp8e4 with scales e8m0, delivered as bf16; and a fill of its first
line. -/
def windowState : State :=
  let s := [(0, 2 ^ 40), (1, 196608), (2, 0x10000), (3, 0x10800), (4, 32), (5, 1), (6, 1 + 2 * 11 + 64 * 15 + 2048 * 10 + 65536 * 24)].foldl
    (fun (s : State) x => s.setReg (Reg.fw 0 x.1) (BitVec.ofNat 64 x.2)) (memState .i32)
  { s with messages := [{ id := 9, home := homeOf (2 ^ 40), req := comb0.req, op := .fill (2 ^ 35) none }] }

theorem witness_HomeSteps :
    (∀ op ∈ [HomeOp.fill 2048 none, .read 5 lane0, .write 0x10000 [1], .clean 512, .inval 512,
        .sector 0x10000 (Vector.replicate 32 1) 1 none, .sector 0x10000 (Vector.replicate 32 1) 1 (some RaceTag.none), .atomic atomic0],
      servedBool op = true)
    ∧ okIs (((msgState (.fill 2048 none)).dropMessage 9).ensureL2 512 1 0) (fun x =>
        (x.2.l2Line? 512).isSome && ((x.2.tagSector 2048 RaceTag.none).l2Line? 512).isSome
        && okIs (x.2.homeWrite 0x10000 [1] 1 0) (fun _ => true) && okIs (x.2.atomicAt comb0.req comb0.req.stamp atomic0 0) fun _ => true) = true
    ∧ (∀ op ∈ [HomeOp.write 0x10000 [1], .sector 0x10000 (Vector.replicate 32 1) 1 none],
        ((versionMsgs op).served? 9 == some (versionMsg op)
          && okIs (((versionMsgs op).dropMessage 9).ensureL2 512 1 ((versionMsgs op).masterOf (versionMsg op).req)) fun _ => true) = true)
    ∧ (msgState (.fill 2048 none)).wanted? 512 1 = some (msg0 (.fill 2048 none)) ∧ ((msgState (.fill 2048 none)).l2Line? 512).isNone = true ∧ inLineSpace 0x10000 = true
    ∧ okIs ((msgState (.fill 2048 none)).ensureL2 512 1 ((msgState (.fill 2048 none)).masterOf comb0.req)) (fun _ => true) = true
    ∧ (windowState.wanted? (2 ^ 33) 1).isSome = true ∧ (windowState.l2Line? (2 ^ 33)).isNone = true ∧ inExpanded (2 ^ 40) = true
    ∧ okIs (windowState.ensureL2 (2 ^ 33) 1 (windowState.masterOf comb0.req)) (fun _ => true) = true
    ∧ (atomic0.orderSensitive && (msgState (.atomic atomic0)).logBusy 1) = false
    ∧ (msgState (.comb comb0)).message? 9 = some (msg0 (.comb comb0)) ∧ (msgState (.comb comb0)).isFirst (msg0 (.comb comb0)) = true
    ∧ ((msgState (.comb comb0)).home (homeOf 0x10000)).combQ.length < 1024
    ∧ (let s := (memState .i32).modHome 0 fun h => { h with combQ := [comb0] }; (s.home 0).combQ = [comb0] ∧ s.combFree 0 = true)
    ∧ (let w : Wave := { combinerWave with clock := 4096 }
       let s := (m0 w).modHome 0 fun h => { h with batch := some batch0 }
       s.wave? batch0.wave = some w ∧ (s.home 0).batch = some batch0)
    ∧ (∀ a ∈ [ReleaseAct.none, .store [(0, .write 0x10000 [1])], .arrive 0 0 1, .bar 1 0, .plain [(none, 0x10000, 0x10000, [1])],
          .load 5 [lane0], .reads 5 [lane0], .lds 5 [], .sts [(0, [1])], .clean .dev true [0x10000], .prefetch [0x10000]],
        ((releaseState a).release? 4 == some (release0 a) && (releaseState a).waitsDone comb0.req Waits.none
          && (((releaseState a).settleHolds 1).wave? 1).isSome) = true)
    ∧ (let w := replyWave .load
       let s : State := { b0 w with releases := [release0 (.load 5 [lane0])] }
       ((s.settleHolds 1).wave? 1).isSome = true ∧ (w.inflight.find? fun y => y.id == 5).isSome = true ∧ s.waitsDone comb0.req Waits.none = true)
    ∧ ((memState .i32).served? 9).isNone = true := by decide +kernel
/-! ### Waking, ending, freezing -/

/-- A path that waits. -/
def blockedPath (c : WakeCond) : Path := { M .i32 with status := .blocked c }
def blockedWave (c : WakeCond) : Wave := { memWave .i32 with paths := [blockedPath c] }
/-- A launch of one gang that needs nothing. -/
def record0 : LaunchRec :=
  { entry := 0x10000, dimx := 1, dimy := 1, dimz := 1, stages := 1, persist := false, det := false, prio := 0, qmask := 0xFFFF,
    scratch := 768, sregs := 16, vblk := 2, nwg := 1, nwv := 1, quantum := 0, remap := Vector.replicate 8 0, deps := [], done := 0,
    windows := [] }
def launch0 : Launch :=
  { slot := 0, seq := 0, asid := 1, part := 0, system := false, record := record0, depPas := [], donePa := none, ready := none,
    unplaced := 0, units := 1, gangsEnded := 0, bars := [], det := none }
def l0 (w : Wave) : State := { g0 w with launches := [launch0], seq := 1 }

theorem witness_WaveSteps :
    let frozen : Wave := { memWave .i32 with frozen := some (1, 0) }
    let ended : Wave := { memWave .i32 with exited := true }
    let rec0 : FreezeRecord := { master := 0, cause := 1, code := 0 }
    let ring : State := { memState .i32 with freezeRecords := [rec0] }
    (∀ c ∈ [WakeCond.watch, .reply [.v 1] true, .drain (TrapInfo.plain .soft) 0x10000 0],
      ((m0 (blockedWave c)).wave? 1 == some (blockedWave c) && (blockedWave c).path? Tag.root == some (blockedPath c)
        && (blockedWave c).frozen.isNone && !(blockedWave c).stopped && !(blockedPath c).halted && (blockedWave c).det.isNone
        && (m0 (blockedWave c)).wakes (blockedWave c) c && (blockedWave c).repliesIn [.v 1]
        && (blockedWave c).inflight.all Inflight.settled && (blockedWave c).task.isNone) = true)
    ∧ (m0 (blockedWave (.tick 1000))).wakes (blockedWave (.tick 1000)) (.tick 1000) = false
    ∧ ((m0 (blockedWave (.tick 1000))).cancelNow? (blockedWave (.tick 1000))).isNone = true
    ∧ ended.inflight.all Inflight.arrived = true ∧ ((l0 ended).endWave ended).isSome = true ∧ ended.frozen = none ∧ ended.det = none
    ∧ (l0 ended).queueLeft 1 = false
    ∧ (ring.reg Reg.frzWr).toNat + 1 < 2 ^ 64 ∧ ((ring.reg Reg.frzWr).toNat + 2 ^ 64 - (ring.reg Reg.frzRd).toNat) % 2 ^ 64 < 256
    ∧ ring.serves ((bitsOf (ring.reg Reg.frzBase).toNat 51 12 * 4096 + 16 * ((ring.reg Reg.frzWr).toNat % 256)) / 128) = true
    ∧ (let m := BitVec.ofNat 64 (2 ^ 56 + 2 ^ 40); (m0 frozen).mastered (frzMaster m) = [frozen] ∧ frozen.again = none
        ∧ ((m0 frozen).freezeRecords.any fun r => r.master == frzMaster m) = false
        ∧ (memState .i32).mastered (frzMaster m) = [memWave .i32] ∧ ((memWave .i32).paths.all fun p => p.stage == .none && p.status == .ready) = true
        ∧ bitsOf (frzMaster m).toNat 63 60 = 1
        ∧ ((l0 (memWave .i32)).mastered (frzMaster m)).findSome? (l0 (memWave .i32)).launchOf? = some launch0
        ∧ ((l0 (memWave .i32)).launchWaves launch0).all (l0 (memWave .i32)).pinFree = true) := by decide +kernel

/-! ### The copy engine -/

/-- A COPY of one byte to the byte behind it, in the words of its block (R190), and one that copies to a window. -/
def copyBytes (ctrl : Nat) (sd : Nat × Nat) : List Byte :=
  leBytes 8 ctrl ++ leBytes 8 sd.1 ++ leBytes 8 sd.2 ++ leBytes 8 (1 + 2 ^ 24 + 2 ^ 40 + 2 ^ 52)
    ++ List.replicate 24 0 ++ leBytes 8 0
def copy0 : List Byte := copyBytes 0 (0x10100, 0x10101)
/-- The gang's state with a block at the start of the page. -/
def blockState (w : Wave) (bs : List Byte) : State := let s := g0 w; { s with mem := s.mem.writeN 0x10000 bs }
def engineFields : List Field := [.group isSca 2 2 (.s 62)] ++ [baseField (.s 0), .src .zero]
def detWave : Wave :=
  { memWave .i32 with det := some { buffer := [], retired := 0, ended := false, atEnd := true, tried := false } }

/-- A command as its instruction leaves it, for a path that waits for its acceptance. -/
def cmd0 (state : CmdState) (bs : List Byte) : EngCmd :=
  { id := 7, kind := .copy, word := 0, req := comb0.req, gang := 0, wg := 0, system := false, blkVa := 0x10000, blk := bs,
    round := .rne, promise := 50, state := state, srcPages := [(1, 1)], dstPages := [(1, 1)], amaxPa := 0, blkPa := 0, image := none,
    hidden := [], plan := none, det := false, order := 0, remaps := [], netOps := [], release := none, dst := some 62, pc := 0x10000, early := [] }
def waitingPath : Path := { M .i32 with stage := .command 7 }
def waitingWave : Wave := { memWave .i32 with paths := [waitingPath] }
def engineState (w : Wave) (c : EngCmd) : State := (blockState w c.blk).modCore 0 fun k => { k with engine := [c] }

/-- The block's line is dirty in the core's own L1. -/
def dirtyBlock (s : State) : State := s.modCore 0 fun k =>
  { k with l1 := [{ line := 512, sectors := Vector.replicate 4 { Sector.empty with st := .d, mask := 1 } }], fifo := [.line 512] }

theorem witness_EngineCommands :
    let w := memWave .i32
    let s := blockState w copy0
    let bad := blockState w (List.replicate 64 0)
    let t := engineState waitingWave (cmd0 .issued copy0)
    let u := engineState waitingWave (cmd0 .issued (List.replicate 64 0))
    s.Ready w (M .i32) engineFields [.src .zero] ∧ s.quiet w = true ∧ w.holds = []
    ∧ blockEa w (M .i32) (.s 0) .zero = 0x10000 ∧ (∀ k ∈ [CmdKind.copy, .copym, .quant2], blockAddrFault? 0x10000 (blockSize k) = none)
    ∧ blockAddrFault? (blockEa w (M .i32) (.s 0) .ones) 64 ≠ none
    ∧ ((s.settleHolds 1).blockSync w 0x10000).isNone = true
    ∧ okIs (((s.settleHolds 1).blockRead w 0x10000).blockBytes w 0x10000 64) (· == copy0) = true
    ∧ ((s.settleHolds 1).blockSync w 0).isNone = true
    ∧ failIs (((s.settleHolds 1).blockRead w 0).blockBytes w 0 64) (fun _ => true) = true
    ∧ okIs (((s.settleHolds 1).blockRead w 0x10000).checkCommand w (M .i32) .copy 0x10000 copy0) (fun _ => true) = true
    ∧ failIs (((bad.settleHolds 1).blockRead w 0x10000).checkCommand w (M .i32) .copy 0x10000 (List.replicate 64 0)) (·.code == .engFault) = true
    ∧ (dirtyBlock s).Ready w (M .i32) engineFields [.src .zero] ∧ (dirtyBlock s).quiet w = true
    ∧ (((dirtyBlock s).settleHolds 1).blockSync w 0x10000).isSome = true ∧ waitingWave.path? waitingPath.tag = some waitingPath
    ∧ w.isDet = false ∧ (blockState detWave copy0).Ready detWave (M .i32) engineFields [.src .zero] ∧ detWave.isDet = true
    ∧ t.cmd? 0 7 = some (cmd0 .issued copy0) ∧ t.canAccept 0 (cmd0 .issued copy0) = true ∧ t.wave? 1 = some waitingWave
    ∧ waitingWave.paths.find? (fun q => q.stage == .command 7) = some waitingPath
    ∧ okIs (t.checkCommand waitingWave waitingPath .copy 0x10000 copy0) (fun _ => true) = true
    ∧ failIs (u.checkCommand waitingWave waitingPath .copy 0x10000 (List.replicate 64 0)) (fun _ => true) = true :=
  ⟨ready_of rfl (by decide +kernel), by decide +kernel, rfl, by decide +kernel, by decide +kernel, by decide +kernel,
   by decide +kernel, by decide +kernel, by decide +kernel, by decide +kernel, by decide +kernel, by decide +kernel,
   ready_of rfl (by decide +kernel), by decide +kernel, by decide +kernel, rfl, rfl, ready_of rfl (by decide +kernel),
   rfl, by decide +kernel, by decide +kernel, rfl, rfl, by decide +kernel, by decide +kernel⟩

/-- A workgroup with one enabled remap entry, and its gang. -/
def mapped : State :=
  { b0 (memWave .i32) with gangs := [{ gang0 with wgs := [{ wg0 with remap := wg0.remap.set 7 (BitVec.ofNat 32 (2 ^ 30 + 2 ^ 10)) }] }] }

theorem witness_EngineWaits :
    let w := memWave .i32
    let s := b0 w
    let s1 := s.switched w (M .i32)
    let w1 := w.switched (M .i32)
    let late := engineState w { cmd0 .accepted copy0 with promise := 0 }
    s.ReadySwitch w (M .i32) (uniFields [.s 8, .ones]) (uniFields [.s 8, .ones]) ∧ okIs (s1.barWord? w1 0) (fun _ => true) = true
    ∧ s.ReadySwitch w (M .i32) (uniFields [.s 0, .zero]) (uniFields [.s 0, .zero]) ∧ failIs (s1.barWord? w1 0x10000) (fun _ => true) = true
    ∧ s.ReadySwitch w (M .i32) [.group isSca 2 2 (.s 0)] [] ∧ s.tick < (scalar64 w (.s 0)).toNat
    ∧ s.ReadySwitch w (M .i32) [.group isSca 2 2 (.s 8)] [] ∧ (scalar64 w (.s 8)).toNat ≤ s.tick
    ∧ (∀ c ∈ (s.core w.core).accepted, c.req.wave = w.id → (scalar64 w (.s 8)).toNat < c.promise)
    ∧ late.ReadySwitch w (M .i32) [.group isSca 2 2 (.s 8)] [] ∧ (late.missed? w 0).isSome = true ∧ w.handler = none
    ∧ (let h : Wave := { w with handler := some (Tag.root, 0) }
       let t := engineState h { cmd0 .accepted copy0 with promise := 0 }
       t.ReadySwitch h (M .i32) [.group isSca 2 2 (.s 8)] [] ∧ ((t.switched h (M .i32)).missed? (h.switched (M .i32)) 0).isSome = true)
    ∧ (let w : Wave := { memWave .i32 with s := (memWave .i32).s.set 9 0x80000007 }
       ({ mapped with waves := [w] } : State).ReadyClear w (M .i32) (uniFields [.s 9]) (uniFields [.s 9])
       ∧ mapped.pubEntry? w (srcUni w (M .i32) (.s 9)) = some (true, 0, 7)
       ∧ mapped.hiddenFailed.contains (pubKey w (true, 0, 7)) = false) :=
  ⟨switch_of rfl (by decide +kernel), by decide +kernel, switch_of rfl (by decide +kernel), by decide +kernel,
   switch_of rfl (by decide +kernel), by decide +kernel, switch_of rfl (by decide +kernel), by decide +kernel, by decide +kernel,
   switch_of rfl (by decide +kernel), by decide +kernel, rfl, ⟨switch_of rfl (by decide +kernel), by decide +kernel⟩,
   clear_of rfl (by decide +kernel), by decide +kernel, by decide +kernel⟩

/-- A command that writes to a remote device, and one that reads a drive. -/
def remote0 : List Byte := copyBytes (5 * 2 ^ 52) (0x10100, 0x10000)
def drive0 : List Byte :=
  leBytes 8 (4 * 2 ^ 48) ++ leBytes 8 (2 ^ 48) ++ leBytes 8 0x10000 ++ leBytes 8 (16 + 2 ^ 24 + 2 ^ 40 + 2 ^ 52)
    ++ List.replicate 24 0 ++ leBytes 8 0
/-- The device's route to device 0 is itself's port 0. -/
def routed (s : State) : State := s.setReg (Reg.klRoute 0) (BitVec.ofNat 64 (2 ^ 63))
/-- A PUBLISH of remap entry 7 that waits for nothing. -/
def publish0 : Publish :=
  { id := 3, req := comb0.req, gang := 0, remap := true, wg := 0, entry := 7, release := 2, commands := [] }

theorem witness_EngineSteps :
    let c := cmd0 .accepted copy0
    let s := engineState (memWave .i32) c
    let a := s.atHome 0 (s.linesOfCmd 0 c) 1
    let gone : EngCmd := { cmd0 .accepted (copyBytes 0 (0x50000000, 0x10101)) with srcPages := [(0x5000, 0x5000)] }
    let u := engineState (memWave .i32) gone
    s.cmd? 0 7 = some c ∧ s.engineGoes 0 c = true ∧ c.det = false ∧ s.homesFree 0 (s.linesOfCmd 0 c) = true
    ∧ ((a.readyPlan? 0 c).any fun p => !p.crosses && p.causes.isEmpty && (a.writeEarly? 0 c p 0).isSome
        && ((p.rest c).writes[0]?).isSome) = true ∧ a.followRoom 0 c = true
    ∧ [512].any ((dirtyBlock s).core 0).dirtyLine = true
    ∧ u.cmd? 0 7 = some gone ∧ u.engineFrozen 0 = false ∧ gone.sided 4 = false ∧ gone.det = false
    ∧ ((u.readyPlan? 0 gone).any fun p => !p.crosses && p.causes == [0x11]
        && u.homesFree 0 (u.readsOf 0 gone ++ (p.rest gone).lines gone)) = true
    ∧ (let r := cmd0 .accepted remote0
       let v := routed (engineState (memWave .i32) r)
       let b := v.atHome 0 (v.linesOfCmd 0 r) 1
       v.cmd? 0 7 = some r ∧ v.engineGoes 0 r = true ∧ v.homesFree 0 (v.linesOfCmd 0 r) = true ∧ (b.readyPlan? 0 r).isNone = true
       ∧ r.state = .accepted ∧ r.sided 5 = true ∧ (b.sendPlan 0 r).crosses = false ∧ (b.sendPlan 0 r).causes = [])
    ∧ (let x := { mapped with publishes := [publish0] }
       x.publishes[0]? = some publish0 ∧ (x.releases.any fun r => r.id == publish0.release) = false
       ∧ (publish0.commands.any fun c => (x.cmd? c.1 c.2).isSome) = false ∧ ((x.publishes.take 0).any fun y => publish0.same y) = false
       ∧ x.pubBusy publish0 = false ∧ (x.wg? 0 0).isSome = true) := by decide +kernel

theorem witness_EngineSteps_drive :
    let c := cmd0 .accepted drive0
    let s := engineState (memWave .i32) c
    s.cmd? 0 7 = some c ∧ s.engineFrozen 0 = false ∧ c.det = false ∧ c.sided 4 = true ∧ (CopyBlock.ofBytes c.blk).sspace = 4
    ∧ (List.replicate 16 (0 : Byte)).length = (CopyBlock.ofBytes c.blk).total ∧ (CopyBlock.ofBytes c.blk).dspace ≠ 4 := by decide +kernel

set_option maxRecDepth 100000 in
theorem witness_EngineSteps_drive_lands :
    let c := cmd0 .accepted drive0
    let s := engineState (memWave .i32) c
    let plan := s.planOf 0 c (List.replicate 16 0)
    let p : EngPlan := { plan with writes := plan.writes.filter fun w => w.space != .archive }
    (s.homesFree 0 (s.readsOf 0 c ++ p.lines c) && p.causes.isEmpty && s.followRoom 0 c) = true := by decide +kernel
/-! ### The matrix array -/

/-- An MMA of one step over bf16, its region one pair (R216). -/
def mma0 : List Byte :=
  leBytes 8 (10 * 2 ^ 39 + 10 * 2 ^ 34) ++ leBytes 4 0 ++ leBytes 4 192 ++ leBytes 8 0 ++ leBytes 4 0 ++ leBytes 4 192
    ++ List.replicate 24 0 ++ leBytes 8 0
/-- Group 0 belongs to ASID 2. -/
def owned (s : State) : State := s.setReg (Reg.accOwn 0 0) (BitVec.ofNat 64 (2 ^ 63 + 2))
def f32Wave : Wave := memWave .fp32

theorem witness_MatrixInstructions :
    let w := f32Wave
    let s := blockState w mma0
    let sys : Wave := { w with system := true }
    s.arrayRoom w = true ∧ w.holds = [] ∧ s.Ready w (M .fp32) [baseField (.s 0), .src .zero] [.src .zero]
    ∧ blockAddrFault? 0x10000 64 = none ∧ (s.settleHolds 1).blockSync w 0x10000 = none
    ∧ okIs ((s.settleHolds 1).blockBytes w 0x10000 64) (· == mma0) = true
    ∧ ((s.settleHolds 1).mmaFault? w (M .fp32) 0x10000 mma0).isNone = true
    ∧ ((owned s).mmaFault? w (M .fp32) 0x10000 mma0).isSome = true
    ∧ s.Ready w (M .fp32) [.src .zero] [.src .zero] ∧ (AccRegion.ofWord? 0).isSome = true
    ∧ s.refusedGroups 0 1 [0] = 0 ∧ (owned s).refusedGroups 0 1 [0] ≠ 0
    ∧ s.Ready w (M .fp32) [.group isVec 1 1 (.v 8), .src .zero] [.src .zero] ∧ accRow? 0 = some (0, 0) ∧ accType .fp32 = true
    ∧ s.Ready w (M .fp32) [.group isSca 2 2 (.s 10), .src .zero] [.src .zero]
    ∧ s.rangeFault? 0 (acccvtRanges { row := 0, rows := 1, col := 0, cols := 1 } 0 0 4) = none
    ∧ s.Ready w (M .fp32) [baseField (.s 0)] [] ∧ w.system = false
    ∧ (m0 sys).Ready sys (M .fp32) [baseField (.s 0)] [] ∧ blockAddrFault? 0x10000 128 = none
    ∧ okIs ((m0 sys).imagePages sys 0x10000 (shelfSize false)) (fun _ => true) = true
    ∧ s.Ready w (M .fp32) [.group isVec 2 2 (.v 126), .group isVec 2 2 (.v 4)] [] ∧ (s.core 0).rotLoading = false :=
  ⟨by decide +kernel, rfl, ready_of rfl (by decide +kernel), by decide +kernel, by decide +kernel, by decide +kernel, by decide +kernel,
   by decide +kernel, ready_of rfl (by decide +kernel), by decide +kernel, by decide +kernel, by decide +kernel,
   ready_of rfl (by decide +kernel), by decide +kernel, rfl, ready_of rfl (by decide +kernel), by decide +kernel,
   ready_of rfl (by decide +kernel), rfl, ready_of rfl (by decide +kernel), by decide +kernel, by decide +kernel,
   ready_of rfl (by decide +kernel), by decide +kernel⟩

/-- Sixteen entries stand in core 0's array queue. -/
def entry0 (op : ArrayOp) : ArrayEntry :=
  { id := 6, req := comb0.req, gang := 0, wg := 0, op := op, pc := 0x10000, issued := false, order := 0 }
def fullArray (s : State) : State := s.modCore 0 fun k => { k with arrayQ := List.replicate 16 (entry0 (.accz 0)) }
/-- A word of core 0's rotation shelf is lost: of shelf 1's pair 0. -/
def struckShelf (s : State) : State :=
  { s with struck := [{ core := 0, store := .rotation, word := (rotorWords 1 0).headD 0 }] }
/-- The wave of the ROT that names that byte. -/
def rotWave : Wave := { f32Wave with v := f32Wave.v.set 4 (splat 1) }

/-- The other sides of those rules: words that name no pair, a full queue, a lost byte, a block that cannot be read, a
row beyond the window, a pair's registers and a system's shelf load. -/
theorem witness_MatrixInstructions_else :
    let w := f32Wave
    let s := blockState w mma0
    let sys : Wave := { w with system := true }
    let pairWave := memWave .pair
    let nowhere : Wave := { w with s := w.s.set 9 0xFFFFFFFF }
    (dirtyBlock s).Ready w (M .fp32) [baseField (.s 0), .src .zero] [.src .zero]
    ∧ (((dirtyBlock s).settleHolds 1).blockSync w 0x10000).isSome = true ∧ blockAddrFault? 0x10004 64 ≠ none
    ∧ ((s.settleHolds 1).blockSync w 0).isNone = true
    ∧ failIs (((s.settleHolds 1).blockRead w 0).blockBytes w 0 64) (fun _ => true) = true
    ∧ okIs (((fullArray s).settleHolds 1 |>.blockRead w 0x10000).blockBytes w 0x10000 64) (· == mma0) = true
    ∧ ((((fullArray s).settleHolds 1).blockRead w 0x10000).mmaFault? w (M .fp32) 0x10000 mma0).isNone = true
    ∧ (((fullArray s).settleHolds 1).blockRead w 0x10000).arrayRoom w = false ∧ ((s.settleHolds 1).blockRead w 0x10000).arrayRoom w = true
    ∧ (fullArray s).arrayRoom w = false ∧ (fullArray s).refusedGroups 0 1 [0] = 0
    ∧ (blockState nowhere mma0).Ready nowhere (M .fp32) [.src (.s 9)] [.src (.s 9)]
    ∧ AccRegion.ofWord? 0xFFFFFFFF = none ∧ accRow? 0xFFFFFFFF = none
    ∧ (blockState pairWave mma0).Ready pairWave (M .pair) [.group isVec 2 2 (.v 8), .src .zero] [.src .zero] ∧ accType .pair = true
    ∧ (s.rangeFault? 0 (acccvtRanges { row := 0, rows := 1, col := 0, cols := 1 } 0xFFFFFFFC 0 4)).isSome = true
    ∧ okIs ((fullArray (m0 sys)).imagePages sys 0x10000 (shelfSize false)) (fun _ => true) = true ∧ (fullArray (m0 sys)).arrayRoom sys = false
    ∧ s.rotLost w (M .fp32) (.v 4) = 0
    ∧ (struckShelf (blockState rotWave mma0)).Ready rotWave (M .fp32) [.group isVec 2 2 (.v 126), .group isVec 2 2 (.v 4)] []
    ∧ ((struckShelf (blockState rotWave mma0)).core 0).rotLoading = false
    ∧ (struckShelf (blockState rotWave mma0)).rotLost rotWave (M .fp32) (.v 4) ≠ 0 :=
  ⟨ready_of rfl (by decide +kernel), by decide +kernel, by decide +kernel, by decide +kernel, by decide +kernel, by decide +kernel,
   by decide +kernel, by decide +kernel, by decide +kernel, by decide +kernel, by decide +kernel, ready_of rfl (by decide +kernel),
   by decide, by decide, ready_of rfl (by decide +kernel), rfl, by decide +kernel, by decide +kernel, by decide +kernel,
   by decide +kernel, ready_of rfl (by decide +kernel), by decide +kernel, by decide +kernel⟩

/-- An entry at the head of core 0's queue. -/
def arrayState (op : ArrayOp) : State := (g0 (replyWave .accrd)).modCore 0 fun k => { k with arrayQ := [entry0 op] }
/-- An MMA over a region of two rows, and core 0's predictor on, its thresholds the largest (R225). -/
def mma2 : List Byte := mma0.set 41 1
def predicted (s : State) : State := (s.setReg (Reg.mg 0 0) 1).setReg (Reg.mg 0 8) (BitVec.ofNat 64 (2 ^ 64 - 1))
/-- A word of core 0's Stacks is lost: the first of lane 0's record. -/
def struckStack (s : State) : State := { s with struck := [{ core := 0, store := .stacks, word := 0 }] }
def region0 : AccRegion := { row := 0, rows := 1, col := 0, cols := 1 }

theorem witness_ArraySteps :
    (∀ op ∈ [ArrayOp.accz 0, .accwr 255 96 1 (splat 1) (splat 2), .accrd 0 0 1 Mode.initial 5, .acccvt 0 0 0 (modeOf .fp32),
        .shelf false 0x10000 [(1, 1)], .mma 0x10000 mma0 0 none none, .mma 0x10000 mma0 0 (some [0x1000000]) none],
      ((arrayState op).core 0).head? = some (entry0 op))
    ∧ (AccRegion.ofWord? 0).isSome = true ∧ SMap.wf (fun _ => 0) ((arrayState (.accz 0)).core 0).acc = true
    ∧ (arrayState (.accz 0)).wave? 1 = some (replyWave .accrd)
    ∧ (replyWave .accrd).inflight.find? (fun x => x.id == 5) = some (reply0 .accrd) ∧ (reply0 .accrd).dst.length ≤ 2
    ∧ (AccRegion.ofWord? (MmaBlock.ofBytes mma0).region).isSome = true ∧ deltaOk [0x1000000] = false
    ∧ deltaOk ((arrayState (.accz 0)).mmaDelta 0 (MmaBlock.ofBytes mma0) { row := 0, rows := 1, col := 0, cols := 1 }) = true
    ∧ (arrayState (.accz 0)).regBit (Reg.accOwn 0 15) 63 = false ∧ (arrayState (.accz 0)).ownerBusy 0 0 = false
    ∧ ((arrayState (.accz 0)).setReg (Reg.accOwn 0 0) (BitVec.ofNat 64 (2 ^ 63 + 1))).ownerBusy 0 0 = true
    ∧ (16 : DWord).toNat % 16 = 0 ∧ (15 : DWord).toNat % 16 ≠ 0 ∧ SMap.wf regReset State.reset.regs = true
    ∧ (let s := arrayState (.mma 0x10000 mma0 0 none none)
       let m := MmaBlock.ofBytes mma0
       let ds := s.mmaDelta 0 m region0
       s.stepLost 0 0 m region0 ds 0 = false ∧ s.noReplay 0 0 m region0 ds 0 = true
       ∧ (MmaBlock.ofBytes mma2).region = 0x100 ∧ AccRegion.ofWord? 0x100 = some { region0 with rows := 2 }
       ∧ (predicted s).noReplay 0 0 (MmaBlock.ofBytes mma2) { region0 with rows := 2 } [] 0 = false
       ∧ deltaOk ((struckStack s).mmaDelta 0 m region0) = true
       ∧ (struckStack s).stepLost 0 0 m region0 ((struckStack s).mmaDelta 0 m region0) 0 = true)
    ∧ (let t := arrayState (.shelf false 0x10000 [(1, 1)])
       t.homesFree 0 (imageLines false 0x10000 [(1, 1)]) = true) := by decide +kernel
/-! ### Segments, links, tasks -/

/-- The gang's state with its registers and its memory written out. -/
def ms (w : Wave) (regs : SMap DWord) (mem : Memory) (ops : List LinkOp) : State :=
  { g0 w with regs := regs, mem := mem, linkOps := ops }

/-- A state that differs from `s0` by clean lines at its homes and in its cores' translations: reads alone lead there. -/
structure Seen (s0 s : State) : Prop where
  same : { s with homes := s0.homes, cores := s0.cores } = s0
  bare : ∀ c, (s.core c).l1 = [] ∧ (s.core c).lent = []
  quiet : ∀ x ∈ s0.regs, x.1 < 0x20400000000
  good : ∀ k, ∀ l ∈ (s.home k).lines, l.dirty = 0 ∧ (512 ≤ l.line → l.line < 2560 →
    ∀ i, i < 128 → byteAt l.data i = s0.mem.read (l.line * 128 + i))
  batch : ∀ k, (s.home k).batch = none

theorem Seen.modHome {s0 s : State} (h : Seen s0 s) (k : Fin 128) (f : List L2Line → List L2Line)
    (hf : ∀ l ∈ f (s.home k).lines, l ∈ (s.home k).lines ∨ (l.dirty = 0 ∧ (512 ≤ l.line → l.line < 2560 →
      ∀ i, i < 128 → byteAt l.data i = s0.mem.read (l.line * 128 + i)))) :
    Seen s0 (s.modHome k fun x => { x with lines := f x.lines }) := by
  have e : ∀ j, (s.modHome k fun x => { x with lines := f x.lines }).home j
      = if j = k then { s.home k with lines := f (s.home k).lines } else s.home j := by
    intro j
    simp only [State.modHome, State.setHome, State.home, Fin.getElem_fin, Vector.getElem_set, Fin.ext_iff]
    by_cases hk : j = k
    · simp [hk]
    · rw [if_neg (fun e => hk (Fin.ext e.symm)), if_neg fun e => hk (Fin.ext e)]
  refine ⟨h.same, h.bare, h.quiet, fun j l hl => ?_, fun j => ?_⟩
  · rw [e] at hl
    split at hl
    · rcases hf l hl with m | m
      · exact h.good k l m
      · exact m
    · exact h.good j l hl
  · rw [e]
    split
    · exact h.batch k
    · exact h.batch j

theorem get_quiet (d : DWord) (k : Nat) : ∀ m : SMap DWord, (∀ x ∈ m, x.1 < k) → SMap.get d m k = d
  | [], _ => rfl
  | (j, v) :: m, h => by
    have hj : j ≠ k := Nat.ne_of_lt (h (j, v) (by simp))
    have := get_quiet d k m fun x hx => h x (by simp [hx])
    simp only [SMap.get, SMap.at?, if_neg hj]
    split
    · rfl
    · exact this

/-- With no counter selected nothing is counted. -/
theorem Seen.count {s0 s : State} (h : Seen s0 s) (u : CounterUnit) (src n : Nat) : Seen s0 (s.count u src n) := by
  have hr : s.regs = s0.regs := by have := congrArg State.regs h.same; exact this
  have hb : ∀ k, s.regBit (Reg.counters u + 8 * k) 8 = false := fun k => by
    have hp : 0x20400000000 ≤ Reg.counters u + 8 * k := by simp only [Reg.counters]; omega
    have : s.reg (Reg.counters u + 8 * k) = 0 := by
      rw [State.reg, hr, get_quiet _ _ _ fun x hx => Nat.lt_of_lt_of_le (h.quiet x hx) hp]
      simp only [regReset]
      repeat (rw [if_neg (by omega)])
      rfl
    rw [State.regBit, this]
    rfl
  have hf : ∀ l : List Nat, l.foldl (fun t k => t.countOne u src n k) s = s := fun l => by
    induction l with
    | nil => rfl
    | cons k l ih => simp only [List.foldl_cons, State.countOne, hb k, Bool.false_and, Bool.false_eq_true, if_false]; exact ih
  rw [State.count, hf]
  exact h

theorem mapM_ok {α β ε : Type} (f : α → Except ε β) (g : α → β) (l : List α) (h : ∀ x ∈ l, f x = .ok (g x)) :
    l.mapM f = .ok (l.map g) := by
  induction l with
  | nil => rfl
  | cons x l ih => simp [List.mapM_cons, h x (by simp), ih fun y hy => h y (by simp [hy])]; rfl

section Seen
variable {w : Wave} {regs : SMap DWord} {mem : Memory} {ops : List LinkOp} {s : State}

theorem Seen.controllerByte (h : Seen (ms w regs mem ops) s) {pa : Nat} (hp : 0x10000 ≤ pa ∧ pa < 0x50000) :
    s.controllerByte pa = .ok (mem.read pa) := by
  have hk : s.controllers = Vector.replicate 8 { Controller.reset with pages := placePages } := congrArg State.controllers h.same
  have hc : ∀ k, s.ctl k = { Controller.reset with pages := placePages } := fun k => by
    simp [State.ctl, hk]
  have hs : (s.pageState pa).state ≠ 0 := by
    have : pa / 2 ^ 16 = 1 ∨ pa / 2 ^ 16 = 2 ∨ pa / 2 ^ 16 = 3 ∨ pa / 2 ^ 16 = 4 := by omega
    rw [State.pageState, hc]
    rcases this with e | e | e | e <;> rw [e] <;> decide
  have he : (s.entryOf pa).mode ≠ 15 := by
    rw [State.entryOf, hc]
    exact (by decide : ConcEntry.zero.mode ≠ 15)
  have hl : inLineSpace pa = true := by simp [inLineSpace]; omega
  have hw : s.lineWrites = [] := congrArg State.lineWrites h.same
  have ho : (s.ctl (mcOf pa)).overflow = [] := by rw [hc]; rfl
  have hm : s.mem = mem := congrArg State.mem h.same
  simp only [State.controllerByte, hl, State.ctlByte, hw, ho, hm, if_true, List.reverse_nil, List.find?_nil]
  exact (if_neg hs).trans ((if_neg he).trans rfl)

theorem Seen.homeByte (h : Seen (ms w regs mem ops) s) {pa : Nat} (hp : 0x10000 ≤ pa ∧ pa < 0x50000) :
    s.homeByte pa = .ok (mem.read pa) := by
  rw [State.homeByte]
  split
  · rename_i l hl
    have e : l.line = pa / 128 := by simpa using List.find?_some hl
    have m := (h.good _ l (List.mem_of_find?_eq_some hl)).2 (by omega) (by omega) (pa % 128) (Nat.mod_lt _ (by decide))
    rw [m, e]
    exact congrArg (fun x => Except.ok (mem.read x)) (by omega)
  · exact h.controllerByte hp

theorem Seen.homeBytes (h : Seen (ms w regs mem ops) s) (n : Nat) : ∀ pa, 0x10000 ≤ pa → pa + n ≤ 0x50000 →
    s.homeBytes pa n = .ok ((List.range' pa n).map mem.read) := by
  induction n with
  | zero => intros; rfl
  | succ n ih =>
    intro pa h1 h2
    simp only [State.homeBytes, h.homeByte ⟨h1, by omega⟩, ih (pa + 1) (by omega) (by omega)]
    rfl

theorem Seen.install (h : Seen (ms w regs mem ops) s) {line : Nat} {d : Vector Byte 128} {asid : BitVec 8} {m : DWord} {t : State}
    (hd : 512 ≤ line → line < 2560 → ∀ i, i < 128 → byteAt d i = mem.read (line * 128 + i))
    (e : s.install line d 0 asid m = .ok t) : Seen (ms w regs mem ops) t := by
  have put : ∀ u, Seen (ms w regs mem ops) u → Seen (ms w regs mem ops) (u.modHome (homeOf (line * 128)) fun x =>
      { x with lines := { line := line, data := d, dirty := 0, tags := Vector.replicate 4 RaceTag.none, dep := DepCounter.zero,
                          asid := asid } :: x.lines }) := fun u hu =>
    hu.modHome _ (fun x => _ :: x) fun x hx => (List.mem_cons.mp hx).elim (fun hx => .inr (hx ▸ ⟨rfl, hd⟩)) .inl
  simp only [State.install] at e
  split at e
  · split at e
    · cases e
    · rename_i v hv
      cases e
      refine put _ ?_
      have hz : v.dirty = 0 := by
        have hm : v ∈ (s.home (homeOf (line * 128))).lines := by
          simp only [State.victim?] at hv
          have sub : ∀ x, x ∈ List.filter (fun l => !(s.inBatch l.line) && !(s.hasVersionData l.line))
              ((s.home (homeOf (line * 128))).lines.filter fun l => l2Set l.line == l2Set line).reverse →
              x ∈ (s.home (homeOf (line * 128))).lines := fun x hx =>
            (List.mem_filter.mp (List.mem_reverse.mp (List.mem_filter.mp hx).1)).1
          split at hv
          · rename_i hp
            cases hv
            exact sub _ (List.mem_of_find?_eq_some hp)
          · exact sub _ (List.mem_of_mem_head? hv)
        exact (h.good _ v hm).1
      simp only [State.sendLine, hz, if_true]
      exact h.modHome _ (fun x => x.filter fun l => l.line != v.line) fun x hx => .inl (List.mem_filter.mp hx).1
  · cases e
    exact put _ h

theorem Seen.controllerLine (h : Seen (ms w regs mem ops) s) {line : Nat} {d : Vector Byte 128} (e : s.controllerLine line = .ok d)
    (h1 : 512 ≤ line) (h2 : line < 2560) (i : Nat) (hi : i < 128) : byteAt d i = mem.read (line * 128 + i) := by
  rw [State.controllerLine, mapM_ok _ (fun i => mem.read (line * 128 + i)) _ fun i hi => h.controllerByte (by
    have := List.mem_range.mp hi; omega)] at e
  have e : vecOf 128 ((List.range 128).map fun i => mem.read (line * 128 + i)) = d := Except.ok.inj e
  rw [← e]
  simp only [byteAt, vecOf, List.getD, List.getElem?_map]
  rw [Vector.getElem?_eq_getElem hi]
  simp

theorem Seen.ensure (h : Seen (ms w regs mem ops) s) {line : Nat} {asid : BitVec 8} {m : DWord} {l : L2Line} {t : State}
    (e : s.ensureL2 line asid m = .ok (l, t)) : Seen (ms w regs mem ops) t := by
  rw [State.ensureL2] at e
  split at e
  · cases e
  split at e
  · rename_i l' hl
    cases e
    refine Seen.count (Seen.modHome h _ (fun x => l :: x.filter fun y => y.line != l.line) fun x hx => ?_) _ _ _
    rcases List.mem_cons.mp hx with rfl | hx
    · have : x.line = line := by simpa using List.find?_some hl
      rw [this]
      exact .inl (List.mem_of_find?_eq_some hl)
    · exact .inl (List.mem_filter.mp hx).1
  · cases hd : s.controllerLine line with
    | error _ => rw [hd] at e; cases e
    | ok d =>
      rw [hd] at e
      dsimp only at e
      have hu := (h.count (.home (homeOf (line * 128))) 0x21 1)
      generalize hv : (if inLineSpace (line * 128) = true then
        (s.count (.home (homeOf (line * 128))) 0x21 1).count (.controller (mcOf (line * 128))) 0x30 1
        else s.count (.home (homeOf (line * 128))) 0x21 1) = v at e
      have hs : Seen (ms w regs mem ops) v := by
        rw [← hv]
        split
        · exact hu.count _ _ _
        · exact hu
      cases hi : v.install line d 0 asid m with
      | error _ => rw [hi] at e; cases e
      | ok s' =>
        rw [hi] at e
        dsimp only at e
        split at e
        · cases e
          exact hs.install (h.controllerLine hd) hi
        · cases e

theorem Seen.readLines (h : Seen (ms w regs mem ops) s) (ls : List Nat) (asid : BitVec 8) (m : DWord) :
    Seen (ms w regs mem ops) (s.readLines ls asid m) := by
  rw [State.readLines]
  generalize ls.eraseDups = l
  induction l generalizing s with
  | nil => exact h
  | cons x l ih =>
    refine ih (s := match s.ensureL2 x asid m with | .ok (_, s') => s' | .error _ => s) ?_
    split
    · rename_i hx
      exact h.ensure hx
    · exact h

theorem Seen.modCore (h : Seen (ms w regs mem ops) s) (c : Fin 256) (f : Core → Core)
    (hf : ∀ k : Core, k.l1 = [] → k.lent = [] → (f k).l1 = [] ∧ (f k).lent = []) : Seen (ms w regs mem ops) (s.modCore c f) := by
  refine ⟨h.same, fun j => ?_, h.quiet, h.good, h.batch⟩
  simp only [State.modCore, State.setCore, State.core, Fin.getElem_fin, Vector.getElem_set]
  split
  · exact hf _ (h.bare c).1 (h.bare c).2
  · exact h.bare j

theorem Seen.evictL1 (h : Seen (ms w regs mem ops) s) (c : Fin 256) (line : Nat) : Seen (ms w regs mem ops) (s.evictL1 c line) := by
  have hw : ∀ sec, s.writebackSector c sec = s := fun sec => by
    have : (s.core c).sector sec = Sector.empty := by simp [Core.sector, Core.l1At?, (h.bare c).1, (h.bare c).2]
    rw [State.writebackSector, this]
    rfl
  rw [State.evictL1, State.writebackL1]
  simp only [List.foldl_cons, List.foldl_nil, hw]
  exact (h.modCore c _ fun k h1 h2 => by simp [Core.purge, h1, h2]).modCore c _ fun k h1 h2 => by simp [Core.dropL1, h1, h2]

theorem Seen.evictAll (h : Seen (ms w regs mem ops) s) (c : Fin 256) (ls : List Nat) :
    Seen (ms w regs mem ops) (ls.foldl (fun s l => s.evictL1 c l) s) := by
  induction ls generalizing s with
  | nil => exact h
  | cons y ls ih => rw [List.foldl_cons]; exact ih (h.evictL1 c y)

theorem Seen.walked (h : Seen (ms w regs mem ops) s) (v : Wave) (eas : List Nat) : Seen (ms w regs mem ops) (s.walked v eas) := by
  rw [State.walked]
  generalize (eas.map (· / 65536)).eraseDups = l
  induction l generalizing s with
  | nil => exact h
  | cons x l ih =>
    refine ih ?_
    dsimp only
    split
    · exact h
    · exact (h.evictAll _ _).readLines _ _ _

theorem Seen.blockRead (h : Seen (ms w regs mem ops) s) (v : Wave) (ea : Nat) : Seen (ms w regs mem ops) (s.blockRead v ea) := by
  have hw := h.walked v [ea]
  simp only [State.blockRead]
  split
  · exact hw
  · exact (hw.evictL1 _ _).readLines _ _ _

theorem Seen.serves (h : Seen (ms w regs mem ops) s) (line : Nat) : s.serves line = true := by
  have hb : ∀ l, s.inBatch l = false := fun l => by rw [State.inBatch, h.batch]
  have hv : ∀ l, s.hasVersionData l = false := fun l => by
    have : s.versions = [] := congrArg State.versions h.same
    rw [State.hasVersionData, this]
    rfl
  simp only [State.serves, hb, Bool.not_false, Bool.true_and, Bool.or_eq_true, decide_eq_true_eq]
  by_cases hn : ((s.home (homeOf (line * 128))).lines.filter fun l => l2Set l.line == l2Set line).length < 16
  · exact .inl (.inr hn)
  · refine .inr ?_
    simp only [State.victim?, hb, hv, Bool.not_false, Bool.and_self]
    split
    · rfl
    · rw [List.filter_eq_self.mpr fun _ _ => rfl, List.head?_reverse, List.getLast?_isSome]
      intro e
      rw [e] at hn
      exact hn (by decide)

theorem Seen.mapBusy (h : Seen (ms w regs mem ops) s) (pa : Nat) : s.mapBusy pa = false := by
  rw [State.mapBusy, State.servesRange, State.servesAll, List.all_eq_true.mpr fun l _ => h.serves l]
  rfl

theorem Seen.catBusy (h : Seen (ms w regs mem ops) s) (c : Catalogue) (i : Nat) : s.catBusy c i = false := by
  rw [State.catBusy, h.serves]
  rfl

theorem seen_ms (hq : ∀ x ∈ regs, x.1 < 0x20400000000) : Seen (ms w regs mem ops) (ms w regs mem ops) := by
  have hh : ∀ k, (ms w regs mem ops).home k = Home.reset := fun k => by
    change (Vector.replicate 128 Home.reset)[k] = _
    simp
  have hc : ∀ k, (ms w regs mem ops).core k = Core.reset := fun k => by
    change (Vector.replicate 256 Core.reset)[k] = _
    simp
  exact ⟨rfl, fun k => by rw [hc]; exact ⟨rfl, rfl⟩, hq, fun k l hl => by rw [hh] at hl; exact absurd hl (List.not_mem_nil), fun k => by rw [hh]; rfl⟩

theorem Seen.catRead (h : Seen (ms w regs mem ops) s) (k i : Nat) (hi : i < 64) :
    s.catRead { base := 0x10000, k := k } i = .ok (CatEntry.ofBytes ((List.range' (0x10000 + 64 * i) 64).map mem.read)) := by
  simp only [State.catRead, h.homeBytes 64 (0x10000 + 64 * i) (by omega) (by omega)]
  rfl

end Seen

/-- An entry of call number n: its state, and its st word's rest. -/
def cat0 (n state rest : Nat) : CatEntry :=
  { call := n, st := state * 2 ^ 62 + rest, data := 0x10000, arch := 0, n := 24, geo := 0, size := 0 }
/-- The tables of the placed context. -/
def tableCells : Memory := [(0x20000, 1), (0x20002, 3), (0x30000, 1), (0x30002, 4), (0x40008, 0x3B), (0x4000A, 1)]
/-- A catalogue of 64 entries at the page: 5 sealed, 6 being written by ASID 1, 7 evicted. -/
def catCells : Memory :=
  [(0x10140, 5), (0x10150, 1), (0x10157, 0x80), (0x1015A, 1), (0x10168, 24),
   (0x10180, 6), (0x10190, 1), (0x10196, 1), (0x10197, 0x40), (0x1019A, 1), (0x101A8, 24),
   (0x101C0, 7), (0x101D7, 0xC0), (0x101DA, 1), (0x101E8, 24)]
def catRegs : SMap DWord := [(0x20101000008, 0x20001), (0x20105000000, 0x10006)]
def cat : Catalogue := { base := 0x10000, k := 6 }

/-- An entry as the memory holds it. -/
def catAt (mem : Memory) (i : Nat) : CatEntry := CatEntry.ofBytes ((List.range' (0x10000 + 64 * i) 64).map mem.read)

theorem catRegs_quiet : ∀ x ∈ catRegs, x.1 < 0x20400000000 := by decide

theorem Seen.catFind {w : Wave} {regs : SMap DWord} {mem : Memory} {ops : List LinkOp} {s : State} (h : Seen (ms w regs mem ops) s)
    (k : Nat) (hk : k ≤ 6) (call : Nat) :
    s.catFind { base := 0x10000, k := k } call =
      (let es := (Catalogue.places { base := 0x10000, k := k } call).map fun i => (i, catAt mem i)
       .ok (es.find? fun x => x.2.state != 0 && x.2.call == call, (es.find? fun x => x.2.state == 0).map (·.1))) := by
  have : (Catalogue.places { base := 0x10000, k := k } call).mapM
        (fun i => (s.catRead { base := 0x10000, k := k } i).map fun e => (i, e))
      = .ok ((Catalogue.places { base := 0x10000, k := k } call).map fun i => (i, catAt mem i)) := by
    refine mapM_ok _ _ _ fun i hi => ?_
    have : i < 64 := by
      simp [Catalogue.places] at hi
      obtain ⟨j, _, rfl⟩ := hi
      exact Nat.lt_of_lt_of_le (Nat.mod_lt _ (Nat.two_pow_pos k)) (Nat.pow_le_pow_right (by decide) hk)
    rw [h.catRead k i this]; rfl
  rw [State.catFind, this]; rfl

/-- A wave with an open block's address in S4 and S5, and a call number from S12 on. -/
def segWave (call : BitVec 32) : Wave := let w := memWave .i32; { w with s := (w.s.set 4 0x12000).set 12 call }
def openBlock (call n hd24 : Nat) : List Byte :=
  leBytes 16 call ++ leBytes 8 0x40000 ++ leBytes 4 n ++ leBytes 4 0 ++ [0, 0, BitVec.ofNat 8 hd24, 10, 0] ++ List.replicate 27 0
/-- The catalogue's entries name the geometry of the blocks below. -/
def segMem (bs : List Byte) : Memory :=
  ((Memory.writeN (catCells ++ tableCells) 0x1016C [0, 0, 1, 10]).writeN 0x12000 bs)
def segRegs : SMap DWord :=
  SMap.set 0 (SMap.set 0 catRegs (Reg.segPoolB 0) 4) (Reg.segPoolL 0) 0x10000
def segState (call : Nat) (n hd24 : Nat) : State := ms (segWave (BitVec.ofNat 32 call)) segRegs (segMem (openBlock call n hd24)) []

theorem witness_SegInstructions :
    let w := segWave 5
    let fields := [Field.group isSca 1 1 (.s 14)]
    (m0 w).catalogue? w.part = none ∧ (m0 w).ReadyClear w (M .i32) (fields ++ [.group isSca 4 4 (.s 12)]) []
    ∧ (m0 w).ReadyClear w (M .i32) (uniFields [.s 12]) (uniFields [.s 12]) ∧ (m0 w).releasedFor w = true
    ∧ (m0 w).commandsOut w = false
    ∧ (segState 5 24 1).catalogue? w.part = some cat ∧ (segState 5 24 1).catStopped = false
    ∧ (segState 5 24 1).ReadyClear w (M .i32) (fields ++ [.group isSca 4 4 (.s 12)]) []
    ∧ (segState 5 24 1).ReadyClear w (M .i32) (fields ++ [baseField (.s 4)]) [] ∧ w.holds = [] ∧ (scalar64 w (.s 4)).toNat = 0x12000
    ∧ (segState 5 24 1).ReadyClear w (M .i32) (uniFields [.s 12]) (uniFields [.s 12]) ∧ (segState 5 24 1).releasedFor w = true
    ∧ (segState 5 24 1).commandsOut w = false ∧ (segState 5 24 1).catBusy cat 5 = false :=
  ⟨rfl, clear_of rfl (by decide +kernel), clear_of rfl (by decide +kernel), by decide +kernel, by decide +kernel, by decide +kernel,
   by decide +kernel, clear_of rfl (by decide +kernel), clear_of rfl (by decide +kernel), rfl, by decide +kernel,
   clear_of rfl (by decide +kernel), by decide +kernel, by decide +kernel, by decide +kernel⟩

theorem Seen.regs {w : Wave} {regs : SMap DWord} {mem : Memory} {ops : List LinkOp} {s : State} (h : Seen (ms w regs mem ops) s) :
    s.regs = regs := by have := congrArg State.regs h.same; exact this
theorem Seen.catalogue {w : Wave} {regs : SMap DWord} {mem : Memory} {ops : List LinkOp} {s : State} (h : Seen (ms w regs mem ops) s)
    (p : Fin 32) : s.catalogue? p = (ms w regs mem ops).catalogue? p := by
  rw [State.catalogue?, State.catalogue?, State.reg, State.reg, h.regs]
  rfl
theorem Seen.catStopped {w : Wave} {regs : SMap DWord} {mem : Memory} {ops : List LinkOp} {s : State} (h : Seen (ms w regs mem ops) s) :
    s.catStopped = (ms w regs mem ops).catStopped := by
  rw [State.catStopped, State.catStopped, State.regBit, State.regBit, State.reg, State.reg, h.regs]
  rfl
theorem Seen.openOk {w : Wave} {regs : SMap DWord} {mem : Memory} {ops : List LinkOp} {s : State} (h : Seen (ms w regs mem ops) s)
    (p : Fin 32) (b : OpenBlock) : s.openOk p b = (ms w regs mem ops).openOk p b := by
  rw [State.openOk, State.openOk, State.regBits, State.regBits, State.reg, State.reg, State.reg, State.reg, h.regs]
  rfl
theorem Seen.catVisit {w : Wave} {regs : SMap DWord} {mem : Memory} {ops : List LinkOp} {s : State} (h : Seen (ms w regs mem ops) s)
    (c : Catalogue) (l : List Nat) : Seen (ms w regs mem ops) (s.catVisit c l) := h.readLines _ _ _

/-- A batch over the block at an address. -/
def batching (s : State) (pa : Nat) : State :=
  s.modHome (homeOf pa) fun h => { h with batch := some { batch0 with obj := pa, reqs := [] } }
theorem settle_ms (w : Wave) (regs : SMap DWord) (mem : Memory) (ops : List LinkOp) (h : w.holds = []) (k : Nat) :
    (ms w regs mem ops).settleHolds k = ms w regs mem ops := by
  rw [State.settleHolds]
  have hw : (ms w regs mem ops).waves = [w] := rfl
  have hf : ∀ x ∈ (ms w regs mem ops).waves, x = w := by simp [hw]
  cases e : (ms w regs mem ops).wave? k with
  | none => rfl
  | some v =>
    have : v = w := hf v (List.mem_of_find?_eq_some e)
    subst this
    have hx : { v with holds := [] } = v := by cases v; cases h; rfl
    simp [h, State.modWave, hw, hx]
    rfl
theorem segSeen (call n hd24 : Nat) : Seen (segState call n hd24) (segState call n hd24) := seen_ms (by decide)
/-- The state after SEGOPEN's block has been read. -/
def opened (call n hd24 : Nat) : State := ((segState call n hd24).settleHolds 1).blockRead (segWave (BitVec.ofNat 32 call)) 0x12000
theorem openedSeen (call n hd24 : Nat) : Seen (segState call n hd24) (opened call n hd24) := by
  rw [opened, segState, settle_ms _ _ _ _ (by rfl)]
  exact (segSeen call n hd24).blockRead _ _
/-- A catalogue of one entry, which is another call's. -/
def fullState : State := ms (segWave 8) [(0x20101000008, 0x20001), (0x20105000000, 0x10000)] [(0x10000, 9), (0x10017, 0x80)] []
def cat1 : Catalogue := { base := 0x10000, k := 0 }

/-- What SEGREF and SEGOPEN find by call number, in every state that reads alone lead to: sealed, being written, evicted, a free
place, and none. -/
theorem witness_SegInstructions_found :
    (∀ n m hd i s, Seen (segState n m hd) s → s.catBusy cat i = false)
    ∧ (∀ s, Seen (segState 5 24 1) s → okIs (s.catFind cat 5) (fun x => x.1.any fun y => y.1 == 5 && y.2.state == 2) = true)
    ∧ (∀ s, Seen (segState 6 24 1) s → okIs (s.catFind cat 6) (fun x => x.1.any fun y => y.1 == 6 && y.2.state == 1) = true)
    ∧ (∀ s, Seen (segState 7 24 1) s → okIs (s.catFind cat 7) (fun x => x.1.any fun y => y.1 == 7 && y.2.state == 3) = true)
    ∧ (∀ s, Seen (segState 8 24 1) s → okIs (s.catFind cat 8) (fun x => x.1.isNone && x.2 == some 8) = true)
    ∧ (∀ s, Seen fullState s → okIs (s.catFind cat1 8) (fun x => x.1.isNone && x.2.isNone) = true)
    ∧ fullState.catalogue? 0 = some cat1 ∧ fullState.catStopped = false := by
  refine ⟨fun n m hd i s h => h.catBusy _ _, fun s h => ?_, fun s h => ?_, fun s h => ?_, fun s h => ?_, fun s h => ?_,
    by decide +kernel, by decide +kernel⟩ <;> (first | rw [cat, Seen.catFind h _ (by decide)] | rw [cat1, Seen.catFind h _ (by decide)]) <;> decide +kernel

/-- The states that SEGREF and SEGOPEN look in. -/
theorem witness_SegInstructions_seen :
    (∀ n, Seen (segState n 24 1) ((segState n 24 1).catVisit cat (cat.places n)))
    ∧ (∀ n m, Seen (segState n m 1) ((opened n m 1).catVisit cat (cat.places n)))
    ∧ (∀ n m hd, (opened n m hd).catalogue? 0 = (segState n m hd).catalogue? 0 ∧ (opened n m hd).catStopped = (segState n m hd).catStopped
        ∧ ∀ b, (opened n m hd).openOk 0 b = (segState n m hd).openOk 0 b)
    ∧ Seen fullState (fullState.catVisit cat1 (cat1.places 8))
    ∧ (cat.places 5).any ((batching (segState 5 24 1) 0x10140).catBusy cat) = true :=
  ⟨fun n => (segSeen n 24 1).catVisit _ _, fun n m => (openedSeen n m 1).catVisit _ _,
   fun n m hd => ⟨(openedSeen n m hd).catalogue 0, (openedSeen n m hd).catStopped, (openedSeen n m hd).openOk 0⟩,
   (seen_ms (by decide)).catVisit _ _, by decide +kernel⟩

/-- What SEGSEAL and SEGDROP find by index. -/
theorem witness_SegInstructions_indexed :
    2 ^ cat.k ≤ 64
    ∧ okIs ((segState 5 24 1).catRead cat 6) (fun e => e.state == 1 && e.opener == (segWave 5).asid.toNat && e.refc == 1) = true
    ∧ okIs ((segState 5 24 1).catRead cat 5) (fun e => e.state == 2 && decide (1 ≤ e.refc)) = true
    ∧ okIs ((segState 5 24 1).catRead cat 7) (fun e => e.state == 3) = true := by
  refine ⟨by decide, ?_⟩
  rw [cat, (segSeen 5 24 1).catRead _ _ (by decide), (segSeen 5 24 1).catRead _ _ (by decide), (segSeen 5 24 1).catRead _ _ (by decide)]
  decide +kernel

/-- The blocks of SEGOPEN: read, one dirty in the core's L1, one that cannot be read, and one with a geometry that is none. -/
theorem witness_SegInstructions_block :
    let w := segWave 5
    let s := (segState 5 24 1).settleHolds 1
    let dirty := (segState 5 24 1).modCore 0 fun k =>
      { k with l1 := [{ line := 576, sectors := Vector.replicate 4 { Sector.empty with st := .d, mask := 1 } }], fifo := [.line 576] }
    blockAddrFault? 0x12000 64 = none ∧ blockAddrFault? 0x12004 64 ≠ none ∧ s.blockSync w 0x12000 = none
    ∧ ((dirty.settleHolds 1).blockSync w 0x12000).isSome = true
    ∧ (s.blockSync w 0).isNone = true ∧ failIs ((s.blockRead w 0).blockBytes w 0 64) (fun _ => true) = true
    ∧ okIs ((opened 5 24 1).blockBytes w 0x12000 64) (· == openBlock 5 24 1) = true
    ∧ okIs ((opened 5 25 1).blockBytes w 0x12000 64) (· == openBlock 5 25 1) = true
    ∧ okIs ((opened 5 24 9).blockBytes w 0x12000 64) (· == openBlock 5 24 9) = true
    ∧ (segState 5 24 1).openOk 0 (OpenBlock.ofBytes (openBlock 5 24 1)) = true
    ∧ (segState 5 25 1).openOk 0 (OpenBlock.ofBytes (openBlock 5 25 1)) = true
    ∧ (segState 5 24 9).openOk 0 (OpenBlock.ofBytes (openBlock 5 24 9)) = false
    ∧ (OpenBlock.ofBytes (openBlock 5 24 1)).geo = (catAt (segMem (openBlock 5 24 1)) 5).geo
    ∧ (OpenBlock.ofBytes (openBlock 5 24 1)).n = (catAt (segMem (openBlock 5 24 1)) 5).n
    ∧ (OpenBlock.ofBytes (openBlock 5 25 1)).n ≠ (catAt (segMem (openBlock 5 24 1)) 5).n := by decide +kernel

/-- What a check answers. -/
theorem ok_of {ε α : Type} [DecidableEq α] {e : Except ε α} {x : α} (h : okIs e (fun y => decide (y = x)) = true) : e = .ok x := by
  cases e with
  | ok y => rw [of_decide_eq_true h]
  | error _ => exact absurd h (by simp [okIs])

/-- A configuration block, and a map of one instance of a segment, of the pins of its current slot 0 and of the others (R356,
R357); a record of that instance whose probe is done, before its selection (R358). -/
def cfgBytes : List Byte := [0, 0, 1, 10, 0, 0, 0, 0, 1, 0] ++ List.replicate 22 0
def mapBytes (cur pins : Nat) : List Byte :=
  leBytes 8 0xFFF0 ++ leBytes 4 3 ++ leBytes 4 0 ++ leBytes 4 2 ++ leBytes 4 0 ++ leBytes 2 cur
    ++ (List.replicate 7 (leBytes 2 pins)).flatten ++ List.replicate 24 0 ++ cfgBytes
def entry1 (rstate : Nat) : MapEntry :=
  { call := 5, base := 0, n := 24, idx := 5, iid := 1, data := 0, patch := 0, rstate := rstate, arec := 0, rgen := 0 }
def image0 (rstate : Nat) : MapImage := { edition := 3, mapVa := 0x10000, cfg := cfgBytes, entries := [entry1 rstate] }
def rec0 (state : Nat) : ArgRec :=
  { va := 0, iid := state, rgen := 0, state := state, probe := if state = 0 then 0 else noTask, errata := 0, sel := 0 }
def mapMem (state cur pins : Nat) : Memory :=
  ((Memory.writeN tableCells 0x10000 (mapBytes cur pins)).writeN 0x10080 (rec0 state).bytes).writeN 0x10400
    ((image0 state).bytes.take 128)
/-- A catalogue at 0x21000. -/
def linkRegs : SMap DWord := SMap.insert catRegs (Reg.catBase 0) 0x21006
def linkWave (b : BitVec 32) : Wave := let w := memWave .i32; { w with s := w.s.set 12 b }
def linkState0 (w : Wave) (cur pins : Nat) : State := ms w linkRegs (mapMem 0 cur pins) []
/-- A request for the map. -/
def link0 (unlink : Bool) (w0 w1 : BitVec 32) : LinkReq :=
  { unlink := unlink, mapVa := 0x10000, mapPa := 0x10000, w0 := w0, w1 := w1, w2 := 0, asid := 1, part := 0 }
def linkOp0 (work : Option LinkBuild) (r : LinkReq) : LinkOp :=
  { id := 7, wave := none, req := r, release := none, work := work, dst := none, word := 0 }
/-- The machine with one operation at the map. -/
def linkState1 (work : Option LinkBuild) (r : LinkReq) (state cur : Nat) : State :=
  ms (linkWave 1) linkRegs (mapMem state cur 0) [linkOp0 work r]

def head0 (cur pins : Nat) : MapHead := { ed := 3, cur := 0, nextid := 2, pins := cur :: List.replicate 7 pins, cfg := cfgBytes }
def map0 (state cur : Nat) : LinkMap :=
  { pa := 0x10000, va := 0x10000, head := head0 cur 0, img := image0 state, recs := rec0 state :: List.replicate 15 (rec0 0) }

/-- The header that bytes hold. -/
def headOf (bs : List Byte) : MapHead :=
  let f := blockField bs
  { ed := f 8 4, cur := f 12 1, nextid := f 16 4, pins := (List.range 8).map fun k => f (24 + 2 * k) 2, cfg := (bs.drop 64).take 32 }
def headOk (bs : List Byte) : Bool :=
  decide (blockField bs 0 8 = 0xFFF0 ∧ blockField bs 12 1 ≤ 7 ∧ (MapCfg.ofBytes ((bs.drop 64).take 32)).ok)

section Maps
variable {w : Wave} {regs : SMap DWord} {mem : Memory} {ops : List LinkOp} {s : State}

theorem Seen.pagePart (h : Seen (ms w regs mem ops) s) : (s.pageState 0x10000).part = 0 := by
  have hk : s.controllers = Vector.replicate 8 { Controller.reset with pages := placePages } := congrArg State.controllers h.same
  have hc : ∀ k, s.ctl k = { Controller.reset with pages := placePages } := fun k => by simp [State.ctl, hk]
  rw [State.pageState, hc]
  decide

theorem Seen.mapHead (h : Seen (ms w regs mem ops) s) (hb : headOk ((List.range' 0x10000 128).map mem.read) = true) :
    s.mapHead 0x10000 0 = .ok (headOf ((List.range' 0x10000 128).map mem.read)) := by
  rw [headOk, decide_eq_true_eq] at hb
  rw [State.mapHead, h.homeBytes _ _ (by decide) (by decide)]
  simp only [h.pagePart, and_true]
  exact if_pos hb

theorem Seen.mapImage (h : Seen (ms w regs mem ops) s) (k : Nat) (hk : k < 8) :
    s.mapImage 0x10000 k = .ok (MapImage.ofBytes ((List.range' (0x10000 + imageOff k) 1024).map mem.read)) := by
  simp only [State.mapImage, h.homeBytes 1024 (0x10000 + imageOff k) (by omega) (by simp only [imageOff]; omega)]

theorem linkMap_of (s : State) (pa va : Nat) (part : Fin 32) (h : MapHead) (a b : List Byte) (x y : Nat)
    (hx : pa + imageOff h.cur = x) (hy : pa + 0x80 = y) (h1 : s.mapHead pa part = .ok h)
    (h2 : s.homeBytes x 1024 = .ok a) (h3 : s.homeBytes y 512 = .ok b) :
    s.linkMap pa va part = .ok { pa := pa, va := va, head := h, img := MapImage.ofBytes a,
                                 recs := (List.range 16).map fun r => ArgRec.ofBytes (b.drop (32 * r)) } := by
  subst hx hy
  simp only [State.linkMap, h1, State.mapImage, h2, h3, bind, Except.bind, pure, Except.pure]

theorem Seen.dropLink (h : Seen (ms w regs mem ops) s) (o : LinkOp) :
    Seen (ms w regs mem (ops.filter fun x => x.id != o.id)) (s.dropLink o) := by
  have hl : s.linkOps = ops := by have := congrArg State.linkOps h.same; exact this
  refine ⟨?_, h.bare, h.quiet, h.good, h.batch⟩
  have := congrArg (fun x : State => { x with linkOps := ops.filter fun x => x.id != o.id }) h.same
  rw [State.dropLink, hl]
  exact this

theorem Seen.taskRoom (h : Seen (ms w regs mem ops) s) (p : Fin 32) (n : Nat) : s.taskRoom p n = (ms w regs mem ops).taskRoom p n := by
  have ht : s.tasks = [] := congrArg State.tasks h.same
  have ht' : (ms w regs mem ops).tasks = [] := rfl
  rw [State.taskRoom, State.taskRoom, State.taskUsed, State.taskUsed, ht, ht', State.regBits, State.regBits, State.reg, State.reg, h.regs]
  rfl
end Maps

/-- The map, in its three states: an exact instance with its slot unpinned or pinned, and one that waits for its selection. -/
def mapStates : List (Nat × Nat) := [(0, 0), (0, 1), (1, 0)]
theorem mapImage_mem : ∀ x ∈ mapStates, MapImage.ofBytes ((List.range' 0x10400 1024).map (mapMem x.1 x.2 0).read) = image0 x.1 := by
  decide +kernel
theorem mapRecs_mem : ∀ x ∈ mapStates, (List.range 16).map (fun r => ArgRec.ofBytes
    (((List.range' 0x10080 512).map (mapMem x.1 x.2 0).read).drop (32 * r))) = rec0 x.1 :: List.replicate 15 (rec0 0) := by
  decide +kernel

theorem mapHead_mem : ∀ x ∈ mapStates, headOk ((List.range' 0x10000 128).map (mapMem x.1 x.2 0).read) = true
    ∧ headOf ((List.range' 0x10000 128).map (mapMem x.1 x.2 0).read) = head0 x.2 0 := by decide +kernel

theorem Seen.linkMap {ops : List LinkOp} {x : Nat × Nat} (hx : x ∈ mapStates) {s : State}
    (h : Seen (ms (linkWave 1) linkRegs (mapMem x.1 x.2 0) ops) s) : s.linkMap 0x10000 0x10000 0 = .ok (map0 x.1 x.2) := by
  have h1 := h.mapHead (mapHead_mem x hx).1
  rw [(mapHead_mem x hx).2] at h1
  have h2 := h.homeBytes 1024 0x10400 (by decide) (by decide)
  have h3 := h.homeBytes 512 0x10080 (by decide) (by decide)
  have h4 := linkMap_of _ 0x10000 0x10000 0 (head0 x.2 0) _ _ 0x10400 0x10080 (by simp [imageOff, head0]) (by decide) h1 h2 h3
  rw [mapImage_mem x hx, mapRecs_mem x hx] at h4
  exact h4

theorem linkRegs_quiet : ∀ x ∈ linkRegs, x.1 < 0x20400000000 := by decide

/-- The state after the map has been read. -/
def looked (work : Option LinkBuild) (r : LinkReq) (x : Nat × Nat) : State := (linkState1 work r x.1 x.2).visit 0x10000 16384 1
theorem lookedSeen (work : Option LinkBuild) (r : LinkReq) (x : Nat × Nat) :
    Seen (linkState1 work r x.1 x.2) (looked work r x) := (seen_ms linkRegs_quiet).readLines _ _ _

theorem linkRun_of (s : State) (r : LinkReq) (own : Option Nat) (c : Catalogue) (m : LinkMap) (hc : s.catalogue? r.part = some c)
    (hb : s.mapBusy r.mapPa = false) (hm : (s.visit r.mapPa 16384 r.asid).linkMap r.mapPa r.mapVa r.part = .ok m) :
    s.linkRun r own =
      (if r.unlink then (s.visit r.mapPa 16384 r.asid).linkRemove m r own
       else if bitsOf r.w0.toNat 31 30 = 0 then (s.visit r.mapPa 16384 r.asid).linkInsert m r own c
       else (s.visit r.mapPa 16384 r.asid).linkRepair m r own) := by
  rw [State.linkRun]
  simp only [hc, hb, Bool.false_eq_true, if_false, hm]

theorem catalogue_regs (s : State) (h : s.regs = linkRegs) : s.catalogue? 0 = some { base := 0x21000, k := 6 } := by
  rw [State.catalogue?, State.reg, h]
  decide +kernel

/-- An operation of the map, on what is read there. -/
theorem linkRun_map {x : Nat × Nat} (hx : x ∈ mapStates) (work : Option LinkBuild) (u : Bool) (a b : BitVec 32) (own : Option Nat) :
    (linkState1 work (link0 u a b) x.1 x.2).linkRun (link0 u a b) own =
      (if u then (looked work (link0 u a b) x).linkRemove (map0 x.1 x.2) (link0 u a b) own
       else if bitsOf a.toNat 31 30 = 0 then
         (looked work (link0 u a b) x).linkInsert (map0 x.1 x.2) (link0 u a b) own { base := 0x21000, k := 6 }
       else (looked work (link0 u a b) x).linkRepair (map0 x.1 x.2) (link0 u a b) own) :=
  linkRun_of _ (link0 u a b) own { base := 0x21000, k := 6 } (map0 x.1 x.2)
    (catalogue_regs _ rfl)
    (Seen.mapBusy (seen_ms linkRegs_quiet : Seen (linkState1 work (link0 u a b) x.1 x.2) _) 0x10000)
    ((lookedSeen work (link0 u a b) x).linkMap hx)

/-- What an operation comes to, by status; 7 where it builds, 8 where it waits, 9 where it traps. -/
def outcome : LinkOutcome → Nat
  | .build _ _ => 7
  | .wait => 8
  | .trap _ => 9
  | .done _ st _ => st

theorem witness_LinksAndPins_outcomes :
    outcome ((linkState1 none (link0 true 9 0) 0 0).linkRun (link0 true 9 0) none) = 3
    ∧ outcome ((linkState1 none (link0 true 1 0) 0 0).linkRun (link0 true 1 0) none) = 7
    ∧ outcome ((linkState1 none (link0 false 0x40000000 1) 1 0).linkRun (link0 false 0x40000000 1) none) = 7
    ∧ outcome ((batching (linkState1 none (link0 true 1 0) 0 0) 0x10000).linkRun (link0 true 1 0) none) = 8
    ∧ outcome ((ms (linkWave 1) [] [] [linkOp0 none (link0 true 1 0)]).linkRun (link0 true 1 0) none) = 9
    ∧ (link0 true 1 0).isSelect = false ∧ (link0 false 0x40000000 1).isSelect = true := by
  rw [linkRun_map (x := (0, 0)) (by decide), linkRun_map (x := (0, 0)) (by decide), linkRun_map (x := (1, 0)) (by decide)]
  refine ⟨rfl, rfl, rfl, ?_, ?_, rfl, rfl⟩ <;> decide +kernel

/-- What an unlinking has built, and where it is committed: no slot is retired, and the map is held. -/
def build0 : LinkBuild := { entries := [], recs := List.replicate 16 (rec0 0), probes := [], nextid := 2, errata := none }

theorem commitEdition_of (s : State) (m : LinkMap) (r : LinkReq) (b : LinkBuild) (slot : Nat)
    (hs : (List.range 8).find? (fun x => x != m.head.cur && m.head.pinsOf x == 0) = some slot)
    (ht : s.taskRoom r.part b.probes.length = true) (hp : m.head.pinsOf m.head.cur ≠ 0) : (s.commitEdition m r b).isSome = true := by
  rw [State.commitEdition, hs]
  simp only [ht, hp, decide_false, Bool.not_true, Bool.false_and, Bool.or_self, Bool.false_eq_true, if_false, Option.isSome_some]

theorem taskRoom_of {mem : Memory} {ops : List LinkOp} {s : State} (h : Seen (ms (linkWave 1) linkRegs mem ops) s) (n : Nat) (hn : n ≤ 1) :
    s.taskRoom 0 n = true := by
  have ht : s.tasks = [] := congrArg State.tasks h.same
  rw [State.taskRoom, State.taskUsed, ht, State.regBits, State.reg, h.regs]
  rw [show SMap.get (regReset (Reg.tkQuota ((0 : Fin 32) : Nat))) linkRegs (Reg.tkQuota ((0 : Fin 32) : Nat)) = 0 from by decide +kernel]
  have : n ≤ taskCount := Nat.le_trans hn (by decide : 1 ≤ taskCount)
  simp [this, bitsOf]

theorem Seen.commit {ops : List LinkOp} {s : State} (h : Seen (ms (linkWave 1) linkRegs (mapMem 0 1 0) ops) s) :
    (s.linkCommit (link0 true 1 0) build0).isSome = true := by
  have hm : s.linkMap (link0 true 1 0).mapPa (link0 true 1 0).mapVa (link0 true 1 0).part = .ok (map0 0 1) := h.linkMap (x := (0, 1)) (by decide)
  rw [State.linkCommit, h.mapBusy, hm]
  exact commitEdition_of s (map0 0 1) _ _ 1 (by decide) (taskRoom_of h 0 (by decide)) (by decide)

theorem Seen.commitSelect {ops : List LinkOp} {s : State} (h : Seen (ms (linkWave 1) linkRegs (mapMem 1 0 0) ops) s) (r : LinkReq)
    (b : LinkBuild) (i : Nat) (hr : r.mapPa = 0x10000 ∧ r.mapVa = 0x10000 ∧ r.part = 0) (hb : b.errata = some i) :
    (s.linkCommit r b).isSome = true := by
  have hm : s.linkMap r.mapPa r.mapVa r.part = .ok (map0 1 0) := by
    rw [hr.1, hr.2.1, hr.2.2]
    exact h.linkMap (x := (1, 0)) (by decide)
  rw [State.linkCommit, h.mapBusy, hm]
  simp only [hb, State.commitSelect, hr.2.2, taskRoom_of h 1 (by decide), Bool.not_true, Bool.false_eq_true, if_false, Option.isSome_some]

/-- What a select has built (R362). -/
def build1 : LinkBuild :=
  { entries := [], recs := { rec0 1 with state := 2 } :: List.replicate 15 (rec0 0), probes := [], nextid := 2, errata := some 0 }

theorem witness_LinksAndPins_commit :
    ((linkState1 (some build0) (link0 true 1 0) 0 1).dropLink (linkOp0 (some build0) (link0 true 1 0))
      |>.linkCommit (link0 true 1 0) build0).isSome = true
    ∧ ((batching (linkState1 (some build0) (link0 true 1 0) 0 1) 0x10000).dropLink (linkOp0 (some build0) (link0 true 1 0))
      |>.linkCommit (link0 true 1 0) build0).isNone = true
    ∧ (let r := link0 false 0x40000000 1
       let t := looked none r (1, 0)
       (linkState1 none r 1 0).linkRun r none = .build t build1
       ∧ ((t.dropLink (linkOp0 none r)).linkCommit r build1).isSome = true) := by
  refine ⟨Seen.commit ((seen_ms linkRegs_quiet).dropLink _), by decide +kernel, ?_, ?_⟩
  · rw [linkRun_map (x := (1, 0)) (by decide)]
    rfl
  · exact ((lookedSeen none (link0 false 0x40000000 1) (1, 0)).dropLink (linkOp0 none (link0 false 0x40000000 1))).commitSelect _ _ 0
      ⟨rfl, rfl, rfl⟩ rfl

/-- A map's header, of several pin counts, a page that holds no map, a map that its home holds, and what a retirement waits for. -/
theorem witness_LinksAndPins_map :
    (∀ x ∈ [(0, 1), (65535, 0), (1, 0)], ∀ w, (linkState0 w x.1 x.2).mapHead 0x10000 0 = .ok (head0 x.1 x.2))
    ∧ failIs ((ms (linkWave 1) linkRegs [] []).mapHead 0x10000 0) (· == .linkState) = true
    ∧ (∀ w cur pins, (linkState0 w cur pins).mapBusy 0x10000 = false)
    ∧ (batching (linkState0 (linkWave 1) 0 0) 0x10000).mapBusy 0x10000 = true
    ∧ (head0 0 0).live 0 = true ∧ ({ head0 1 0 with cur := 1 } : MapHead).live 0 = true
    ∧ ({ head0 0 0 with cur := 1 } : MapHead).live 0 = false := by
  have hm : ∀ x ∈ [(0, 1), (65535, 0), (1, 0)], headOk ((List.range' 0x10000 128).map (mapMem 0 x.1 x.2).read) = true
      ∧ headOf ((List.range' 0x10000 128).map (mapMem 0 x.1 x.2).read) = head0 x.1 x.2 := by decide +kernel
  refine ⟨fun x hx w => ?_, ?_, fun w cur pins => (seen_ms linkRegs_quiet).mapBusy _, by decide +kernel, by decide, by decide, by decide⟩
  · have h : Seen (ms w linkRegs (mapMem 0 x.1 x.2) []) (linkState0 w x.1 x.2) := seen_ms linkRegs_quiet
    have := h.mapHead (hm x hx).1
    rwa [(hm x hx).2] at this
  · rw [State.mapHead, (seen_ms linkRegs_quiet).homeBytes _ _ (by decide) (by decide)]
    decide +kernel

/-- A retired slot's instance, for which a stopped catalogue makes the retirement wait. -/
theorem witness_LinksAndPins_retire :
    let s := ms (linkWave 1) (linkRegs ++ [(Reg.catCtl, 1)]) (mapMem 0 0 0) []
    s.catStopped = true ∧ s.goneInstances 0x10000 { head0 0 0 with cur := 1 } 0 ≠ [] := by
  refine ⟨by decide +kernel, ?_⟩
  have h : Seen (ms (linkWave 1) (linkRegs ++ [(Reg.catCtl, 1)]) (mapMem 0 0 0) [])
      (ms (linkWave 1) (linkRegs ++ [(Reg.catCtl, 1)]) (mapMem 0 0 0) []) := seen_ms (by decide)
  have h0 := h.mapImage 0 (by decide)
  have h1 := h.mapImage 1 (by decide)
  rw [State.goneInstances, h0, State.liveImages]
  rw [show (List.range 8).filter (fun k => k != 0 && ({ head0 0 0 with cur := 1 } : MapHead).live k) = [1] from by decide]
  simp only [List.filterMap_cons, h1, List.filterMap_nil, Except.toOption]
  decide +kernel

/-- What an insert finds in the catalogue (R361). -/
theorem witness_LinksAndPins_insert :
    let g := CatEntry.ofBytes (catAt (segMem (openBlock 5 24 1)) 5).bytes
    (segState 5 24 1).catStopped = false ∧ bitsOf (0x02000005 : Word).toNat 23 0 = 5 ∧ 5 < 2 ^ cat.k ∧ (segState 5 24 1).catBusy cat 5 = false
    ∧ ((segState 5 24 1).catVisit cat [5]).catRead cat 5 = .ok g
    ∧ g.state = 2 ∧ leBytes 5 g.geo = (map0 0 0).head.cfg.take 5 ∧ (List.replicate 15 (entry1 0)).length = 15
    ∧ (map0 0 0).img.entries.length < 15 ∧ (map0 0 0).img.entries.length < bitsOf (0x02000005 : Word).toNat 27 24 := by
  refine ⟨by decide +kernel, by decide, by decide, (segSeen 5 24 1).catBusy _ _, ?_, by decide +kernel, by decide +kernel,
    by decide, by decide, by decide⟩
  rw [cat, ((segSeen 5 24 1).catVisit _ _).catRead _ _ (by decide)]
  exact congrArg Except.ok (by decide +kernel)

def versionLink : Wave := { versionWave .i32 with s := (versionWave .i32).s.set 12 0 }
/-- A wave that holds the pin of slot 0. -/
def pinWave : Wave := { linkWave 1 with pin := some (0x10000, 0x10000, 0) }

theorem witness_LinksAndPins :
    let w := linkWave 1
    let s := linkState0 w 0 0
    let lw : Wave := linkWave 0xC0000000
    let fields := [Field.group isSca 2 2 (.s 14), baseField (.s 0), .group isSca 4 4 (.s 12)]
    let unfields := [Field.group isSca 2 2 (.s 14), baseField (.s 0), .src (.s 12)]
    s.ReadyClear w (M .i32) fields [] ∧ s.ReadyClear w (M .i32) unfields [.src (.s 12)] ∧ w.versioned = false
    ∧ failIs (s.linkCheck w (M .i32) 0x10004) (fun _ => true) = true ∧ okIs (s.linkCheck w (M .i32) 0x10000) (· == 0x10000) = true
    ∧ (m0 w).catalogue? 0 = none ∧ s.catalogue? w.part ≠ none
    ∧ (linkState0 lw 0 0).ReadyClear lw (M .i32) fields [] ∧ linkBad 0xC0000000 0 0 = true ∧ linkBad 1 0 0 = false
    ∧ s.versionOf? w = none
    ∧ (let v := { versionState .i32 with waves := [versionLink], regs := linkRegs }
       v.ReadyClear versionLink (M .i32) [baseField (.s 0), .group isSca 4 4 (.s 12)] [] ∧ (v.versionOf? versionLink).isSome = true
       ∧ linkBad 0 0 0 = false ∧ v.catalogue? 0 ≠ none)
    ∧ s.ReadyClear w (M .i32) [Field.group isSca 2 2 (.s 14), baseField (.s 0)] [] ∧ w.pin = none
    ∧ s.ReadyClear w (M .i32) [] []
    ∧ (let t := linkState0 pinWave 0 0
       t.ReadyClear pinWave (M .i32) [] [] ∧ pinWave.pin = some (0x10000, 0x10000, 0)
       ∧ t.pinLoads pinWave = false ∧ t.pinCommands pinWave = false)
    ∧ (linkState1 none (link0 true 1 0) 0 0).linkAt? 0 = some (linkOp0 none (link0 true 1 0))
    ∧ (linkState1 (some build0) (link0 true 1 0) 0 1).linkAt? 0 = some (linkOp0 (some build0) (link0 true 1 0)) ∧ s.linkAt? 0 = none
    ∧ SMap.wf regReset linkRegs = true :=
  ⟨clear_of rfl (by decide +kernel), clear_of rfl (by decide +kernel), by decide +kernel, by decide +kernel, by decide +kernel,
   by decide +kernel, by decide +kernel, clear_of rfl (by decide +kernel), by decide, by decide, by decide +kernel,
   ⟨clear_of rfl (by decide +kernel), by decide +kernel, by decide, by decide +kernel⟩,
   clear_of rfl (by decide +kernel), rfl, clear_of rfl (by decide +kernel),
   ⟨clear_of rfl (by decide +kernel), rfl, by decide +kernel, by decide +kernel⟩, by decide +kernel, by decide +kernel,
   by decide +kernel, by decide +kernel⟩

/-- A release ring of partition 0 with 256 records at 0x40000. -/
def ringState (wr : DWord) : State :=
  { (m0 (W .i32)).setReg (Reg.prelBase 0) 0x40000 |>.setReg (Reg.prelWr 0) wr with releaseRecords := [(0, 0x12340)] }

theorem witness_LinksAndPins_units :
    (∀ e ∈ (image0 0).entries, e.iid ≠ (9 : Word).toNat)
    ∧ (∀ x < 8, x = (head0 0 1).cur ∨ (head0 0 1).pinsOf x ≠ 0)
    ∧ (linkState0 (linkWave 1) 0 0).taskRoom 0 taskCount.succ = false
    ∧ ((m0 (W .i32)).setReg Reg.catCtl 1).catStopped = true
    ∧ (ringState 0).releaseRecords.find? (fun y => y.1 == 0) = some (0, 0x12340)
    ∧ ({ m0 (W .i32) with releaseRecords := [(0, 0x12340)] } : State).releaseRing? 0 = none
    ∧ ((ringState 0).releaseRing? 0).any (fun r => r.room && (ringState 0).serves (r.next 8 / 128)) = true
    ∧ ((ringState 256).releaseRing? 0).any (fun r => !r.room) = true
    ∧ ((ringState 0).releaseRing? 0).any (fun r => !(batching (ringState 0) (r.next 8)).serves (r.next 8 / 128)) = true := by decide +kernel
/-! ### Tasks -/

def task0 (st : TaskState) (vt cp : Bool) (dep seq : Nat) : TaskEntry :=
  { TaskEntry.empty with asid := 1, seq := BitVec.ofNat 32 seq, state := st, vt := vt, cp := cp, dep := BitVec.ofNat 16 dep, arg := 5 }
/-- Tasks 0 to 5: ready, ready with a version, faulted, parked, running, waiting for one predecessor. -/
def taskTable (cp : Bool) : SMap TaskEntry :=
  [(0, task0 .ready false false 0 3), (1, task0 .ready true false 0 4), (2, task0 .faulted false false 0 5),
   (3, task0 .parked false false 0 5), (4, task0 .running false cp 0 6), (5, task0 .waiting false false 1 6)]
/-- The gang's state with these tasks, and a resume ring of partition 0 whose counter of records is `wr`. -/
def taskState (w : Wave) (cp : Bool) (wr : DWord) : State :=
  { ((g0 w).setReg (Reg.tkRqBase 0) 0x40000).setReg (Reg.tkRqWr 0) wr with tasks := taskTable cp, readyOrder := [0, 1] }
/-- A wave with four scalars from S12 on. -/
def argWave (a b c : BitVec 32) : Wave := let w := memWave .i32; { w with s := ((w.s.set 12 a).set 13 b).set 14 c }
def taskArgs : List Field := [.group isSca 1 1 (.s 20)]
/-- Task 4 is the wave's. -/
def holdWave : Wave := { memWave .i32 with task := some { index := 4, mode := .plain, pull := 0x10000 } }
/-- A post block: an argument, no successor, a sequence. -/
def post0 : List Byte := leBytes 8 0x12340 ++ leBytes 8 0 ++ leBytes 4 9 ++ List.replicate 12 0

theorem witness_TaskInstructions :
    let w := memWave .i32
    let s := taskState w false 0
    let p := M .i32
    s.ReadySwitch w p [.group isSca 2 2 (.s 14), .src .ones] [.src .ones] ∧ w.task = none
    ∧ (s.switched w p).releasedFor (w.switched p) = true
    ∧ (s.switched w p).pickTask? 1 0 ((srcUni (w.switched p) p.atSwitch .ones).setWidth 8) = some 0
    ∧ s.ReadySwitch w p [.group isSca 2 2 (.s 14), .src (.s 2)] [.src (.s 2)]
    ∧ (s.switched w p).pickTask? 1 0 ((srcUni (w.switched p) p.atSwitch (.s 2)).setWidth 8) = none
    ∧ s.releasedFor w = true :=
  ⟨switch_of rfl (by decide +kernel), rfl, by decide +kernel, by decide +kernel, switch_of rfl (by decide +kernel), by decide +kernel,
   by decide +kernel⟩

theorem witness_TaskInstructions_post :
    let w := memWave .i32
    let s := blockState w post0
    s.ReadyClear w (M .i32) (taskFields false (.s 20) (baseField (.s 0))) [] ∧ w.holds = []
    ∧ (scalar64 w (.s 0)).toNat = 0x10000 ∧ blockAddrFault? 0x10000 32 = none ∧ blockAddrFault? 0x10010 32 ≠ none
    ∧ (s.settleHolds 1).blockSync w 0x10000 = none
    ∧ okIs (((s.settleHolds 1).blockRead w 0x10000).blockBytes w 0x10000 32) (· == post0) = true
    ∧ failIs (((s.settleHolds 1).blockRead w 0).blockBytes w 0 32) (fun _ => true) = true ∧ (s.settleHolds 1).blockSync w 0 = none
    ∧ blockAddrFault? 0 32 = none ∧ ((s.settleHolds 1).blockRead w 0x10000).releasedFor w = true
    ∧ (dirtyBlock s).ReadyClear w (M .i32) (taskFields false (.s 20) (baseField (.s 0))) []
    ∧ (((dirtyBlock s).settleHolds 1).blockSync w 0x10000).isSome = true :=
  ⟨clear_of rfl (by decide +kernel), rfl, by decide +kernel, by decide +kernel, by decide +kernel, by decide +kernel, by decide +kernel,
   by decide +kernel, by decide +kernel, by decide +kernel, by decide +kernel, clear_of rfl (by decide +kernel), by decide +kernel⟩

def argPairs : List (Word × Word) := [(0, 0), (2, 0), (9, 0), (2, 1)]
/-- TKCANCEL, TKPARK and TKRESUME of tasks 2 (faulted), 0 (ready) and 9 (free). -/
theorem witness_TaskInstructions_index :
    (argPairs.all fun x => readyBool (argWave x.1 x.2 0x340) (M .i32) (taskFields false (.s 20) (.group isSca 2 2 (.s 12))) []
      && readyBool (argWave x.1 x.2 0x340) (M .i32) (taskFields false (.s 20) (.group isSca 4 4 (.s 12))) []) = true
    ∧ clearBool (taskState (argWave 2 0 0x340) false 0) (argWave 2 0 0x340) = true
    ∧ (taskState (argWave 2 0 0x340) false 0).releasedFor (argWave 2 0 0x340) = true
    ∧ (let s := taskState (argWave 2 0 0x340) false 0
       s.ownsTask 1 2 = true ∧ s.ownsTask 1 9 = false ∧ s.ownsTask 1 0 = true
       ∧ (s.task 2).state = .faulted ∧ (s.task 0).state = .ready
       ∧ laterIter 0 (s.task 2).iter = false ∧ laterIter 1 (s.task 2).iter = true
       ∧ (s.resumeRing? 0).any (fun r => r.room && s.serves (r.next 32 / 128)) = true
       ∧ (s.resumeRing? 0).any (fun r => !(batching s (r.next 32)).serves (r.next 32 / 128)) = true)
    ∧ ((taskState (argWave 2 0 0x340) false 256).resumeRing? 0).any (fun r => !r.room) = true
    ∧ (argPairs.all fun x => let w := argWave x.1 x.2 0x340
        lo32 (scalar64 w (.s 12)) == x.1 && hi32 (scalar64 w (.s 12)) == x.2 && linkWords w (.s 12) == (x.1, x.2, 0x340)) = true := by decide +kernel

/-- Task 4 with its list of successors, of which one is task 5. -/
def succState (succ : Nat) : State :=
  let s := taskState holdWave false 0
  { s with tasks := SMap.set TaskEntry.empty s.tasks 4 { task0 .running false false 0 6 with succ := BitVec.ofNat 52 (succ / 8) },
           mem := s.mem.writeN 0x10200 (leBytes 4 1 ++ leBytes 4 5) }

theorem witness_TaskInstructions_done :
    (∀ cp ∈ [false, true], (taskState holdWave cp 0).takeRace? holdWave = none ∧ (taskState holdWave cp 0).cancelPending holdWave = cp)
    ∧ (∀ cp, (taskState holdWave cp 0).Ready holdWave (M .i32) [] []) ∧ holdWave.reports = [] ∧ holdWave.undisturbed = true
    ∧ holdWave.mayAct = true
    ∧ okIs ((taskState holdWave false 0).successors holdWave ((taskState holdWave false 0).task 4)) (· == []) = true
    ∧ (taskState holdWave false 0).releasedFor holdWave = true ∧ (taskState holdWave false 0).versionOf? holdWave = none
    ∧ holdWave.missed = none :=
  ⟨by decide +kernel, fun _ => ready_of rfl (by decide +kernel), rfl, rfl, rfl, by decide +kernel, by decide +kernel, by decide +kernel, rfl⟩

def version1 : Version := { version0 with bytes := [(0x10000, 1)], written := [0x10000] }

/-- A list of successors read, one that cannot be read or whose home holds it, and a version that commits or waits. -/
theorem witness_TaskInstructions_successors :
    let s := succState 0x10200
    let bad := succState 0x60000
    let held := batching s 0x10200
    let v := versionState .i32
    let w := versionWave .i32
    s.Ready holdWave (M .i32) [] [] ∧ s.cancelPending holdWave = false ∧ okIs (s.successors holdWave (s.task 4)) (· == [5]) = true
    ∧ s.servesAll (s.succLines holdWave (s.task 4)) = true ∧ s.releasedFor holdWave = true ∧ s.takeRace? holdWave = none
    ∧ bad.Ready holdWave (M .i32) [] [] ∧ bad.takeRace? holdWave = none
    ∧ failIs (bad.successors holdWave (bad.task 4)) (fun x => x.2 == 0x60000) = true
    ∧ held.Ready holdWave (M .i32) [] [] ∧ held.takeRace? holdWave = none
    ∧ okIs (held.successors holdWave (held.task 4)) (fun _ => true) = true
    ∧ held.servesAll (held.succLines holdWave (held.task 4)) = false ∧ held.releasedFor holdWave = true
    ∧ v.Ready w (M .i32) [] [] ∧ w.reports = [] ∧ w.missed = none ∧ v.takeRace? w = none ∧ w.undisturbed = true ∧ w.mayAct = true
    ∧ v.cancelPending w = false ∧ v.releasedFor w = true ∧ v.versionOf? w = some version0 ∧ v.commitReady version0 = true
    ∧ (batching v 0x10000).commitReady version1 = false :=
  ⟨ready_of rfl (by decide +kernel), by decide +kernel, by decide +kernel, by decide +kernel, by decide +kernel, by decide +kernel,
   ready_of rfl (by decide +kernel), by decide +kernel, by decide +kernel, ready_of rfl (by decide +kernel), by decide +kernel,
   by decide +kernel, by decide +kernel, by decide +kernel, ready_of rfl (by decide +kernel), rfl, rfl, by decide +kernel, rfl, rfl,
   by decide +kernel, by decide +kernel, by decide +kernel, by decide +kernel, by decide +kernel⟩

def pullPath : Path := blockedPath (.task 255 14)
def parkPath : Path := { M .i32 with stage := .park 8 }
def park0 : HeldPark := { id := 8, wave := 1, part := 0, asid := 1, index := 2, va := 0x340, dst := some 20 }
/-- A wave whose versioned task waits to become irrevocable. -/
def awaitWave : Wave := { versionWave .i32 with paths := [blockedPath .irrevocable] }

/-- A plain store that waits in the wave's memory queue. -/
def waitingPlain : Release :=
  { id := 40, req := comb0.req, waits := Waits.none, act := .plain [(none, 0x10000, 0x10000, [1])] }

theorem witness_TaskSteps :
    let w : Wave := { memWave .i32 with paths := [pullPath] }
    let s := taskState w false 0
    let none0 : State := { s with readyOrder := [] }
    let v : Wave := { memWave .i32 with paths := [parkPath] }
    let h : State := { taskState v false 0 with heldParks := [park0] }
    s.pickTask? 1 0 255 = some 0 ∧ s.wave? 1 = some w ∧ w.frozen = none ∧ w.stopped = false ∧ w.stopReq = false ∧ w.isDet = false
    ∧ w.pulling? = some (pullPath, 255, 14) ∧ none0.pickTask? 1 0 255 = none
    ∧ (let u : State := { versionState .i32 with waves := [awaitWave] }
       let x : State := { batching u 0x10000 with versions := [version1] }
       u.wave? 1 = some awaitWave ∧ awaitWave.isDet = false ∧ awaitWave.awaitsIrrevocable = true ∧ awaitWave.frozen = none
       ∧ awaitWave.stopped = false ∧ awaitWave.stopReq = false ∧ awaitWave.ver?.isSome = true ∧ u.canIrrevocable awaitWave = true
       ∧ x.wave? 1 = some awaitWave ∧ x.canIrrevocable awaitWave = false ∧ (x.core 0).fifoLines = []
       ∧ ((dirtyBlock u).wave? 1 = some awaitWave) ∧ (dirtyBlock u).canIrrevocable awaitWave = false
       ∧ ((dirtyBlock u).core 0).fifoLines ≠ [])
    ∧ (let y : Wave := { holdWave with paths := [blockedPath .irrevocable] }
       let u := taskState y true 0
       u.wave? 1 = some y ∧ y.awaitsIrrevocable = true ∧ y.ver? = none ∧ u.releases = [] ∧ (u.task 4).cp = true
       ∧ (∀ h, y.task = some h → (u.task h.index).cp = true)
       ∧ ∃ r ∈ ({ u with releases := [waitingPlain] } : State).releases, r.req.wave = 1 ∧ r.act.lines ≠ [])
    ∧ (PostBlock.ofBytes post0).ok = true ∧ (PostBlock.ofBytes (List.replicate 32 255)).ok = false ∧ s.taskRoom 0 1 = true
    ∧ (s.setReg (Reg.tkQuota 0) 1).taskRoom 0 1 = false
    ∧ BitVec.ofNat 16 (PostBlock.ofBytes post0).dep = 0
    ∧ BitVec.ofNat 16 (PostBlock.ofBytes (post0.set 30 1)).dep ≠ 0 ∧ (PostBlock.ofBytes (post0.set 30 1)).ok = true
    ∧ (s.task 5).state = .waiting ∧ (s.task 5).asid = 1 ∧ (s.task 5).dep = 1
    ∧ SMap.wf (fun _ => TaskEntry.empty) s.tasks = true ∧ (s.task 3).state ∈ [.waiting, .ready, .faulted, .parked]
    ∧ (s.task 4).state = .running
    ∧ h.heldParks.find? (fun x => x.part == 0) = some park0 ∧ (h.park? 1 0 2 0x340).isSome = true
    ∧ h.wave? 1 = some v ∧ v.paths.find? (fun z => z.stage == .park 8) = some parkPath := by decide +kernel
/-! ### The network and the fabric -/

/-- A wave whose target registers S12 to S15 name device 0 and address 0x10000. -/
def netWave (w0 : BitVec 32) : Wave := let w := memWave .i32; { w with s := (w.s.set 12 w0).set 14 0x10000 }
def netFields : List Field := [.group isVec 1 1 (.v 4), .group isSca 4 4 (.s 12)]
/-- No lane executes. -/
def idlePath : Path := { pathOf { modeOf .i32 with gen := true } with mask := 1 }
def idleWave : Wave := { netWave 0 with paths := [idlePath], p := Vector.replicate 8 0 }

/-- An NPUT that waits in the memory queue. -/
def netPacket : Packet := Packet.request 0 0 9 (.put 0x10000 1 [])

theorem witness_NetInstructions :
    let w := netWave 0
    let s := routed (b0 w)
    let far := netWave 0x400
    (b0 idleWave).ReadyClear idleWave idlePath netFields [] ∧ execMask idleWave idlePath = 0
    ∧ s.ReadyClear w (M .i32) netFields [] ∧ w.versioned = false ∧ execMask w (M .i32) ≠ 0
    ∧ s.netFault? (NetTarget.of w (.s 12)) false false = none ∧ s.netFault? (NetTarget.of w (.s 12)) true false = none
    ∧ (s.setReg Reg.klCtl 1).netFault? (NetTarget.of w (.s 12)) false true = none
    ∧ (routed (b0 far)).ReadyClear far (M .i32) netFields [] ∧ (routed (b0 far)).netFault? (NetTarget.of far (.s 12)) false false ≠ none
    ∧ w.holds = [] ∧ s.netRoom w.core = true ∧ w.det = none ∧ s.ReadyClear w (M .i32) [] []
    ∧ (s.netWaits w).isNone = true ∧ (s.setReg Reg.klCtl 1).netFault? (NetTarget.of w (.s 12)) true true = none
    ∧ (let q : State := { s with releases := [{ id := 41, req := comb0.req, waits := Waits.none, act := .net netPacket }] }
       q.ReadyClear w (M .i32) netFields [] ∧ q.netFault? (NetTarget.of w (.s 12)) false false = none ∧ q.netRoom w.core = true
       ∧ (q.netWaits w).isNone = false) :=
  ⟨clear_of rfl (by decide +kernel), by decide +kernel, clear_of rfl (by decide +kernel), rfl, by decide +kernel, by decide +kernel,
   by decide +kernel, by decide +kernel, clear_of rfl (by decide +kernel), by decide +kernel, rfl, by decide +kernel, rfl,
   clear_of rfl (by decide +kernel), by decide +kernel, by decide +kernel,
   ⟨clear_of rfl (by decide +kernel), by decide +kernel, by decide +kernel, by decide +kernel⟩⟩

/-- Stage queue 0 of partition 0, two records at 0x12000 of which n are pushed. -/
def queueState (w : Wave) (n : Nat) : State :=
  let s := (g0 w).setReg (Reg.sqBase 0) 0x40001
  { s with mem := (s.mem.writeN 0x40000 (leBytes 8 (2 ^ 63 + 2 ^ 56 + 0x12000))).writeN 0x12000 (leBytes 8 n) }

theorem witness_NetInstructions_receive :
    let w := memWave .i32
    let fields := [Field.group isVec 1 1 (.v 4), .src .zero]
    let s := queueState w 0
    let sw := fun (u : State) => u.switched w (M .i32)
    let x : StageQueue := { base := 0x12000, cap := 2 }
    s.ReadySwitch w (M .i32) fields [.src .zero] ∧ (srcUni (w.switched (M .i32)) (M .i32).atSwitch .zero).toNat = 0
    ∧ (sw s).stageQueue? 0 0 = some x ∧ (sw s).stageQueue? 0 4095 = none ∧ (sw s).crosses 0 x.base = false ∧ (sw s).queueBusy x = false
    ∧ w.holds = [] ∧ okIs (((sw s).settleHolds 1).popStage x 1) (·.isNone) = true
    ∧ (queueState w 1).ReadySwitch w (M .i32) fields [.src .zero]
    ∧ okIs (((sw (queueState w 1)).settleHolds 1).popStage x 1) (·.isSome) = true
    ∧ (let w : Wave := { w with part := 1 }
       let u := (queueState w 0).setReg (Reg.sqBase 1) 0x40001
       u.ReadySwitch w (M .i32) fields [.src .zero] ∧ (u.switched w (M .i32)).stageQueue? 1 0 = some x
       ∧ (u.switched w (M .i32)).crosses 1 x.base = true) :=
  ⟨switch_of rfl (by decide +kernel), by decide +kernel, by decide +kernel, by decide +kernel, by decide +kernel, by decide +kernel, rfl,
   by decide +kernel, switch_of rfl (by decide +kernel), by decide +kernel, ⟨switch_of rfl (by decide +kernel), by decide +kernel, by decide +kernel⟩⟩

/-- A packet from device 3 to this device. -/
def packet0 (ordered : Bool) (kind : PacketKind) : Packet :=
  { dst := 0, src := 3, ordered := ordered, period := false, kind := kind, part := 0, seq := 1, stamp := 40, wm := 40, ref := 9 }
def put0 : PacketKind := .put 0x10000 1 (List.replicate 32 7)
def send0 : PacketKind := .send 0 (List.replicate 32 7)
/-- This device's own packets go to output o; output o takes its packets from input 0 and port 0 is up. -/
def linked (o : Nat) : State :=
  ((((queueState (memWave .i32) 0).setReg (Reg.klPort 0) 3).setReg (Reg.klRoute 0) (BitVec.ofNat 64 (2 ^ 63 + o))).setReg
    (Reg.klrMask (Fin.ofNat 17 o)) 1).setReg (Reg.klAsid 0) 0x101
/-- With an ordered packet at input 0, or a loose one. -/
def queued (o : Nat) (k : PacketKind) : State := (linked o).modFabric fun f => { f with ordered := f.ordered.set 0 [packet0 true k] }
def loose (o : Nat) (k : PacketKind) : State := (linked o).modFabric fun f => { f with unordered := [(0, packet0 false k)] }
/-- With one that has arrived. -/
def landed (k : PacketKind) : State := (linked 16).modFabric fun f => { f with arrived := [(0, packet0 false k)] }
def held0 : HeldPush := { part := 0, queue := 0, record := List.replicate 32 7, ordered := false, ack := some (3, 9) }
def netOp0 (reply : PacketKind) (infl : Option Nat) : NetOp :=
  { id := 9, core := 0, wave := 1, infl := infl, cmd := none, dst := 3, va := 0x10000, send := false, ordered := false, pc := 0x10000,
    reply := some reply }
/-- What a request comes to. -/
def answered : RemoteResult → Nat
  | .done .. => 0
  | .held => 1
  | .wait => 2
  | .boundary => 3

theorem witness_FabricSteps_router :
    (linked 0).portUp 0 = true ∧ (linked 0).portUp 1 = false ∧ (linked 0).fabric.podTime < (linked 0).fabric.lastSent[0] + 500 * 65536
    ∧ (let s := (linked 0).modFabric fun f => { f with podTime := 500 * 65536 }
       s.portUp 0 = true ∧ s.fabric.lastSent[0] + 500 * 65536 ≤ s.fabric.podTime)
    ∧ (linked 0).fabric.crcFails[0] < 16
    ∧ ((linked 0).modFabric fun f => { f with crcFails := f.crcFails.set 0 16 }).fabric.crcFails[0] = 16
    ∧ (linked 0).fabric.cut < (packet0 true put0).stamp
    ∧ (packet0 true put0).stamp ≤ ((linked 0).modFabric fun f => { f with cut := 40 }).fabric.cut
    ∧ (packet0 false put0).kind ≠ .beacon ∧ SMap.wf regReset (linked 0).regs = true
    ∧ (queued 0 put0).looseFor 0 = [] ∧ (queued 0 put0).sendable? 0 = some (0, packet0 true put0)
    ∧ (loose 0 put0).looseFor 0 = [(0, packet0 false put0)] ∧ (loose 0 put0).sendable? 0 = none
    ∧ (linked 0).looseFor 0 = [] ∧ (linked 0).sendable? 0 = none
    ∧ (loose 16 put0).looseFor 16 = [(0, packet0 false put0)] ∧ asksRemote put0 = true
    ∧ packetChannel? (packet0 false put0) = some 0 := by decide +kernel

/-- Credits (R391, R407): a link with room, one whose credits are out, and pushes beyond those that may be held. -/
def manyHeld : State :=
  (landed send0).modFabric fun f => { f with heldPushes := List.replicate 64 held0 }
theorem witness_FabricSteps_credits :
    (linked 0).grants 0 (packet0 false put0) = true ∧ (linked 0).grants 0 (packet0 true put0) = true
    ∧ manyHeld.pushesFull = true ∧ manyHeld.grants 0 (packet0 false put0) = false
    ∧ (queued 0 put0).hasCredit 0 (packet0 true put0) = true ∧ (loose 0 put0).hasCredit 0 (packet0 false put0) = true
    ∧ ((queued 0 put0).modFabric fun f => { f with owed := f.owed.set 2 (Config.linkDepth + 1) }).hasCredit 0 (packet0 true put0) = false := by
  have h : ∀ n, decide (0 < n + 1) = true := fun n => decide_eq_true (Nat.succ_pos n)
  refine ⟨?_, ?_, by decide +kernel, ?_, ?_, ?_, ?_⟩
  · exact (congrArg (· && true) (h Config.linkDepth) : _)
  · exact (congrArg (· && true) (h Config.linkDepth) : _)
  · have : manyHeld.pushesFull = true := by decide +kernel
    simp [State.grants, packetChannel?, packet0, put0, this]
  · exact h Config.linkDepth
  · exact h Config.linkDepth
  · exact decide_eq_false (Nat.lt_irrefl _)

theorem witness_FabricSteps_remote :
    answered ((landed put0).perform 0 (packet0 false put0)) = 0
    ∧ answered (((landed put0).setReg (Reg.klAsid 1) 0x101).perform 0 { packet0 false put0 with part := 1 }) = 3
    ∧ ((landed put0).setReg (Reg.klAsid 0) 0).remoteAsid? 0 = none
    ∧ answered (((landed send0).modFabric fun f => { f with heldPushes := [held0] }).perform 0 (packet0 false send0)) = 1
    ∧ (match (linked 16).pushStage 0 0 1 held0.record with | .done _ => true | _ => false) = true
    ∧ answered ((batching (landed put0) 0x10000).perform 0 (packet0 false put0)) = 2
    ∧ (((landed send0).modFabric fun f => { f with heldPushes := [held0] }).fabric.heldPushes.filter fun h => !h.ordered).length < 64
    ∧ answered (manyHeld.perform 0 (packet0 false send0)) = 1
    ∧ 64 ≤ (manyHeld.fabric.heldPushes.filter fun h => !h.ordered).length ∧ manyHeld.fabric.arrived[0]? = some (0, packet0 false send0)
    ∧ ((queued 16 put0).deliverNext? none).isSome = true ∧ (queued 16 put0).regBit Reg.klCtl 1 = false
    ∧ ((queued 16 put0).setReg Reg.klCtl 2).regBit Reg.klCtl 1 = true ∧ (queued 16 put0).fabric.resume = none := by decide +kernel

/-- A resume with a packet up to its cut to deliver, with none, and one that its home holds back. -/
theorem witness_FabricSteps_resume :
    let s := fun (c : Nat) => (queued 16 put0).modFabric fun f => { f with resume := some (c, 0) }
    (s 40).fabric.resume = some (40, 0) ∧ ((s 40).deliverNext? (some 40)).isSome = true ∧ (s 40).owesDelivery 40 = true
    ∧ (s 39).owesDelivery 39 = false ∧ ((s 39).deliverNext? (some 39)).isNone = true
    ∧ (batching (s 40) 0x10000).deliverNext? (some 40) = none := by decide +kernel

theorem witness_FabricSteps_replies :
    (let s := fun (k : PacketKind) (d : Option Nat) => (b0 (replyWave .nget)).modFabric fun f => { f with ops := [netOp0 k d] }
     ∀ x ∈ [(PacketKind.ack 0, none), (.ack 8, none), (.reply 0 [7], some 5)],
       (s x.1 x.2).fabric.ops.find? (fun o => o.id == 9) = some (netOp0 x.1 x.2))
    ∧ (let s := ((queued 0 put0).modFabric fun f => { f with podTime := 50000 * 65536 })
       s.regBit Reg.klCtl 1 = false ∧ s.waitsOn 0 = true ∧ s.fabric.lastRise[0] + 50000 * 65536 ≤ s.fabric.podTime)
    ∧ (let s := (((queued 0 put0).setReg (Reg.klrMask 0) 0x10001).modFabric fun f => { f with podTime := 50000 * 65536, floor := 60000 * 65536 })
       s.waitsOn 16 = true ∧ s.fabric.podTime < s.fabric.floor ∧ s.fabric.lastRise[16] + 50000 * 65536 ≤ s.fabric.podTime)
    ∧ (∀ i : Fin 17, (b0 (memWave .i32)).fabric.ordered[i] = []) ∧ (∀ q : Fin 32, (b0 (memWave .i32)).regBit (Reg.sqBase q) 0 = false)
    ∧ (linked 0).regBit Reg.klCtl 0 = false ∧ ((linked 0).setReg Reg.klCtl 1).regBit Reg.klCtl 0 = true
    ∧ (∀ b, ((linked 0).modDevice fun d => { d with running := b }).device.running = b) := by decide +kernel

/-! ### Launches and calls -/

/-- A launch record of one gang, as memory holds it, with its done word. -/
def recordBytes (done : Nat) : List Byte :=
  leBytes 8 0x10000 ++ leBytes 8 (1 + 2 ^ 16 + 2 ^ 32) ++ leBytes 8 (0xFFFF * 2 ^ 30 + 2 ^ 19 + 16 * 2 ^ 12 + 2 * 2 ^ 7)
    ++ List.replicate 72 0 ++ leBytes 8 done ++ List.replicate 24 0
/-- The record at the start of the page, and a second page of the context, whose frame belongs to partition 1. -/
def launchState (bs : List Byte) : State :=
  let s := blockState (memWave .i32) bs
  { s with mem := s.mem.writeN 0x40010 (leBytes 8 0x5003B),
           controllers := Vector.replicate 8 { Controller.reset with pages := placePages ++ [(5, { state := 1, part := 1 })] } }
/-- What becomes of a record. -/
def becomes : Submitted → Nat
  | .entered _ _ => 0
  | .forged => 1
  | .boundary => 2
def controlState : State := { b0 (memWave .i32) with cur := some (3, Tag.root) }
/-- Control core 3 in a privilege. -/
def controlAt (x : Priv) : State :=
  { controlState with control := controlState.control.set 3 { controlState.control[3] with priv := x } }

theorem witness_LaunchesComplete :
    let w := memWave .i32
    let s := launchState (recordBytes 0)
    s.ReadyClear w (M .i32) [.group isSca 2 2 (.s 14), baseField (.s 0), .src .zero] [.src .zero] ∧ w.holds = []
    ∧ blockEa w (M .i32) (.s 0) .zero = 0x10000 ∧ blockAddrFault? 0x10000 128 = none ∧ blockAddrFault? 0x10040 128 ≠ none
    ∧ (s.settleHolds 1).releasedFor w = true ∧ (s.settleHolds 1).blockSync w 0x10000 = none
    ∧ (let u := (dirtyBlock s).modCore 0 fun k => { k with fifo := [] }
       u.ReadyClear w (M .i32) [.group isSca 2 2 (.s 14), baseField (.s 0), .src .zero] [.src .zero]
       ∧ (u.settleHolds 1).releasedFor w = true ∧ ((u.settleHolds 1).blockSync w 0x10000).isSome = true)
    ∧ failIs (((s.settleHolds 1).blockRead w 0).blockBytes w 0 128) (fun _ => true) = true ∧ (s.settleHolds 1).blockSync w 0 = none
    ∧ (∀ x ∈ [(recordBytes 0, 0), (recordBytes 0x10200, 0), (recordBytes 0x60000, 1), (recordBytes 0x20000, 2), (List.replicate 128 0, 1)],
        let u := ((launchState x.1).settleHolds 1).blockRead w 0x10000
        okIs (u.blockBytes w 0x10000 128) (· == x.1) = true ∧ u.servesAll (u.launchLines 1 (LaunchRec.ofBytes x.1)) = true
        ∧ becomes (u.submit 1 0 x.1) = x.2)
    ∧ (let u := ((batching (launchState (recordBytes 0x10200)) 0x40000).settleHolds 1).blockRead w 0x10000
       okIs (u.blockBytes w 0x10000 128) (· == recordBytes 0x10200) = true
       ∧ u.servesAll (u.launchLines 1 (LaunchRec.ofBytes (recordBytes 0x10200))) = false) :=
  ⟨clear_of rfl (by decide +kernel), rfl, by decide +kernel, by decide +kernel, by decide +kernel, by decide +kernel, by decide +kernel,
   ⟨clear_of rfl (by decide +kernel), by decide +kernel, by decide +kernel⟩, by decide +kernel, by decide +kernel,
   by decide +kernel, by decide +kernel⟩

/-- Records that are forged by their shape or by an address, and one whose word is another partition's. -/
theorem witness_LaunchesComplete_forged :
    (LaunchRec.ofBytes (List.replicate 128 0)).shapeOk (List.replicate 128 0) = false
    ∧ (launchState []).launchPas 1 (LaunchRec.ofBytes (recordBytes 0x60000)) = none
    ∧ (LaunchRec.ofBytes (recordBytes 0x20000)).shapeOk (recordBytes 0x20000) = true
    ∧ (launchState []).launchPas 1 (LaunchRec.ofBytes (recordBytes 0x20000)) = some ([], some 0x50000)
    ∧ (launchState []).crosses 0 0x50000 = true := by decide +kernel

theorem witness_LaunchesComplete_entry :
    (b0 (memWave .i32)).exceeds 0 { record0 with stages := 2 } = true
    ∧ ((b0 (memWave .i32)).setReg (Reg.partCl 0) 1).exceeds 0 record0 = false
    ∧ (∃ s : State, s.freeLaunchSlots = []) ∧ (l0 (memWave .i32)).freeLaunchSlots ≠ []
    ∧ ((l0 (memWave .i32)).launches.filter fun x => x.asid = 1).length < 64
    ∧ (256 : DWord).toNat / 256 ≠ 0 ∧ (64 : DWord).toNat % 128 ≠ 0
    ∧ (let s := l0 (memWave .i32)
       bitsOf (0 : DWord).toNat 61 8 < s.seq ∧ s.launch? (Fin.ofNat 256 0) = some launch0 ∧ s.launch? (Fin.ofNat 256 7) = none
       ∧ s.seq ≤ bitsOf (0x100 : DWord).toNat 61 8 ∧ launch0.unplaced < launch0.units)
    ∧ (controlAt .user).cur = some (3, Tag.root) ∧ ((controlAt .user).control[(Fin.ofNat 16 3)]).priv = .user
    ∧ ((controlAt .machine).control[(Fin.ofNat 16 3)]).priv ≠ .user
    ∧ (controlAt .machine).cdmWaits 0 0 = false ∧ (launchState (recordBytes 0)).cdmWaits 0x10000 1 = false
    ∧ (batching (launchState (recordBytes 0)) 0x10000).cdmWaits 0x10000 1 = true
    ∧ (let u := State.placeControl State.reset 0x200B
       (u.control[(0 : Fin 16)]).held = false ∧ (u.control[(0 : Fin 16)]).fetch.toNat % 128 = 0x0B
       ∧ (u.control[(0 : Fin 16)]).fetch.toNat / 2 ^ 25 = 0 ∧ 2 ≤ (u.control[(0 : Fin 16)]).fetch.toNat / 2 ^ 12 % 8) := by
  refine ⟨by decide +kernel, by decide +kernel,
    ⟨{ b0 (memWave .i32) with launches := (List.finRange 256).map fun k => { launch0 with slot := k } }, by decide +kernel⟩, ?_⟩
  decide +kernel

/-- A call in slot 0 of the area at 0x20000 of ASID 1. -/
def call0 (posted : Bool) : SyscCall :=
  { wave := 1, infl := 5, wid := 0, release := 4, asid := 1, slot := 0, number := 7, exec := 1,
    requests := [(0, List.replicate 16 3)], pc := 0x10000, posted := posted }
def callState (posted : Bool) (n : Nat) : State :=
  { (b0 (replyWave .sysc)).setReg (Reg.syscBase 1) (BitVec.ofNat 64 (2 ^ 63 + 0x20000 + n)) with syscalls := [call0 posted] }
def callFields : List Field := [.group isVec 2 2 (.v 4), .group isVec 8 16 (.v 16), .src .zero]

theorem witness_CallsComplete :
    let w := memWave .i32
    let s := { callState false 2 with waves := [w] }
    let full := { callState false 1 with waves := [w] }
    (b0 idleWave).ReadyClear idleWave idlePath callFields [.src .zero] ∧ execMask idleWave idlePath = 0
    ∧ (b0 w).ReadyClear w (M .i32) callFields [.src .zero] ∧ execMask w (M .i32) ≠ 0
    ∧ (b0 w).regBit (Reg.syscBase w.asid.toNat) 63 = false
    ∧ s.ReadyClear w (M .i32) callFields [.src .zero] ∧ s.regBit (Reg.syscBase w.asid.toNat) 63 = true ∧ s.freeCallSlots w.asid ≠ []
    ∧ full.ReadyClear w (M .i32) callFields [.src .zero] ∧ full.freeCallSlots w.asid = [] :=
  ⟨clear_of rfl (by decide +kernel), by decide +kernel, clear_of rfl (by decide +kernel), by decide +kernel, by decide +kernel,
   clear_of rfl (by decide +kernel), by decide +kernel, by decide +kernel, clear_of rfl (by decide +kernel), by decide +kernel⟩

theorem witness_CallsComplete_units :
    (callState false 2).servesRange ((callState false 2).callSlot 1 0) 2112 = true
    ∧ (callState true 2).servesRange ((callState true 2).callSlot 1 0) 2368 = true
    ∧ (batching (callState true 2) 0x20000).servesRange ((callState true 2).callSlot 1 0) 2368 = false
    ∧ (∀ x ∈ [false, true], (callState x 2).call? 1 5 = some (call0 x)) ∧ ((callState false 2).releases.any fun r => r.id == 4) = false
    ∧ (∀ r ∈ (call0 true).requests, r.2.length = 16)
    ∧ (replyWave .sysc).inflight.find? (fun x => x.id == 5) = some (reply0 .sysc)
    ∧ (callState true 2).wave? 1 = some (replyWave .sysc) := by decide +kernel
/-! ### The scheduler -/

def detLaunch (ended closing : Bool) (order : List Nat) : Launch :=
  { launch0 with
    record := { record0 with det := true, quantum := 1 }
    det := some { quantum := 1, period := 0, closing := closing, ended := ended, order := order, combs := [], heldBars := [] } }
/-- A deterministic launch of one wave, which has retired n instructions of its quantum. -/
def detState (ended closing : Bool) (order : List Nat) (n : Nat) (past : Bool) : State :=
  { g0 { memWave .i32 with det := some { buffer := [], retired := n, ended := past, atEnd := false, tried := false } } with
    launches := [detLaunch ended closing order], seq := 1 }
/-- A wave that has halted, as it is asked to. -/
def haltedWave : Wave := { memWave .i32 with paths := [{ M .i32 with halted := true }], stopReq := true }
/-- A stopped wave of a gang that is to be saved. -/
def stoppedState (area : Bool) : State :=
  let s := { l0 haltedWave with gangs := [{ gang0 with stopping := true }] }
  if area then s.setReg (Reg.saveBase 1) (BitVec.ofNat 64 (2 ^ 63)) else s
/-- The saved gang of a running context. -/
def savedState : State :=
  { (l0 { haltedWave with stopped := true }).setReg (Reg.schCtx 1) (BitVec.ofNat 64 (2 ^ 62)) with
    gangs := [{ gang0 with stopping := true, saved := true, resident := false }] }
/-- A launch that has waited past the bound, of a running context. -/
def starvedState : State :=
  { ((l0 (memWave .i32)).setReg (Reg.schCtx 1) (BitVec.ofNat 64 (2 ^ 62))) with
    launches := [{ launch0 with ready := some 0, unplaced := 1 }], gangs := [], waves := [], tick := 2 ^ 21 }

theorem witness_ScheduleSteps :
    let s := l0 (memWave .i32)
    SMap.wf regReset s.regs = true ∧ s.launch? 0 = some launch0 ∧ launch0.ready = none ∧ s.depsMet launch0 = true
    ∧ s.depsMet { launch0 with depPas := [(0x10000, 2 ^ 60)] } = false
    ∧ (findSlot [{ pipe := 0, slot := 0, block := 0, blocks := 2 }] 2).isSome = true ∧ (s.scratchBase? 0 768).isSome = true
    ∧ SMap.wf (fun _ => 0) s.deficits = true
    ∧ SMap.at? starvedState.reservations 0 = none ∧ (starvedState.starving? 0).isSome = true ∧ s.starving? 0 = none
    ∧ gang0 ∈ s.ctxGangs 1 ∧ gang0.resident = true ∧ s.round.queueEmpty 1 0 = true
    ∧ (let u := starvedState.setReg (Reg.partCl 0) 1
       (u.reserveFor { launch0 with ready := some 0, unplaced := 1 }).2.1 = false) := by decide +kernel

theorem witness_ScheduleSteps_save :
    (∀ a ∈ [false, true], ((stoppedState a).gang? 0).any (fun x => ((stoppedState a).gangSet x).all (stoppedState a).savable
        && ((stoppedState a).gangSet x).findSome? (fun y => ((stoppedState a).gangWaves y.id).head?) == some haltedWave)
      = true ∧ (stoppedState a).hasSaveArea 1 = a)
    ∧ (l0 (memWave .i32)).gang? 0 = some gang0 ∧ ((l0 (memWave .i32)).gangSet gang0).all (l0 (memWave .i32)).savable = false
    ∧ (savedState.gang? 0).any (fun x => (savedState.gangSet x).all (·.saved)
        && ((savedState.gangSet x).foldl (fun (r : Option State) y => r.bind fun u => u.resumeGang y) (some savedState)).isSome
        && (savedState.launches.find? (fun l => l.slot == x.launch && l.seq == x.seq)) == some launch0) = true
    ∧ savedState.ctxRuns 1 = true ∧ (l0 (memWave .i32)).ctxRuns 1 = false := by decide +kernel

/-- A deterministic launch whose wave blocks, with a command that is due and writes one byte. -/
def dueState : State :=
  let p : EngPlan := { EngPlan.empty with writes := [{ space := .global, addr := 0x10100, byte := 1 }] }
  let w : Wave := { blockedWave (.engine 0 0) with det := some { buffer := [], retired := 1, ended := true, atEnd := false, tried := false } }
  { (detState false false [] 1 true) with waves := [w] }.modCore 0 fun k =>
    { k with engine := [{ cmd0 .done copy0 with plan := some p, det := true }] }
def dirtyDue : State := dueState.modCore 0 fun k =>
  { k with l1 := [{ line := 514, sectors := Vector.replicate 4 { Sector.empty with st := .d, mask := 1 } }], fifo := [.line 514] }

theorem witness_ScheduleSteps_periods :
    (∀ n ∈ [0, 1], ((detState false false [] n false).wave? 1).any (fun w => (w.det.any fun d =>
        w.quantumOver d ((detState false false [] n false).quantumOf w) == decide (n = 1) && !d.ended)) = true)
    ∧ (let s := detState false false [] 1 true
       let l := detLaunch false false []
       s.launch? 0 = some l ∧ s.periodReady l = true ∧ s.buffersFree l = true ∧ s.dueLines l = [])
    ∧ (let l := detLaunch false false []
       let dirty := dirtyBlock dueState
       let coming := batching dueState 0x10100
       dueState.dueLines l = [(0, [514])] ∧ (dueState.core 0).dirtyLine 514 = false ∧ dueState.lineComing 0 514 = false
       ∧ dueState.serves 514 = true ∧ dueState.periodReady l = true ∧ dueState.buffersFree l = true
       ∧ (dirtyDue.core 0).dirtyLine 514 = true ∧ dirtyDue.dueLines l = [(0, [514])] ∧ dirtyDue.periodReady l = true
       ∧ coming.servesAll [514] = false ∧ coming.dueLines l = [(0, [514])] ∧ coming.periodReady l = true
       ∧ coming.buffersFree l = true ∧ dirty.launch? 0 = some l)
    ∧ (let s := detState false true [1] 1 true
       s.launch? 0 = some (detLaunch false true [1]) ∧ s.stepBusy (detLaunch false true [1]) = false)
    ∧ (let s := detState false true [] 1 true
       s.launch? 0 = some (detLaunch false true []) ∧ s.stepBusy (detLaunch false true []) = false)
    ∧ (let s := detState true false [] 1 true
       let l := detLaunch true false []
       s.launch? 0 = some l ∧ s.peersReached l 0 = true ∧ s.resultsOut l = false ∧ s.commitsFree l = true ∧ (s.deliverPeriod 0 0).isSome = true) := by decide +kernel
/-! ### Translation, controllers, registers, the device -/

/-- A TLB invalidation of ASID 1 that waits for command 7 of core 0. -/
def inv0 (cs : List (Fin 256 × Nat)) : TlbInv := { kind := 1, asid := 1, page := 0, commands := cs }

theorem witness_TranslationSteps :
    let s := memState .i32
    let root := s.reg (Reg.trRoot 1)
    SMap.wf (fun _ => []) s.clusterTlbs = true ∧ root.getLsbD 0 = true ∧ (s.reg (Reg.trRoot 2)).getLsbD 0 = false
    ∧ bitsOf root.toNat 51 16 * 65536 = 0x20000
    ∧ okIs (s.homeBytes 0x20000 8) (· == leBytes 8 0x30001) = true ∧ tableReserved 0x30001 = false
    ∧ okIs (s.homeBytes 0x30000 8) (· == leBytes 8 0x40001) = true ∧ tableReserved 0x40001 = false
    ∧ okIs (s.homeBytes (0x40000 + 8 * bitsOf 0x10000 28 16) 8) (· == leBytes 8 0x1003B) = true ∧ tableReserved 0x1003B = false
    ∧ (0x1003B : DWord).getLsbD 1 = true ∧ (0x1003B : DWord).getLsbD 8 = false
    ∧ okIs (({ s with mem := s.mem.write 0x20000 3 } : State).homeBytes 0x20000 8) (· == leBytes 8 0x30003) = true
    ∧ tableReserved 0x30003 = false
    ∧ okIs (s.pageOf 0 1 1) (fun e => !((Rights.rw.rd && !e.rd) || (Rights.rw.wr && !e.wr) || (Rights.rw.ex && !e.ex) || (e.sys && true)) && !e.bmi)
      = true
    ∧ s.tlb? 0 1 1 = none := by decide +kernel

/-- The page's entry, as some bits of it say: readable only, a system page, a buffer-map page of entry 1, one whose bits name
none, and none. -/
def entryState (e : Nat) : State := { memState .i32 with mem := (memState .i32).mem.writeN 0x40008 (leBytes 8 e) }
theorem witness_TranslationSteps_entries :
    okIs ((entryState 0x1000B).pageOf 0 1 1) (fun e => Rights.rw.wr && !e.wr && !e.bmi) = true
    ∧ okIs ((entryState 0x1007B).pageOf 0 1 1) (fun e => e.sys && !e.bmi) = true
    ∧ okIs ((entryState 0x1013B).pageOf 0 1 1) (fun e => e.bmi && e.names && e.rd && e.wr && e.ex && !e.sys) = true
    ∧ okIs ((entryState 0x401013B).pageOf 0 1 1) (fun e => e.bmi && !e.names && e.rd && e.wr && e.ex && !e.sys) = true
    ∧ (∀ e ∈ [(0x1003B : Nat), 0x1013B, 0x401013B, 0],
        let s := entryState e
        let lines := s.walkLines (s.coreBytes 0) 1 (1 * 65536)
        let u := (s.atHome 0 lines 1).count (.core 0) 0x15 1
        s.tlb? 0 1 1 = none ∧ s.homesFree 0 lines = true
        ∧ (match u.coreWalk 0 1 (1 * 65536) with
          | .ok l => l.bmi == (e != 0x1003B) && (l.entry 1 1).names == (e != 0x401013B) && e != 0
          | .error _ => e == 0) = true) := by decide +kernel

theorem witness_TranslationSteps_tlb :
    let s := match execPageWalk 0 1 0x10000 (memState .i32) with | .next t => t | _ => memState .i32
    (s.tlb? 0 1 1).any (fun e => !(s.tlbInvs.any (·.covers e))) = true
    ∧ okIs (s.pageOf 0 1 1) (fun e => e.rd && e.wr) = true
    ∧ (let u : State := { engineState (memWave .i32) (cmd0 .accepted copy0) with tlbInvs := [inv0 [(0, 7)]] }
       (inv0 [(0, 7)]).commands.any u.hasCmd = true)
    ∧ (inv0 [(0, 8)]).commands.any (engineState (memWave .i32) (cmd0 .accepted copy0)).hasCmd = false
    ∧ (let i : TlbInv := { kind := 2, asid := 1, page := 8191, commands := [] }
       let e : TlbEntry := { asid := 1, page := 0, frame := 1, rd := true, wr := true, ex := true, sys := false, bmi := false, large := true }
       e.asid = i.asid ∧ e.large = true ∧ e.page / 8192 = i.page / 8192) := by decide +kernel

/-- A line with bytes 1, 2, 3, … -/
def lineData : Vector Byte 128 := Vector.ofFn fun i => BitVec.ofNat 8 (7 * i.val * i.val + i.val + 1)
def zeroLine : Vector Byte 128 := Vector.replicate 128 0
/-- Page 7 is packed at its controllers, which have n free chunks and some lines in their buffer. -/
def packed (n : Nat) (o : List OverflowLine) : State :=
  (List.finRange 8).foldl (fun s mc => s.modCtl mc fun c => { c with pages := [(7, { state := 2, part := 0 })], free := n, overflow := o })
    (memState .i32)
def line7 : Nat := 7 * 512
def write0 : LineWrite := { line := line7, data := lineData, master := 0, held := false }
def over0 (k : Nat) : OverflowLine := { index := lineIndex (line7 * 128) + k, part := 0, data := lineData }
/-- What a write-back and an allocation come to. -/
def wbKind : WbResult → Nat
  | .done _ => 0
  | .noChunks => 1
  | .badChoice => 2
def runKind : RunAlloc → Nat
  | .done _ => 0
  | .noChunks => 1
  | .badChoice => 2

theorem witness_ControllerSteps_lines :
    fitsMode 0 zeroLine = true ∧ fitsMode 9 lineData = true ∧ chooseMode zeroLine ≠ 9
    ∧ wbKind ((packed 100 []).writebackLine line7 lineData none 0 0) = 0 ∧ wbKind ((packed 0 []).writebackLine line7 lineData none 0 0) = 1
    ∧ (packed 100 []).mem.wf = true ∧ ((packed 100 []).pageState (line7 * 128)).state ≠ 0
    ∧ SMap.wf regReset (packed 100 []).regs = true
    ∧ (let s : State := { packed 0 [] with lineWrites := [write0] }
       let mc := mcOf (line7 * 128)
       s.lineWrites.find? (fun w => w.line == line7) = some write0 ∧ ((s.ctl mc).rebuffer (lineIndex (line7 * 128)) lineData).isNone = true
       ∧ (s.ctl mc).overflow.length < 32768
       ∧ wbKind (({ s with lineWrites := replaceWrite line7 none s.lineWrites } : State).writebackLine line7 lineData none 0 0) = 1)
    ∧ (let s : State := { packed 100 [] with lineWrites := [write0] }
       wbKind (({ s with lineWrites := replaceWrite line7 none s.lineWrites } : State).writebackLine line7 lineData none 0 0) = 0)
    ∧ (((packed 0 [over0 0]).ctl (mcOf (line7 * 128))).rebuffer (lineIndex (line7 * 128)) lineData).isSome = true
    ∧ (let s := packed 100 [over0 0]
       let mc := mcOf (line7 * 128)
       (s.ctl mc).overflow = [over0 0]
       ∧ wbKind ((s.modCtl mc fun (c : Controller) => { c with overflow := [] }).writebackLine (lineOfIndex mc (over0 0).index) lineData none 0 0) = 0)
    ∧ (let o := over0 0
       let x : OverflowLine := { over0 1 with data := zeroLine }
       let s := packed 1 [o, x]
       let mc := mcOf (line7 * 128)
       (s.ctl mc).overflow = [o, x]
       ∧ wbKind ((s.modCtl mc fun (c : Controller) => { c with overflow := [x] }).writebackLine (lineOfIndex mc o.index) o.data none 0 0) = 1
       ∧ wbKind ((s.modCtl mc fun (c : Controller) => { c with overflow := [o] }).writebackLine (lineOfIndex mc x.index) x.data none 0 0) = 0)
    ∧ write0.held = false ∧ (packed 100 []).readsDram line7 = true ∧ (packed 100 []).readsDram 0 = false := by decide +kernel

/-- A full buffer. -/
theorem witness_ControllerSteps_full :
    32768 ≤ ((List.range 32768).map fun k => over0 (k + 1)).length := by simp

theorem witness_ControllerSteps_pages :
    let s := memState .i32
    (s.pageCopy 0 9).state = 0 ∧ (s.pageCopy 0 1).state ≠ 0
    ∧ runKind (State.allocRaw 0 0 (pageLines 0 9) [] (s.modCtl 0 fun c => { c with free := 0 })) = 1
    ∧ runKind (State.allocRaw 0 0 ((pageLines 0 9).take 4) [0, 4, 8, 12] s) = 0
    ∧ (s.setReg (Reg.fw 0 6) 0).regBit (Reg.fw 0 6) 0 = false
    ∧ s.reservedSum 0 0 5 ≤ poolSize ∧ poolSize < s.reservedSum 0 0 (2 ^ 40) := by decide +kernel
theorem witness_ControllerSteps_fixed :
    runKind (State.allocRaw 0 0 (pageLines 0 9) ((List.range 64).map (4 * ·)) (memState .i32)) = 0 := by decide +kernel

/-- A producer slot of core 0 that runs. -/
def producerWave (status : PathStatus) : Wave :=
  let (w, _) := (memState .i32).producerWave 0
  { w with paths := w.paths.map fun q => { q with status := status } }

theorem witness_RegisterSteps :
    let s := memState .i32
    SMap.wf regReset s.regs = true ∧ ownStep Reg.cmbCtl = true ∧ ownStep (Reg.trRoot 1) = false
    ∧ (plainMask (Reg.trRoot 1)).isSome = true ∧ ownStep Reg.klCtl = false ∧ ownStep Reg.devInfo = false
    ∧ ownStep (Reg.counters (.core 0) + 0x100) = false ∧ plainMask (Reg.counters (.core 0) + 0x100) = none
    ∧ isCount (Reg.counters (.core 0) + 0x100) = true
    ∧ ownStep (Reg.schCtx 1) = false ∧ ownStep (Reg.klRoute 5) = false
    ∧ 0 < counterCount (.core 0) ∧ sourceOk (.core 0) 0x10 = true ∧ sourceOk (.core 0) 0 = false
    ∧ s.producer? 0 = none
    ∧ (∀ x ∈ [PathStatus.ready, .blocked (.reply [] true)], (({ s with waves := [producerWave x] } : State).producer? 0).isSome = true
        ∧ (producerWave x).producerHalts = decide (x ≠ .ready))
    ∧ s.regBit (Reg.ps 0 0) 1 = false ∧ (s.setReg (Reg.ps 0 0) 2).regBit (Reg.ps 0 0) 1 = true
    ∧ s.cmbDrained = false ∧ (s.setReg Reg.cmbCtl 1).cmbDrained = true
    ∧ ownStep 0x20101000800 = true ∧ (BitVec.ofNat 64 (3 * 2 ^ 62)).toNat / 2 ^ 62 = 3 ∧ (0 : DWord).toNat / 2 ^ 62 ≠ 3
    ∧ s.reloads = [] ∧ s.slotTaken 0 = false
    ∧ ({ s with waves := [{ memWave .i32 with pipe := 31, block := 14, nv := 16 }] } : State).slotTaken 0 = true
    ∧ ({ s with waves := [{ memWave .i32 with pipe := 31, block := 14, nv := 16 }] } : State).producer? 0 = none := by decide +kernel

theorem witness_RegisterSteps_producer (x : PathStatus) :
    ({ memState .i32 with waves := [producerWave x] } : State).wave? (producerWave x).id = some (producerWave x) :=
  List.find?_cons_of_pos (by simp)

theorem witness_DeviceSteps :
    let s := m0 (W .i32)
    SMap.wf regReset s.regs = true
    ∧ (let t : State := { s.modDevice fun d => { d with running := true, releaseTick := 0 } with tick := 2 ^ 34 }
       t.device.running = true ∧ t.started = false ∧ 2 ^ 34 ≤ t.tick - t.device.releaseTick)
    ∧ (s.setReg Reg.bootStat 0x100).started = true
    ∧ s.overlaps 0 1 = false ∧ s.partBusy 1 = false ∧ (s.setReg (Reg.partCl 1) 1).overlaps 0 1 = true
    ∧ (let u := s.sensed [BitVec.ofInt 16 (-200)]
       150 < (((u.reg (Reg.ageMon 0)).setWidth 16 : BitVec 16).toInt).natAbs ∧ (u.planDue || u.ageDrifted) = true)
    ∧ (let u := s.sensed [BitVec.ofInt 16 100]; (u.planDue || u.ageDrifted) = false)
    ∧ (110 : BitVec 8).toNat ≥ 110 ∧ (109 : BitVec 8).toNat < 110
    ∧ ((s.setReg Reg.pwrLim 300).reg Reg.pwrLim).toNat < (301 : BitVec 12).toNat
    ∧ (300 : BitVec 12).toNat ≤ ((s.setReg Reg.pwrLim 300).reg Reg.pwrLim).toNat
    ∧ s.inRecovery = false ∧ (s.setReg Reg.bootStat 1).inRecovery = true ∧ s.device.flash.wf = true := by decide +kernel

/-- Function 0 with a window of the page 0x10000. -/
def barState : State :=
  (m0 (W .i32)).modDevice fun d => { d with functions := [{ part := some 0, base := 0x10000, len := 0x10000, enabled := true, message := [] }] }

theorem witness_DeviceSteps_host :
    ((barState.function? 0).bind fun f => f.bar0? 0x20000 8) = none
    ∧ ((barState.function? 0).bind fun f => f.bar0? 0x100 8) = some (0, 0x10100)
    ∧ barState.crossesIn 0 0x10100 8 = false ∧ barState.servesRange 0x10100 8 = true
    ∧ (batching barState 0x10100).crossesIn 0 0x10100 8 = false ∧ (batching barState 0x10100).servesRange 0x10100 8 = false
    ∧ (batching barState 0x10100).function? 0 = barState.function? 0
    ∧ (barState.device.functions[0]?).isSome = true
    ∧ (let f : PcieFunction := { part := none, base := 0, len := 0, enabled := false, message := [] }
       ((barState.modDevice fun d => { d with functions := d.functions ++ [f] }).device.functions[1]?) = some f)
    ∧ (let u := barState.modDevice fun d => { d with functions := d.functions.map fun f => { f with part := some 1 } }
       ((u.function? 0).bind fun f => f.bar0? 0x100 8) = some (1, 0x10100) ∧ u.crossesIn 1 0x10100 8 = true)
    ∧ ((barState.function? 0).map fun f => f.message.wf) = some true := by decide +kernel
/-! ### The machine -/

theorem witness_StepRuns :
    let w := memWave .i32
    let s : State := { m0 w with focus := (w.core, w.pipe), cur := none, turns := [] }
    let q := M .i32
    ((s.issuer w.core w.pipe).map fun x => (x.1.id, x.2)) = some (1, q) ∧ w.haltReq = false ∧ w.atJoin q = false
    ∧ okIs (s.fetch w q.pc) (· == 0x02000000#32) = true ∧ s.wave? w.id = some w ∧ w.path? q.tag = some q
    ∧ s.fetchWaits w q.pc = false ∧ w.det = none
    ∧ okIs (decodeWord 0x02000000#32) (· == .nop) = true ∧ failIs (decodeWord 0b1110101_0_00000010_10000100_00001001#32) (fun _ => true) = true :=
  ⟨by decide +kernel, by decide +kernel, by decide +kernel, by decide +kernel, rfl, rfl, by decide +kernel, rfl, by decide +kernel,
   by decide +kernel⟩

/-- A combiner's method in its body, at a NOP of the store. -/
def methodPath : Path := { M .i32 with pc := 0 }
def methodWave : Wave := { combinerWave with paths := [methodPath] }
def methodState : State :=
  { (m0 methodWave).modHome 0 (fun h => { h with batch := some batch0 }) with turns := [.combiner 0] }.setReg (Reg.cmbStore 0) 0x02000000

theorem witness_StepRuns_turns :
    methodState.turns.head? = some (.combiner 0)
    ∧ (let s0 : State := { methodState with turns := [] }
       s0.methodPath? 0 = some (methodWave, methodPath, batch0) ∧ methodWave.atJoin methodPath = false ∧ batch0.inBody methodPath.pc = true
       ∧ methodWave.clock < 4096 ∧ okIs (s0.fetch methodWave methodPath.pc) (· == 0x02000000#32) = true)
    ∧ (let s : State := { memState .i32 with turns := [.control 3] }
       let f : State := { s with control := s.control.set 3 { s.control[3] with held := false, fetch := 0x0073028B } }
       s.turns.head? = some (.control 3) ∧ f.control[(3 : Fin 16)].held = false
       ∧ decodeCdm (f.control[(3 : Fin 16)]).fetch = some (.cdmLaunch 7 6 5) ∧ decodeCdm 0x13 = none ∧ cdmReserved 0x13 = false
       ∧ decodeCdm 0x200B = none ∧ cdmReserved 0x200B = true)
    ∧ ({ memState .i32 with turns := [.unit (.launchReady 0)] } : State).turns.head? = some (.unit (.launchReady 0)) := by decide +kernel

theorem witness_StepKeepsMemory :
    (memState .i32).memoryWf = true ∧ State.reset.memoryWf = true
    ∧ (match step { memState .i32 with turns := [.unit (.bootstatWrite 0x100)] } with | .next _ => true | _ => false) = true := by
  decide +kernel

end Sys2Proof.Tests
end

section
/-! SUPPORT. Registers after a write, the words of a block, the begin and the end of a reload, REGISTER_WRITE by address, and the
steps that write registers (R6, R88, R121, R123, R138, R150, R166, R297, R415, R422, R423). -/

namespace Sys2Proof.Machine

/-! ## Registers after a write -/

section
variable {α : Type} [DecidableEq α]

/-- A write keeps the canonical form of a map whose default depends on the key. -/
theorem SMap.wf_setAt (d : Nat → α) (m : SMap α) (k : Nat) (x : α) (h : SMap.wf d m = true) :
    SMap.wf d (SMap.set (d k) m k x) = true := by
  unfold SMap.set
  split
  · exact SMap.wfFrom_erase d k h
  · next hx => exact SMap.wfFrom_insert d k x hx (fun _ hl => nomatch hl) h

/-- A read after a write, in a map whose default depends on the key. -/
theorem SMap.get_setAt (d : Nat → α) (m : SMap α) (k j : Nat) (x : α) (h : SMap.wf d m = true) :
    SMap.get (d j) (SMap.set (d k) m k x) j = if j = k then x else SMap.get (d j) m j := by
  unfold SMap.set SMap.get
  split
  · next hx =>
    rw [SMap.at?_erase d k j h]
    by_cases hj : j = k
    · subst hj; simp [hx]
    · simp [hj]
  · rw [SMap.at?_insert]
    by_cases hj : j = k <;> simp [hj]

end

/-- The registers stand in the canonical form. -/
abbrev State.RegsWf (s : State) : Prop := SMap.wf regReset s.regs = true

theorem State.RegsWf.setReg {s : State} (h : s.RegsWf) (pa : Nat) (x : DWord) : (s.setReg pa x).RegsWf :=
  SMap.wf_setAt regReset s.regs pa x h

theorem State.reg_setReg {s : State} (h : s.RegsWf) (pa q : Nat) (x : DWord) :
    (s.setReg pa x).reg q = if q = pa then x else s.reg q :=
  SMap.get_setAt regReset s.regs pa q x h

theorem State.reg_setReg_same {s : State} (h : s.RegsWf) (pa : Nat) (x : DWord) : (s.setReg pa x).reg pa = x := by
  rw [State.reg_setReg h, if_pos rfl]

theorem State.reg_setReg_ne {s : State} (h : s.RegsWf) {pa q : Nat} (hq : q ≠ pa) (x : DWord) :
    (s.setReg pa x).reg q = s.reg q := by
  rw [State.reg_setReg h, if_neg hq]

/-- A state that differs in registers only still does after one more write. -/
theorem State.frame_setReg {s t : State} (h : { t with regs := s.regs } = s) (pa : Nat) (x : DWord) :
    { t.setReg pa x with regs := s.regs } = s := h

theorem State.setsReg_setReg {s : State} (h : s.RegsWf) (pa : Nat) (x : DWord) : s.SetsReg (s.setReg pa x) pa x where
  value := State.reg_setReg_same h pa x
  others _ hq := State.reg_setReg_ne h hq x
  rest := rfl

/-! ## Halves of a 64-bit register -/

/-- A bit of a pair, whose width is written as 64. -/
theorem getLsbD_pair (a b : Word) (i : Nat) :
    (a ++ b : DWord).getLsbD i = if i < 32 then b.getLsbD i else a.getLsbD (i - 32) := BitVec.getLsbD_append

theorem lo32_append (a b : Word) : lo32 (a ++ b) = b :=
  BitVec.eq_of_getLsbD_eq fun i hi => by simp [lo32, getLsbD_pair, hi]

theorem hi32_append (a b : Word) : hi32 (a ++ b) = a :=
  BitVec.eq_of_getLsbD_eq fun i hi => by simp [hi32, getLsbD_pair, hi]

/-- The two halves of a value make the value (R9). -/
theorem join64_lo32_hi32 (x : DWord) : join64 (lo32 x) (hi32 x) = x := by
  refine BitVec.eq_of_getLsbD_eq fun i hi => ?_
  rw [join64, getLsbD_pair]
  split
  · next h => simp [lo32, h]
  · next h =>
    have h1 : i - 32 < 32 := by omega
    have h2 : 32 + (i - 32) = i := by omega
    simp [hi32, h1, h2]

/-- A word of a block reads back after it is written, and every other word of the block is as before (R123, R166). -/
theorem State.blockWord_setBlockWord {s : State} (h : s.RegsWf) (base w k : Nat) (x : Word) :
    (s.setBlockWord base w x).blockWord base k = if k = w then x else s.blockWord base k := by
  unfold State.setBlockWord State.blockWord
  simp only
  by_cases hr : k / 2 = w / 2
  · rw [hr, State.reg_setReg_same h]
    by_cases hk : k = w
    · subst hk
      by_cases he : k % 2 = 0 <;> simp [he, lo32_append, hi32_append]
    · by_cases he : w % 2 = 0
      · have : k % 2 ≠ 0 := by omega
        simp [hk, he, this, hi32_append]
      · have : k % 2 = 0 := by omega
        simp [hk, he, this, lo32_append]
  · have hne : base + 8 * (k / 2) ≠ base + 8 * (w / 2) := by omega
    have hk : k ≠ w := fun e => hr (by rw [e])
    rw [State.reg_setReg_ne h hne, if_neg hk]

/-! ## Reloads (R297) -/

namespace State
section
variable (s : State) (u : ReloadUnit)

/-- The begin of a reload changes the list of reloads and nothing else. -/
theorem startReload_eq : ∃ r, s.startReload u = { s with reloads := r } := by
  unfold startReload
  split
  · exact ⟨s.reloads, rfl⟩
  · exact ⟨_, rfl⟩

@[simp] theorem startReload_regs : (s.startReload u).regs = s.regs := by
  obtain ⟨r, h⟩ := startReload_eq s u; rw [h]
@[simp] theorem startReload_waves : (s.startReload u).waves = s.waves := by
  obtain ⟨r, h⟩ := startReload_eq s u; rw [h]
@[simp] theorem startReload_mem : (s.startReload u).mem = s.mem := by
  obtain ⟨r, h⟩ := startReload_eq s u; rw [h]

@[simp] theorem startReload_wave? (id : Nat) : (s.startReload u).wave? id = s.wave? id := by
  unfold wave?; rw [startReload_waves]
@[simp] theorem startReload_producer? (c : Fin 256) : (s.startReload u).producer? c = s.producer? c := by
  unfold producer?; rw [startReload_waves]

/-- A unit that is not under reload enters the list with the tick. -/
theorem startReload_reloads (h : ∀ r ∈ s.reloads, r.unit ≠ u) :
    (s.startReload u).reloads = s.reloads ++ [{ unit := u, since := s.tick }] := by
  have hn : s.reloads.any (fun r => r.unit == u) = false := by simpa using h
  simp [startReload, hn]

/-- The end of a reload changes registers and the list of reloads, from which it takes the unit. -/
theorem endReload_eq (a : BitVec 8) :
    ∃ regs, s.endReload u a = { s with regs := regs, reloads := s.reloads.filter fun r => r.unit != u } := by
  unfold endReload
  split
  · exact ⟨_, rfl⟩
  · next h =>
    refine ⟨s.regs, ?_⟩
    have hf : (s.reloads.filter fun r => r.unit != u) = s.reloads := by
      rw [List.filter_eq_self]
      simpa [List.find?_eq_none, bne] using h
    rw [hf]

@[simp] theorem endReload_reloads (a : BitVec 8) :
    (s.endReload u a).reloads = s.reloads.filter fun r => r.unit != u := by
  obtain ⟨r, h⟩ := endReload_eq s u a; rw [h]
@[simp] theorem endReload_waves (a : BitVec 8) : (s.endReload u a).waves = s.waves := by
  obtain ⟨r, h⟩ := endReload_eq s u a; rw [h]

/-- No reload of the unit is left. -/
theorem endReload_unit (a : BitVec 8) : ∀ r ∈ (s.endReload u a).reloads, r.unit ≠ u := by
  simp

end

theorem RegsWf.endReload {s : State} (h : s.RegsWf) (u : ReloadUnit) (a : BitVec 8) : (s.endReload u a).RegsWf := by
  unfold State.endReload
  split
  · exact RegsWf.setReg (s := { s with reloads := _ }) h _ _
  · exact h

/-- The end of a reload charges SCHTIME of the context, and writes no other register. -/
theorem reg_endReload {s : State} (h : s.RegsWf) (u : ReloadUnit) (a : BitVec 8) {q : Nat}
    (hq : q ≠ Reg.schTime a.toNat) : (s.endReload u a).reg q = s.reg q := by
  unfold endReload
  split
  · next r _ => exact reg_setReg_ne (s := { s with reloads := _ }) h hq _
  · rfl

end State

/-! ## REGISTER_WRITE (R6, R88, R150, R415) -/

/-- The steps of their own lie below the end of the region. -/
theorem ownStep_above {pa : Nat} (h : regionEnd ≤ pa) : ownStep pa = false := by
  have hb : 0x21000 ≤ pa / 2 ^ 24 := by unfold regionEnd at h; omega
  have hmc : ¬(0x20000000000 ≤ pa ∧ pa < 0x20000800000) := by unfold regionEnd at h; omega
  unfold ownStep
  simp only [hmc, decide_false, Bool.false_and, Bool.false_or]
  split
  any_goals omega
  rfl

theorem plainMask_lt {pa m : Nat} (h : plainMask pa = some m) : pa < regionEnd := by
  refine Nat.lt_of_not_le fun hpa => ?_
  have hb : 0x21000 ≤ pa / 2 ^ 24 := by unfold regionEnd at hpa; omega
  have hmc : ¬(0x20000000000 ≤ pa ∧ pa < 0x20000800000) := by unfold regionEnd at hpa; omega
  rw [plainMask, if_neg hmc, sharedMask] at h
  split at h
  any_goals omega
  cases h

theorem isCount_lt {pa : Nat} (h : isCount pa = true) : pa < regionEnd := by
  refine Nat.lt_of_not_le fun hpa => ?_
  have hk : 0xC00000 ≤ (pa - 0x20400000000) / 0x1000 := by unfold regionEnd at hpa; omega
  have hn : counterUnit? (pa - 0x20400000000) = none := by
    unfold counterUnit?
    simp only
    rw [if_neg (by omega), if_neg (by omega), if_neg (by omega), if_neg (by omega)]
  simp [isCount, hn] at h

theorem isCount_below {pa : Nat} (h : pa < 0x20400000000) : isCount pa = false := by
  rw [isCount, decide_eq_false (Nat.not_le.mpr h), Bool.false_and]

/-- A register array starts at `o`: an offset below it is not one of its registers. -/
theorem inRegs_below {off o n : Nat} (h : off < o) : inRegs off o n = false := by
  simp only [inRegs, decide_eq_false_iff_not]
  omega

theorem inRegs_above {off o n : Nat} (h : o + 8 * n ≤ off) : inRegs off o n = false := by
  simp only [inRegs, decide_eq_false_iff_not]
  omega

theorem inRegs_nth {o n k : Nat} (ho : o % 8 = 0) (h : k < n) : inRegs (o + 8 * k) o n = true := by
  simp only [inRegs, decide_eq_true_iff]
  omega

theorem sharedMask_scheduler {pa : Nat} (h : pa / 2 ^ 24 = 0x20103) :
    sharedMask pa = maskIn (pa % 2 ^ 24) schedulerMasks := by
  unfold sharedMask
  rw [h]
  rfl

theorem sharedMask_fabric {pa : Nat} (h : pa / 2 ^ 24 = 0x20107) :
    sharedMask pa = maskIn (pa % 2 ^ 24) fabricMasks := by
  unfold sharedMask
  rw [h]
  rfl

theorem plainMask_schCtx (a : BitVec 8) : plainMask (Reg.schCtx a.toNat) = none := by
  have ha := a.isLt
  have hb : (0x20103000000 + 8 * a.toNat) / 2 ^ 24 = 0x20103 := by omega
  have ho : (0x20103000000 + 8 * a.toNat) % 2 ^ 24 = 8 * a.toNat := by omega
  have h1 : inRegs (8 * a.toNat) 0x800 256 = false := inRegs_below (by omega)
  have h2 : inRegs (8 * a.toNat) 0x1200 32 = false := inRegs_below (by omega)
  rw [Reg.schCtx, plainMask, if_neg (by omega), sharedMask_scheduler hb, ho]
  simp [maskIn, schedulerMasks, h1, h2]

theorem plainMask_klRoute {k : Nat} (hk : k < 1024) : plainMask (Reg.klRoute k) = none := by
  have hb : (0x20107000000 + 8 * k) / 2 ^ 24 = 0x20107 := by omega
  have ho : (0x20107000000 + 8 * k) % 2 ^ 24 = 8 * k := by omega
  have h1 : inRegs (8 * k) 0x2000 17 = false := inRegs_below (by omega)
  have h2 : inRegs (8 * k) 0x2300 32 = false := inRegs_below (by omega)
  have h3 : inRegs (8 * k) 0x2428 1 = false := inRegs_below (by omega)
  rw [Reg.klRoute, plainMask, if_neg (by omega), sharedMask_fabric hb, ho]
  simp [maskIn, fabricMasks, h1, h2, h3]

theorem tlbInvReserved_iff (pa : Nat) (x : DWord) :
    tlbInvReserved pa x = true ↔ pa = 0x20101000800 ∧ x.toNat / 2 ^ 62 = 3 := by
  simp [tlbInvReserved]

/-- A write of a register that is no step of its own, or that REGISTER_WRITE drops as reserved (R150). -/
def isRegisterWrite (pa : Nat) (x : DWord) : Bool := !ownStep pa || tlbInvReserved pa x

/-- The address lies in the region, and none of the registers that take a write stands there. -/
def ignoresWrite (pa : Nat) : Bool :=
  decide (pa < regionEnd) && (plainMask pa).isNone && !isCount pa
    && decide (¬(pa / 2 ^ 24 = 0x20103 ∧ inRegs (pa % 2 ^ 24) 0 256))
    && decide (¬(pa / 2 ^ 24 = 0x20107 ∧ inRegs (pa % 2 ^ 24) 0 1024)) && decide (pa ≠ Reg.klCtl)

section
variable {core : Fin 16} {pa : Nat} {x : DWord} {s : State}

theorem registerWrite_ownStep (ho : ownStep pa = true) (hx : pa ≠ 0x20101000800 ∨ x.toNat / 2 ^ 62 ≠ 3) :
    exec (.registerWrite { core := core, pa := pa } x) s = notEnabled := by
  have hr : tlbInvReserved pa x = false := by
    rw [Bool.eq_false_iff, ne_eq, tlbInvReserved_iff]
    exact fun ⟨hpa, hkind⟩ => hx.elim (fun hn => hn hpa) fun hn => hn hkind
  simp [exec_registerWrite, execRegisterWrite, ho, hr]

/-- Past the check for steps of their own, REGISTER_WRITE goes by the address. -/
theorem registerWrite_of_isRegisterWrite (h : isRegisterWrite pa x = true) :
    exec (.registerWrite { core := core, pa := pa } x) s =
      if regionEnd ≤ pa then .next (s.controlFault core 7)
      else match plainMask pa with
        | some m => .next (s.setReg pa (x &&& BitVec.ofNat 64 m))
        | none =>
          if isCount pa then .next (s.writeCount pa x)
          else if pa / 2 ^ 24 = 0x20103 ∧ inRegs (pa % 2 ^ 24) 0 256 then
            .next (s.writeSchCtx (BitVec.ofNat 8 (pa % 2 ^ 24 / 8)) x)
          else if pa / 2 ^ 24 = 0x20107 ∧ inRegs (pa % 2 ^ 24) 0 1024 then .next (s.setReg pa (routeValue x))
          else if pa = Reg.klCtl then .next (s.setReg pa ((s.reg pa &&& 0x7E#64) ||| (x &&& 1#64)))
          else .next s := by
  have hg : (ownStep pa && !tlbInvReserved pa x) = false := by
    cases ho : ownStep pa <;> simp_all [isRegisterWrite]
  rw [exec_registerWrite, execRegisterWrite]
  exact if_neg (ne_true_of_eq_false hg)

theorem registerWrite_above (h : regionEnd ≤ pa) :
    exec (.registerWrite { core := core, pa := pa } x) s = .next (s.controlFault core 7) := by
  rw [registerWrite_of_isRegisterWrite (by simp [isRegisterWrite, ownStep_above h]), if_pos h]

theorem registerWrite_plain (h : isRegisterWrite pa x = true) {m : Nat} (hm : plainMask pa = some m) :
    exec (.registerWrite { core := core, pa := pa } x) s = .next (s.setReg pa (x &&& BitVec.ofNat 64 m)) := by
  have hpa := plainMask_lt hm
  rw [registerWrite_of_isRegisterWrite h, if_neg (by omega), hm]

theorem registerWrite_count (h : isRegisterWrite pa x = true) (hm : plainMask pa = none) (hc : isCount pa = true) :
    exec (.registerWrite { core := core, pa := pa } x) s = .next (s.writeCount pa x) := by
  have hpa := isCount_lt hc
  rw [registerWrite_of_isRegisterWrite h, if_neg (by omega), hm]
  simp [hc]

theorem registerWrite_ignored (h : isRegisterWrite pa x = true) (hi : ignoresWrite pa = true) :
    exec (.registerWrite { core := core, pa := pa } x) s = .next s := by
  simp only [ignoresWrite, Bool.and_eq_true, decide_eq_true_iff, Option.isNone_iff_eq_none, Bool.not_eq_true'] at hi
  obtain ⟨⟨⟨⟨⟨hpa, hm⟩, hc⟩, hsch⟩, hkl⟩, hctl⟩ := hi
  rw [registerWrite_of_isRegisterWrite h, if_neg (by omega), hm]
  simp only [hc]
  rw [if_neg (by decide), if_neg hsch, if_neg hkl, if_neg hctl]

theorem registerWrite_schCtx (a : BitVec 8) (h : isRegisterWrite (Reg.schCtx a.toNat) x = true) :
    exec (.registerWrite { core := core, pa := Reg.schCtx a.toNat } x) s = .next (s.writeSchCtx a x) := by
  have ha := a.isLt
  have hpa : Reg.schCtx a.toNat = 0x20103000000 + 8 * a.toNat := rfl
  have hb : Reg.schCtx a.toNat / 2 ^ 24 = 0x20103 := by omega
  have ho : Reg.schCtx a.toNat % 2 ^ 24 = 8 * a.toNat := by omega
  have hr : inRegs (8 * a.toNat) 0 256 = true := by simpa using inRegs_nth (o := 0) (n := 256) rfl ha
  rw [registerWrite_of_isRegisterWrite h, if_neg (by unfold regionEnd; omega), plainMask_schCtx]
  simp only [isCount_below (show Reg.schCtx a.toNat < 0x20400000000 by omega)]
  rw [if_neg (by decide), hb, ho, if_pos ⟨rfl, hr⟩]
  simp

theorem registerWrite_klRoute {k : Nat} (hk : k < 1024) (h : isRegisterWrite (Reg.klRoute k) x = true) :
    exec (.registerWrite { core := core, pa := Reg.klRoute k } x) s = .next (s.setReg (Reg.klRoute k) (routeValue x)) := by
  have hpa : Reg.klRoute k = 0x20107000000 + 8 * k := rfl
  have hb : Reg.klRoute k / 2 ^ 24 = 0x20107 := by omega
  have ho : Reg.klRoute k % 2 ^ 24 = 8 * k := by omega
  have hr : inRegs (8 * k) 0 1024 = true := by simpa using inRegs_nth (o := 0) (n := 1024) rfl hk
  rw [registerWrite_of_isRegisterWrite h, if_neg (by unfold regionEnd; omega), plainMask_klRoute hk]
  simp only [isCount_below (show Reg.klRoute k < 0x20400000000 by omega)]
  rw [if_neg (by decide), hb, ho, if_neg (by omega), if_pos ⟨rfl, hr⟩]

theorem registerWrite_klCtl :
    exec (.registerWrite { core := core, pa := Reg.klCtl } x) s =
      .next (s.setReg Reg.klCtl ((s.reg Reg.klCtl &&& 0x7E#64) ||| (x &&& 1#64))) := by
  have hm : plainMask Reg.klCtl = none := by decide
  have hc : isCount Reg.klCtl = false := by decide
  have ho : ownStep Reg.klCtl = false := by decide
  rw [registerWrite_of_isRegisterWrite (by simp [isRegisterWrite, ho]), if_neg (by decide), hm]
  simp only [hc]
  rfl

end

/-- The registers that only answer reads, and an address of the region where nothing stands. -/
theorem readOnly_ignoresWrite :
    ∀ pa ∈ [Reg.mc 0 0, Reg.dlWr 0, Reg.tlbInvStat, Reg.frzWr, Reg.devInfo, Reg.bootStat + 8, Reg.thermMax, 0x20109000000],
      ignoresWrite pa = true := by decide

theorem tlbInv_ignoresWrite : ignoresWrite 0x20101000800 = true := by decide

/-! ## The values of the special cases -/

/-- A field of two values is the same where their bits agree in it. -/
theorem bitsOf_congr {x y : DWord} {hi lo : Nat} (h : ∀ i, lo ≤ i → i ≤ hi → x.getLsbD i = y.getLsbD i) :
    bitsOf x.toNat hi lo = bitsOf y.toNat hi lo := by
  refine Nat.eq_of_testBit_eq fun j => ?_
  simp only [bitsOf, Nat.testBit_mod_two_pow, Nat.testBit_shiftRight, BitVec.testBit_toNat]
  by_cases hj : j < hi + 1 - lo
  · rw [h (lo + j) (by omega) (by omega)]
  · simp [hj]

/-- A count register takes the 48 bits of the value, and keeps its overflow bit where the value has it too (R422). -/
theorem writeCount_value {s : State} (h : s.RegsWf) (pa : Nat) (x : DWord) :
    (s.writeCount pa x).regBits pa 47 0 = bitsOf x.toNat 47 0
      ∧ (s.writeCount pa x).regBit pa 48 = (s.regBit pa 48 && x.getLsbD 48) := by
  unfold State.writeCount State.regBits State.regBit
  rw [State.reg_setReg_same h]
  constructor
  · have hmask : ∀ i ≤ 47, (0xFFFFFFFFFFFF#64).getLsbD i = true ∧ (0x1000000000000#64).getLsbD i = false := by decide
    refine bitsOf_congr fun i _ hi => ?_
    obtain ⟨hlow, hovf⟩ := hmask i hi
    simp [hlow, hovf]
  · simp [Bool.and_comm]

/-- KLCTL stores bit 0 and keeps bits [6:1], which the fabric sets (R404). -/
theorem klCtl_value (r x : DWord) :
    ((r &&& 0x7E#64) ||| (x &&& 1#64)).getLsbD 0 = x.getLsbD 0
      ∧ bitsOf ((r &&& 0x7E#64) ||| (x &&& 1#64)).toNat 6 1 = bitsOf r.toNat 6 1 := by
  constructor
  · simp
  · have hmask : ∀ i ≤ 6, 1 ≤ i → (0x7E#64).getLsbD i = true ∧ (1#64).getLsbD i = false := by decide
    refine bitsOf_congr fun i hlo hi => ?_
    obtain ⟨hkept, hset⟩ := hmask i hi hlo
    simp [hkept, hset]

/-! ## Selectors of the event counters (R423) -/

theorem counterSelectWrite_taken {u : CounterUnit} {k : Nat} {x : DWord} (s : State)
    (h : k < counterCount u ∧ sourceOk u (x.toNat % 256) = true) :
    exec (.counterSelectWrite u k x) s = .next (s.setReg (Reg.counters u + 8 * k) (x &&& 0x1FF#64)) := by
  simp [exec_counterSelectWrite, execCounterSelectWrite, h.1, h.2]

theorem counterSelectWrite_dropped {u : CounterUnit} {k : Nat} {x : DWord} (s : State)
    (h : ¬(k < counterCount u ∧ sourceOk u (x.toNat % 256) = true)) :
    exec (.counterSelectWrite u k x) s = .next s := by
  rw [exec_counterSelectWrite, execCounterSelectWrite, if_neg (by simpa using h)]

/-! ## The producer slot (R166, R297) -/

section
variable {s : State} {c : Fin 256}

theorem psctlRun_running {w : Wave} (h : s.producer? c = some w) : exec (.psctlRun c) s = .next s := by
  simp [exec_psctlRun, execPsctlRun, h]

theorem psctlRun_taken (h : s.producer? c = none) (ht : s.slotTaken c = true) :
    exec (.psctlRun c) s = notEnabled := by
  simp [exec_psctlRun, execPsctlRun, h, ht]

/-- The state in which the micro-program's wave is made: the slot's reload has ended. -/
def State.slotReloaded (s : State) (c : Fin 256) : State :=
  s.endReload (.producer c) ((s.reg (Reg.ps c 8)).setWidth 8)

theorem psctlRun_starts (h : s.producer? c = none) (ht : s.slotTaken c = false) :
    exec (.psctlRun c) s = .next (State.setReg
      { ((s.slotReloaded c).producerWave c).2 with waves := s.waves ++ [((s.slotReloaded c).producerWave c).1] }
      (Reg.ps c 0) 1) := by
  have hw : ((s.slotReloaded c).producerWave c).2.waves = s.waves := State.endReload_waves s _ _
  rw [← hw]
  simp only [exec_psctlRun, execPsctlRun, h, ht]
  rfl

theorem psctlStop_halts {w : Wave} (h : s.producer? c = some w) (hw : w.producerHalts = true) :
    exec (.psctlStop c) s = .next ((s.startReload (.producer c)).stopProducer w) := by
  simp [exec_psctlStop, execPsctlStop, h, hw]

theorem psctlStop_asks {w : Wave} (h : s.producer? c = some w) (hw : w.producerHalts = false) :
    exec (.psctlStop c) s = .next (((s.startReload (.producer c)).modWave w.id fun x =>
      { x with stopReq := true }).setReg (Reg.ps c 0) 0) := by
  simp [exec_psctlStop, execPsctlStop, h, hw]

theorem psctlStop_idle (h : s.producer? c = none) :
    exec (.psctlStop c) s = .next ((s.startReload (.producer c)).setReg (Reg.ps c 0) 2) := by
  simp [exec_psctlStop, execPsctlStop, h]

/-- The wave that runs a slot has a name that the state knows. -/
theorem State.wave?_of_producer? {w : Wave} (h : s.producer? c = some w) : ∃ w', s.wave? w.id = some w' := by
  have hmem : w ∈ s.waves := List.mem_of_find?_eq_some h
  exact Option.isSome_iff_exists.mp (List.find?_isSome.mpr ⟨w, hmem, by simp⟩)

end

/-- A slot's registers are not the times of the contexts. -/
theorem ps_ne_schTime (c : Fin 256) (off : Nat) (a : BitVec 8) : Reg.ps c off ≠ Reg.schTime a.toNat := by
  have := a.isLt
  unfold Reg.ps Reg.schTime
  omega

theorem reg_ps_slotReloaded {s : State} (h : s.RegsWf) (c : Fin 256) (off : Nat) :
    (s.slotReloaded c).reg (Reg.ps c off) = s.reg (Reg.ps c off) :=
  State.reg_endReload h _ _ (ps_ne_schTime c off _)

/-- The micro-program's argument stands in s1:s0 (R166). -/
theorem producerWave_arg (s : State) (c : Fin 256) :
    join64 (s.producerWave c).1.s[0] (s.producerWave c).1.s[1] = s.reg (Reg.ps c 0x18) :=
  join64_lo32_hi32 _

/-- PSCTL_RUN of a free slot: the micro-program that it starts (R28, R166). -/
theorem psctlRun_free {s : State} (h : s.RegsWf) (c : Fin 256) (hp : s.producer? c = none) (ht : s.slotTaken c = false) :
    ∃ t w p, exec (.psctlRun c) s = .next t ∧ (∀ r ∈ t.reloads, r.unit ≠ .producer c) ∧ t.waves = s.waves ++ [w]
      ∧ t.reg (Reg.ps c 0) = 1 ∧ w.kind = .producer ∧ w.core = c ∧ w.pipe = 31 ∧ w.slot = 7 ∧ w.nv = 16 ∧ w.ns = 16
      ∧ w.asid = (s.reg (Reg.ps c 8)).setWidth 8 ∧ join64 w.s[0] w.s[1] = s.reg (Reg.ps c 0x18) ∧ w.paths = [p]
      ∧ p.pc = 4 * s.regBits (Reg.ps c 0x20) 9 0 ∧ p.mask = 0xFFFFFFFF#32 := by
  have hl : (s.slotReloaded c).RegsWf := State.RegsWf.endReload h _ _
  refine ⟨_, _, _, psctlRun_starts hp ht, State.endReload_unit s _ _, rfl, State.reg_setReg_same hl _ _, rfl, rfl, rfl, rfl,
    rfl, rfl, ?asid, ?arg, rfl, ?pc, rfl⟩
  case asid => exact congrArg (BitVec.setWidth 8) (reg_ps_slotReloaded h c 8)
  case arg => rw [producerWave_arg, reg_ps_slotReloaded h]
  case pc => exact congrArg (fun r : DWord => 4 * bitsOf r.toNat 9 0) (reg_ps_slotReloaded h c 0x20)

/-- PSCTL_STOP of a slot whose micro-program has still to reach a switch point (R166). -/
theorem psctlStop_running {s : State} (h : s.RegsWf) {c : Fin 256} {w : Wave} (hp : s.producer? c = some w)
    (hw : w.producerHalts = false) :
    ∃ t w', exec (.psctlStop c) s = .next t ∧ t.wave? w.id = some w'
      ∧ (s.wave? w.id = some w → w' = { w with stopReq := true }) ∧ t.reg (Reg.ps c 0) = 0 ∧ t.mem = s.mem := by
  obtain ⟨x, hx⟩ := State.wave?_of_producer? hp
  have hr : ((s.startReload (.producer c)).modWave w.id fun x => { x with stopReq := true }).RegsWf := by
    simpa [State.RegsWf] using h
  refine ⟨_, { x with stopReq := true }, psctlStop_asks hp hw, ?_, ?_, State.reg_setReg_same hr _ _, ?_⟩
  · exact State.wave?_modWave (s := s.startReload (.producer c)) (by simpa using hx) fun _ hid => hid
  · intro hs
    rw [hx] at hs
    cases hs
    rfl
  · simp

section
variable {s : State} {c : Fin 256}

theorem producerLoadWrite_running (h : s.regBit (Reg.ps c 0) 1 = false) (off : Nat) (x : DWord) :
    exec (.producerLoadWrite c off x) s = .next s := by
  simp [exec_producerLoadWrite, execProducerLoadWrite, h]

theorem producerLoadWrite_asid (h : s.regBit (Reg.ps c 0) 1 = true) (x : DWord) :
    exec (.producerLoadWrite c 8 x) s = .next (s.setReg (Reg.ps c 8) (x &&& 0xFF#64)) := by
  simp [exec_producerLoadWrite, execProducerLoadWrite, h]

theorem producerLoadWrite_queues (h : s.regBit (Reg.ps c 0) 1 = true) (x : DWord) :
    exec (.producerLoadWrite c 0x10 x) s = .next (s.setReg (Reg.ps c 0x10) (x &&& 0xFFFF#64)) := by
  simp [exec_producerLoadWrite, execProducerLoadWrite, h]

theorem producerLoadWrite_code (h : s.regBit (Reg.ps c 0) 1 = true) {off : Nat} (h4 : off % 4 = 0) (hoff : off < 0x1000)
    (x : DWord) :
    exec (.producerLoadWrite c (0x1000 + off) x) s = .next (s.setBlockWord (Reg.ps c 0x1000) (off / 4) (lo32 x)) := by
  have hin : 0x1000 ≤ 0x1000 + off ∧ 0x1000 + off < 0x2000 ∧ (0x1000 + off) % 4 = 0 := by omega
  rw [exec_producerLoadWrite, execProducerLoadWrite, if_neg (by simp [h]), if_neg (by omega), if_neg (by omega), if_pos hin,
    Nat.add_sub_cancel_left]

end

/-! ## The combiner engines (R138, R297) -/

/-- CMBCTL_STOP: the register, the reload and the frame. -/
theorem cmbctlStop_next {s : State} (h : s.RegsWf) :
    ∃ t, exec .cmbctlStop s = .next t ∧ t.reg Reg.cmbCtl = 1 ∧ t.reloads = (s.startReload .combiners).reloads
      ∧ { t with regs := s.regs, reloads := s.reloads } = s := by
  refine ⟨_, rfl, State.reg_setReg_same (by simpa [State.RegsWf] using h) _ _, rfl, ?_⟩
  obtain ⟨r, hr⟩ := State.startReload_eq s .combiners
  rw [hr]
  rfl

/-- CMBCTL_RESUME: the register, the end of the reload and the frame. -/
theorem cmbctlResume_next {s : State} (h : s.RegsWf) :
    ∃ t, exec .cmbctlResume s = .next t ∧ t.reg Reg.cmbCtl = 0 ∧ (∀ r ∈ t.reloads, r.unit ≠ .combiners)
      ∧ { t with regs := s.regs, reloads := s.reloads, freeCtr := s.freeCtr } = s := by
  refine ⟨_, rfl, State.reg_setReg_same (State.RegsWf.endReload (s := s.takeFree.2) h _ _) _ _,
    State.endReload_unit s.takeFree.2 _ _, ?_⟩
  obtain ⟨r, hr⟩ := State.endReload_eq s.takeFree.2 .combiners (Config.reloadContext s.freeCtr)
  change { State.setReg (s.takeFree.2.endReload .combiners (Config.reloadContext s.freeCtr)) Reg.cmbCtl 0 with
    regs := s.regs, reloads := s.reloads, freeCtr := s.freeCtr } = s
  rw [hr]
  rfl

section
variable {s : State}

theorem cmbMethodWrite_busy (h : s.cmbDrained = false) (off : Nat) (x : DWord) :
    exec (.cmbMethodWrite off x) s = .next s := by
  simp [exec_cmbMethodWrite, execCmbMethodWrite, h]

theorem cmbMethodWrite_dir (h : s.cmbDrained = true) {off : Nat} (h8 : off % 8 = 0) (hlo : 0x50000 ≤ off)
    (hhi : off < 0x52000) (x : DWord) :
    exec (.cmbMethodWrite off x) s = .next (s.setReg (Reg.home off) (cmbDirValue x)) := by
  rw [exec_cmbMethodWrite, execCmbMethodWrite, if_neg (by simp [h]), if_pos ⟨hlo, hhi, h8⟩]

theorem cmbMethodWrite_store (h : s.cmbDrained = true) {off : Nat} (h4 : off % 4 = 0) (hoff : off < 0x20000) (x : DWord) :
    exec (.cmbMethodWrite (0x58000 + off) x) s = .next (s.setBlockWord (Reg.cmbStore 0) (off / 4) (lo32 x)) := by
  have hin : 0x58000 ≤ 0x58000 + off ∧ 0x58000 + off < 0x78000 ∧ (0x58000 + off) % 4 = 0 := by omega
  rw [exec_cmbMethodWrite, execCmbMethodWrite, if_neg (by simp [h]), if_neg (by omega), if_pos hin,
    Nat.add_sub_cancel_left]

/-- A load of CMBSTORE returns the word that stands there (R123). -/
theorem readRegister_cmbStore {off : Nat} (hoff : off < 0x20000) :
    s.readRegister (Reg.cmbStore 0 + off) = (s.blockWord (Reg.cmbStore 0) (off / 4)).setWidth 64 := by
  have hpa : Reg.cmbStore 0 + off = 0x20100058000 + off := rfl
  have hb : (Reg.cmbStore 0 + off) / 2 ^ 24 = 0x20100 := by omega
  have ho : (Reg.cmbStore 0 + off) % 2 ^ 24 = 0x58000 + off := by omega
  have hn : inRegs (0x58000 + off) 0x3000 32768 = false := inRegs_above (by omega)
  have hin : 0x58000 ≤ 0x58000 + off ∧ 0x58000 + off < 0x78000 := by omega
  rw [State.readRegister, if_neg (by omega), State.readShared, hb, ho]
  simp only [hn]
  rw [if_neg (by decide), if_neg (by omega), if_pos hin, Nat.add_sub_cancel_left]

end

/-! ## The dependence log (R121, R123) -/

/-- The register that DL_CONFIG_WRITE sets. -/
def dlConfigReg (size : Bool) (a : BitVec 8) : Nat := if size then Reg.dlSize a.toNat else Reg.dlBase a.toNat

/-- DLBASE and DLSIZE, DLWR, DLRD and DLDROP of a context stand at rising addresses (R123). -/
theorem dlRegs_rise (size : Bool) (a : BitVec 8) :
    dlConfigReg size a < Reg.dlWr a.toNat ∧ Reg.dlWr a.toNat < Reg.dlRd a.toNat ∧ Reg.dlRd a.toNat < Reg.dlDrop a.toNat := by
  unfold dlConfigReg Reg.dlSize Reg.dlBase Reg.dlWr Reg.dlRd Reg.dlDrop Reg.home
  split <;> omega

/-- The state after a write of DLBASE or DLSIZE. -/
def State.dlConfigured (s : State) (size : Bool) (a : BitVec 8) (x : DWord) : State :=
  (((s.setReg (dlConfigReg size a) x).setReg (Reg.dlWr a.toNat) 0).setReg (Reg.dlRd a.toNat) 0).setReg
    (Reg.dlDrop a.toNat) 0

theorem dlConfigWrite_next (s : State) (size : Bool) (a : BitVec 8) (x : DWord) :
    exec (.dlConfigWrite size a x) s = .next (s.dlConfigured size a x) := by
  rw [exec_dlConfigWrite, execDlConfigWrite, State.dlConfigured, dlConfigReg]

theorem frame_dlConfigured (s : State) (size : Bool) (a : BitVec 8) (x : DWord) :
    { s.dlConfigured size a x with regs := s.regs } = s :=
  State.frame_setReg (State.frame_setReg (State.frame_setReg (State.frame_setReg rfl _ _) _ _) _ _) _ _

/-- A write of DLBASE or DLSIZE sets it, and the log's three counters to 0. -/
theorem reg_dlConfigured {s : State} (h : s.RegsWf) (size : Bool) (a : BitVec 8) (x : DWord) :
    (s.dlConfigured size a x).reg (dlConfigReg size a) = x ∧ (s.dlConfigured size a x).reg (Reg.dlWr a.toNat) = 0
      ∧ (s.dlConfigured size a x).reg (Reg.dlRd a.toNat) = 0 ∧ (s.dlConfigured size a x).reg (Reg.dlDrop a.toNat) = 0 := by
  obtain ⟨hwr, hrd, hdrop⟩ := dlRegs_rise size a
  have h1 := h.setReg (dlConfigReg size a) x
  have h2 := h1.setReg (Reg.dlWr a.toNat) 0
  have h3 := h2.setReg (Reg.dlRd a.toNat) 0
  unfold State.dlConfigured
  refine ⟨?_, ?_, ?_, State.reg_setReg_same h3 _ _⟩
  · rw [State.reg_setReg_ne h3 (by omega), State.reg_setReg_ne h2 (by omega), State.reg_setReg_ne h1 (by omega),
      State.reg_setReg_same h]
  · rw [State.reg_setReg_ne h3 (by omega), State.reg_setReg_ne h2 (by omega), State.reg_setReg_same h1]
  · rw [State.reg_setReg_ne h3 (by omega), State.reg_setReg_same h2]

/-! ## The families of the statement -/

/-- A write of a count register: its value and its frame (R422). -/
theorem registerWrite_count_next {s : State} (h : s.RegsWf) {core : Fin 16} {pa : Nat} {x : DWord}
    (hw : isRegisterWrite pa x = true) (hm : plainMask pa = none) (hc : isCount pa = true) :
    ∃ t, exec (.registerWrite { core := core, pa := pa } x) s = .next t ∧ { t with regs := s.regs } = s
      ∧ t.regBits pa 47 0 = bitsOf x.toNat 47 0 ∧ t.regBit pa 48 = (s.regBit pa 48 && x.getLsbD 48) :=
  ⟨_, registerWrite_count hw hm hc, rfl, writeCount_value h pa x⟩

/-- A write of KLCTL: bit 0 and the bits that it keeps (R404). -/
theorem registerWrite_klCtl_next {s : State} (h : s.RegsWf) (core : Fin 16) (x : DWord) :
    ∃ t, exec (.registerWrite { core := core, pa := Reg.klCtl } x) s = .next t
      ∧ t.regBit Reg.klCtl 0 = x.getLsbD 0 ∧ t.regBits Reg.klCtl 6 1 = s.regBits Reg.klCtl 6 1 := by
  refine ⟨_, registerWrite_klCtl, ?_⟩
  rw [State.regBit, State.regBits, State.reg_setReg_same h]
  exact klCtl_value _ x

/-- A word of a producer's code, written: that word and the others (R166). -/
theorem producerLoadWrite_code_next {s : State} (hs : s.RegsWf) {c : Fin 256} (h : s.regBit (Reg.ps c 0) 1 = true) {off : Nat}
    (h4 : off % 4 = 0) (hoff : off < 0x1000) (x : DWord) :
    ∃ t, exec (.producerLoadWrite c (0x1000 + off) x) s = .next t
      ∧ t.blockWord (Reg.ps c 0x1000) (off / 4) = lo32 x
      ∧ ∀ k, k ≠ off / 4 → t.blockWord (Reg.ps c 0x1000) k = s.blockWord (Reg.ps c 0x1000) k := by
  refine ⟨_, producerLoadWrite_code h h4 hoff x, ?_, fun k hk => ?_⟩
  · rw [State.blockWord_setBlockWord hs, if_pos rfl]
  · rw [State.blockWord_setBlockWord hs, if_neg hk]

/-- A word of the combiner's store, written: that word, what a load returns, and the other words (R123, R138). -/
theorem cmbMethodWrite_store_next {s : State} (hs : s.RegsWf) (h : s.cmbDrained = true) {off : Nat} (h4 : off % 4 = 0)
    (hoff : off < 0x20000) (x : DWord) :
    ∃ t, exec (.cmbMethodWrite (0x58000 + off) x) s = .next t
      ∧ t.blockWord (Reg.cmbStore 0) (off / 4) = lo32 x ∧ t.readRegister (Reg.cmbStore 0 + off) = (lo32 x).setWidth 64
      ∧ ∀ k, k ≠ off / 4 → t.blockWord (Reg.cmbStore 0) k = s.blockWord (Reg.cmbStore 0) k := by
  refine ⟨_, cmbMethodWrite_store h h4 hoff x, ?_, ?_, fun k hk => ?_⟩
  · rw [State.blockWord_setBlockWord hs, if_pos rfl]
  · rw [readRegister_cmbStore hoff, State.blockWord_setBlockWord hs, if_pos rfl]
  · rw [State.blockWord_setBlockWord hs, if_neg hk]

/-- Settles O58: the address decides which case of REGISTER_WRITE applies, and each unit's write is one of the rules above. -/
theorem registerSteps : Obligations.RegisterSteps := by
  intro s hs
  refine ⟨fun core pa x => ⟨?reserved, registerWrite_ownStep, ?above, ?below, fun ho => ?stores⟩,
    State.startReload_reloads s, fun u k x => ?select, fun c => ⟨fun w hw => ?running, fun hp => ?idle, fun off x => ?load⟩, ?stop, ?resume,
    fun off x => ?combiner, fun a x => ⟨fun size => ?config, ?drop⟩⟩
  case reserved =>
    rintro rfl hx
    have hr := (tlbInvReserved_iff 0x20101000800 x).mpr ⟨rfl, hx⟩
    exact registerWrite_ignored (by simp [isRegisterWrite, hr]) tlbInv_ignoresWrite
  case above => exact fun h => ⟨registerWrite_above h, if_pos h⟩
  case below => exact fun h => if_neg (Nat.not_le.mpr h)
  case stores =>
    have hw : isRegisterWrite pa x = true := by simp [isRegisterWrite, ho]
    refine ⟨fun m hm => ⟨_, registerWrite_plain hw hm, State.setsReg_setReg hs _ _⟩, registerWrite_count_next hs hw,
      ?_, ?_, ?_, fun hpa => registerWrite_ignored hw (readOnly_ignoresWrite pa hpa)⟩
    · rintro rfl
      exact registerWrite_klCtl_next hs core x
    · rintro k hk rfl
      exact ⟨_, registerWrite_klRoute hk hw, State.setsReg_setReg hs _ _⟩
    · rintro a rfl
      exact registerWrite_schCtx a hw
  case select =>
    by_cases hk : k < counterCount u ∧ sourceOk u (x.toNat % 256) = true
    · exact ⟨_, counterSelectWrite_taken s hk, fun _ _ => State.setsReg_setReg hs _ _, fun hn => absurd hk hn⟩
    · exact ⟨_, counterSelectWrite_dropped s hk, fun h1 h2 => absurd ⟨h1, h2⟩ hk, fun _ => rfl⟩
  case running => exact ⟨psctlRun_running hw, psctlStop_halts hw, psctlStop_running hs hw⟩
  case idle =>
    have hr : (s.startReload (.producer c)).RegsWf := by simpa [State.RegsWf] using hs
    exact ⟨⟨_, psctlStop_idle hp, State.startReload_waves s _, State.reg_setReg_same hr _ _, rfl⟩, psctlRun_taken hp,
      psctlRun_free hs c hp⟩
  case load =>
    exact ⟨fun h => producerLoadWrite_running h off x, fun h =>
      ⟨⟨_, producerLoadWrite_asid h x, State.setsReg_setReg hs _ _⟩,
        ⟨_, producerLoadWrite_queues h x, State.setsReg_setReg hs _ _⟩,
        fun h4 hoff => producerLoadWrite_code_next hs h h4 hoff x⟩⟩
  case stop => exact cmbctlStop_next hs
  case resume => exact cmbctlResume_next hs
  case combiner =>
    exact ⟨fun h => cmbMethodWrite_busy h off x, fun h =>
      ⟨fun h8 hlo hhi => ⟨_, cmbMethodWrite_dir h h8 hlo hhi x, State.setsReg_setReg hs _ _⟩,
        fun h4 hoff => cmbMethodWrite_store_next hs h h4 hoff x⟩⟩
  case config => exact ⟨_, dlConfigWrite_next s size a x, frame_dlConfigured s size a x, reg_dlConfigured hs size a x⟩
  case drop => exact ⟨_, exec_dldropRead a s, State.setsReg_setReg hs _ _⟩

end Sys2Proof.Machine
end

section
/-! SUPPORT. The mode of a wave that starts (R16), EXEC bit by bit (R19), and the instructions that write no register: NOP, MODE, JPT
and YIELD (R17, R272, R278). -/

namespace Sys2Proof.Machine

/-! ## EXEC (R19) -/

/-- The guard lets every lane through where it is disabled, else the lanes whose bit of its predicate differs from ginv. -/
theorem guardMask_get (w : Wave) (m : Mode) (i : Fin 32) :
    inMask (guardMask w m) i = (!m.gen || ((w.p[m.gidx]).getLsbD i.val != m.ginv)) := by
  have hones : (0xFFFFFFFF#32).getLsbD i.val = true := by revert i; decide
  unfold guardMask inMask
  cases m.gen with
  | false => simpa using hones
  | true =>
    cases m.ginv with
    | false => simp
    | true => simp only [if_true, BitVec.getLsbD_xor, hones, Bool.xor_true, Bool.not_true, Bool.false_or]

/-- Settles O15: a lane is in EXEC where it is in PATH and the guard lets it through. -/
theorem guardRule : Obligations.GuardRule := by
  unfold Obligations.GuardRule
  intro w p i
  have hand : inMask (execMask w p) i = (inMask p.mask i && inMask (guardMask w p.mode) i) := BitVec.getLsbD_and
  rw [hand, guardMask_get]

/-! ## The start of a wave (R16) -/

/-- The wave has one path, whose mode is that of placement. -/
def Wave.StartsInitial (w : Wave) : Prop := ∃ p, w.paths = [p] ∧ p.mode = Mode.initial

theorem Mode.toWord_initial : Mode.initial.toWord = 0x0040#16 := by decide

theorem State.newWave_startsInitial (s : State) (x : Launch) (gang gangid stage wg j : Nat) (c : Fin 256) (u : WavePlace) :
    (s.newWave x gang gangid stage wg j c u).1.StartsInitial := ⟨_, rfl, rfl⟩

theorem State.producerWave_startsInitial (s : State) (c : Fin 256) : (s.producerWave c).1.StartsInitial := ⟨_, rfl, rfl⟩

/-- A method starts one wave more, behind those that there are. -/
theorem State.startMethod_startsInitial (s : State) (h : Fin 128) (reqs : List CombReq) (obj n : Nat) (header : DWord)
    (bytes : List Byte) (m : Method) :
    ∃ w, (s.startMethod h reqs obj n header bytes m).waves = s.waves ++ [w] ∧ w.StartsInitial := ⟨_, rfl, _, rfl, rfl⟩

/-- M as R16 spells it out: the word, and each of its fields but the guard's predicate. -/
theorem Wave.StartsInitial.mode {w : Wave} (h : w.StartsInitial) :
    ∃ p, w.paths = [p] ∧ p.mode.toWord = 0x0040#16 ∧ p.mode.type = .i32 ∧ p.mode.round = .rne
      ∧ p.mode.gen = false ∧ p.mode.sat = false ∧ p.mode.scope = .wg := by
  obtain ⟨p, hp, hm⟩ := h
  refine ⟨p, hp, ?_⟩
  rw [hm]
  exact ⟨Mode.toWord_initial, rfl, rfl, rfl, rfl, rfl⟩

/-- Settles O6: each of the three ways in which a wave starts goes through `Wave.fresh`. -/
theorem freshWave : Obligations.FreshWave := by
  unfold Obligations.FreshWave
  refine ⟨fun s x gang gangid stage wg j c u => ?launched, fun s h reqs obj n header bytes m => ?method, fun s c => ?producer⟩
  case launched => exact (s.newWave_startsInitial x gang gangid stage wg j c u).mode
  case method =>
    obtain ⟨w, hw, hstart⟩ := s.startMethod_startsInitial h reqs obj n header bytes m
    exact ⟨w, hw, hstart.mode⟩
  case producer => exact (s.producerWave_startsInitial c).mode

/-! ## Retiring (R261) -/

/-- A path that retires an instruction, and nothing else of its wave. -/
theorem Wave.went_retire {w : Wave} {p : Path} (hp : w.path? p.tag = some p) (pc cost : Nat) :
    w.Went (w.retire p.tag pc cost) (p.retire pc) where
  path := Wave.path?_modPath (f := fun q => q.retire pc) hp fun _ h => h
  paths := fun _ ht => Wave.path?_modPath_ne (f := fun q => q.retire pc) ht fun _ h => h
  clock := rfl
  rest := rfl

/-- The same where the instruction has changed its path first. -/
theorem Wave.went_modPath_retire {w : Wave} {p : Path} (hp : w.path? p.tag = some p) {f : Path → Path}
    (hf : ∀ q, (f q).tag = q.tag) (pc cost : Nat) :
    w.Went ((w.modPath p.tag f).retire p.tag pc cost) ((f p).retire pc) := by
  have hft : ∀ q : Path, q.tag = p.tag → (f q).tag = p.tag := fun q hq => (hf q).trans hq
  have hmod : (w.modPath p.tag f).path? (f p).tag = some (f p) := (hf p).symm ▸ Wave.path?_modPath hp hft
  have hret : (w.modPath p.tag f).Went ((w.modPath p.tag f).retire (f p).tag pc cost) ((f p).retire pc) :=
    Wave.went_retire hmod pc cost
  rw [hf p] at hret
  obtain ⟨hpath, hpaths, hclock, -⟩ := hret
  refine ⟨hpath, fun t ht => (hpaths t ht).trans ?_, hclock, rfl⟩
  exact Wave.path?_modPath_ne (fun e => ht (e.trans (hf p).symm)) hft

namespace State

variable {s : State} {w : Wave} {p : Path}

theorem advance_eq (hc : s.cur = some (w.id, p.tag)) (cost : Nat) :
    s.advance p cost = s.modWave w.id fun x => x.retire p.tag (p.pc + 4) cost := by
  simp only [advance, retireTo, hc]

theorem modCurPath_eq (hc : s.cur = some (w.id, p.tag)) (f : Path → Path) :
    s.modCurPath f = s.modWave w.id fun x => x.modPath p.tag f := by
  simp only [modCurPath, hc, modPath]

/-- Two changes of one wave. -/
theorem OnlyWave.trans {s t u : State} {id : Nat} {w v : Wave} (h : s.OnlyWave t id w) (h' : t.OnlyWave u id v) :
    s.OnlyWave u id v where
  wave := h'.wave
  others := fun k hk => (h'.others k hk).trans (h.others k hk)
  rest := (congrArg (fun x : State => { x with waves := s.waves }) h'.rest).trans h.rest

/-- An instruction that writes nothing retires. -/
theorem advance_went (h : s.cursor? = some { w := w, p := p }) (cost : Nat) :
    ∃ w', s.OnlyWave (s.advance p cost) w.id w' ∧ w.Went w' (p.retire (p.pc + 4)) := by
  obtain ⟨hc, hw, hp⟩ := cursor?_spec h
  rw [advance_eq hc]
  exact ⟨_, OnlyWave.of_modWave hw fun _ hx => hx, Wave.went_retire hp _ _⟩

/-- An instruction that changes a part of its path retires. -/
theorem modCurPath_advance_went (h : s.cursor? = some { w := w, p := p }) {f : Path → Path} (hf : ∀ q, (f q).tag = q.tag)
    (cost : Nat) :
    ∃ w', s.OnlyWave ((s.modCurPath f).advance p cost) w.id w' ∧ w.Went w' ((f p).retire (p.pc + 4)) := by
  obtain ⟨hc, hw, hp⟩ := cursor?_spec h
  have hmod : s.OnlyWave (s.modCurPath f) w.id (w.modPath p.tag f) := by
    rw [modCurPath_eq hc]
    exact OnlyWave.of_modWave hw fun _ hx => hx
  have hc' : (s.modCurPath f).cur = some ((w.modPath p.tag f).id, p.tag) := by
    rw [modCurPath_eq hc]
    exact hc
  rw [advance_eq hc']
  exact ⟨_, hmod.trans (OnlyWave.of_modWave hmod.wave fun _ hx => hx), Wave.went_modPath_retire hp hf _ _⟩

/-- A wave that becomes the youngest has the next number as its rank, and nothing else of it changes (R294). -/
theorem youngest_wave? {id : Nat} (hw : s.wave? id = some w) : (s.youngest id).wave? id = some { w with rank := s.nextId } :=
  wave?_modWave (f := fun x => { x with rank := s.nextId }) hw fun _ hx => hx

theorem youngest_wave?_ne {id k : Nat} (hk : k ≠ id) : (s.youngest id).wave? k = s.wave? k :=
  wave?_modWave_ne (f := fun x => { x with rank := s.nextId }) hk fun _ hx => hx

/-! ## NOP, MODE, JPT, YIELD (R17, R272, R278) -/

/-- A card that fails its own further check of step 3 raises ILLEGAL_OPERAND, where the path runs at no switch point (R60). -/
theorem Ready.illegalOperand {i : Instr} {mk : Wave → Path → Card} {fields uniform : List Field}
    (h : s.Ready w p fields uniform) (hf : (mk w p).fields = fields) (hu : (mk w p).uniform = uniform)
    (ht : (mk w p).typeOk = true) (hpr : (mk w p).priv = true) (he : (mk w p).extra = false) (hsw : (mk w p).switch = false)
    (hi : (mk w p).irrev = false) : runCard i mk s = .next (s.trap w p (wordOf i) (.plain .illegalOperand)) := by
  have hpasses : ({ mk w p with extra := true } : Card).Passes w p := ⟨ht, hpr, rfl, hf ▸ h.free, hu ▸ h.plain⟩
  have hwaits : (mk w p).waits p = [] := hpasses.waits
  have hcalm := h.calm
  simp only [Path.calm, Bool.and_eq_true, Bool.not_eq_true', bne_iff_ne, ne_eq] at hcalm
  obtain ⟨⟨hnext, hjoin⟩, -⟩ := hcalm
  have hisw : (mk w p).isSwitch w p = false := by simp [Card.isSwitch, hsw, hi, hwaits, hnext, hjoin]
  have hstatic : (mk w p).static w p = some .illegalOperand := by simp [Card.static, ht, hpr, he]
  have hstage : ¬((p.stage != .none && p.stage != .woken) = true) := by simp [h.runs.starts]
  unfold runCard
  rw [h.runs.cursor]
  simp only [if_neg hstage, hisw, Bool.false_and, Bool.false_eq_true, if_false, hstatic]
  rfl

theorem notCombiner_of_kind {w : Wave} (hk : ∀ h, w.kind ≠ .combiner h) : notCombiner w = true := by
  unfold notCombiner
  split
  · next h hcomb => exact absurd hcomb (hk h)
  · rfl

theorem exec_nop_went (h : s.Ready w p [] []) :
    ∃ t w', exec .nop s = .next t ∧ s.OnlyWave t w.id w' ∧ w.Went w' (p.retire (p.pc + 4)) := by
  obtain ⟨w', honly, hwent⟩ := advance_went h.runs.cursor 1
  refine ⟨_, w', ?_, honly, hwent⟩
  rw [exec_nop, execNop]
  exact h.run rfl rfl rfl rfl rfl ⟨rfl, rfl, rfl, rfl, rfl, rfl, rfl⟩

theorem exec_mode_went (h : s.Ready w p [] []) {imm : BitVec 16} {m : Mode} (hm : Mode.ofWord? imm = some m) :
    ∃ t w', exec (.mode imm) s = .next t ∧ s.OnlyWave t w.id w' ∧ w.Went w' { p.retire (p.pc + 4) with mode := m } := by
  obtain ⟨w', honly, hwent⟩ :=
    modCurPath_advance_went h.runs.cursor (f := fun q => { q with mode := m }) (fun _ => rfl) 1
  refine ⟨_, w', ?_, honly, hwent⟩
  rw [exec_mode, execMode, h.run rfl rfl rfl rfl (by simp [hm]) ⟨rfl, rfl, rfl, rfl, rfl, rfl, rfl⟩]
  simp only [pipeCard, hm]

theorem exec_mode_reserved (h : s.Ready w p [] []) {imm : BitVec 16} (hm : Mode.ofWord? imm = none) :
    exec (.mode imm) s = .next (s.trap w p (wordOf (.mode imm)) (TrapInfo.plain .illegalOperand)) := by
  rw [exec_mode, execMode]
  exact h.illegalOperand rfl rfl rfl rfl (by simp [hm]) rfl rfl

theorem exec_jpt_went (h : s.Ready w p [] []) (off : BitVec 25) :
    ∃ t w', exec (.jpt off) s = .next t ∧ s.OnlyWave t w.id w'
      ∧ w.Went w' { p.retire (p.pc + 4) with jp := some (pcOffset p.pc off) } := by
  obtain ⟨w', honly, hwent⟩ :=
    modCurPath_advance_went h.runs.cursor (f := fun q => { q with jp := some (pcOffset p.pc off) }) (fun _ => rfl) 1
  refine ⟨_, w', ?_, honly, hwent⟩
  rw [exec_jpt, execJpt]
  exact h.run rfl rfl rfl rfl rfl ⟨rfl, rfl, rfl, rfl, rfl, rfl, rfl⟩

theorem exec_yield_went (h : s.Ready w p [] []) (hk : ∀ h, w.kind ≠ .combiner h) :
    ∃ t w', exec .yield s = .next t ∧ t.wave? w.id = some w'
      ∧ { t with waves := s.waves, nextId := s.nextId } = s ∧ (∀ k, k ≠ w.id → t.wave? k = s.wave? k)
      ∧ w.Went { w' with rank := w.rank } (p.retire (p.pc + 4)) ∧ w'.rank = s.nextId ∧ w'.heldCycles = 0 := by
  obtain ⟨v, ⟨hv, hothers, hrest⟩, hpath, hpaths, hclock, hwrest⟩ := advance_went h.runs.cursor 1
  have hnext : (s.advance p 1).nextId = s.nextId := by simpa only using congrArg State.nextId hrest
  refine ⟨((s.advance p 1).youngest w.id).modWave w.id fun x => { x with heldCycles := 0 },
    { v with rank := s.nextId, heldCycles := 0 }, ?run, ?wave, ?rest, fun k hne => ?others,
    ⟨hpath, hpaths, hclock, ?went⟩, rfl, rfl⟩
  case run =>
    rw [exec_yield, execYield]
    exact h.run rfl rfl (notCombiner_of_kind hk) rfl rfl ⟨rfl, rfl, rfl, rfl, rfl, rfl, rfl⟩
  case wave =>
    have hy := youngest_wave? hv
    rw [hnext] at hy
    exact wave?_modWave (f := fun x => { x with heldCycles := 0 }) hy fun _ hx => hx
  case rest => exact congrArg (fun x : State => { x with nextId := s.nextId }) hrest
  case others =>
    exact ((wave?_modWave_ne (f := fun x => { x with heldCycles := 0 }) hne fun _ hx => hx).trans
      (youngest_wave?_ne hne)).trans (hothers k hne)
  case went => exact congrArg (fun x : Wave => { x with rank := w.rank }) hwrest

end State

/-- Settles O17: each of the four cards is its body; MODE with a reserved code fails its check of step 3. -/
theorem nopModeJptYield : Obligations.NopModeJptYield := by
  unfold Obligations.NopModeJptYield
  intro s w p h
  exact ⟨State.exec_nop_went h, fun _ _ => State.exec_mode_went h, fun _ => State.exec_mode_reserved h,
    State.exec_jpt_went h, State.exec_yield_went h⟩

end Sys2Proof.Machine
end
section
/-! SUPPORT. What a step runs and what it adds (R31, R57, R60, R261, R285): the passing of time, the turn, the pipe's instruction, the
combiner engine's and the control cores'. -/

namespace Sys2Proof.Machine
namespace State

/-! ## The passing of time (R5, R37, R212, R394, R395) -/

/-- The second state is the first but for the next free value, the registers, the struck words and the fabric. -/
def Aged (s t : State) : Prop :=
  { t with freeCtr := s.freeCtr, regs := s.regs, struck := s.struck, fabric := s.fabric } = s

theorem Aged.trans {s t u : State} (h : Aged s t) (h' : Aged t u) : Aged s u := by
  have hst := congrArg (fun x : State => { x with freeCtr := s.freeCtr, regs := s.regs, struck := s.struck, fabric := s.fabric }) h'
  exact hst.trans h

theorem Aged.fields {s t : State} (h : Aged s t) :
    t.tick = s.tick ∧ t.mem = s.mem ∧ t.cores = s.cores ∧ t.homes = s.homes ∧ t.waves = s.waves ∧ t.control = s.control := by
  rw [← show _ = s from h]
  exact ⟨rfl, rfl, rfl, rfl, rfl, rfl⟩

theorem Aged.addTick {s t : State} (h : Aged s t) (n : Nat) :
    Aged { s with tick := s.tick + n } { t with tick := t.tick + n } := by
  have htick := congrArg (fun x : State => { x with tick := x.tick + n }) h
  exact htick

theorem Aged.foldl {α : Type} {f : State → α → State} (hf : ∀ t x, Aged t (f t x)) (l : List α) (s : State) :
    Aged s (l.foldl f s) := List.foldlRecOn l f rfl fun t ht x _ => ht.trans (hf t x)

/-- The resident contexts charged for the ticks. -/
def charged (s : State) (n : Nat) : State := s.residentAsids.foldl (fun s a => s.chargeTime a n) s

variable (s : State)

theorem aged_countTicks (n : Nat) : Aged s (s.countTicks n) := by
  refine Aged.foldl (fun t x => ?_) _ s
  exact rfl

theorem aged_charged (n : Nat) : Aged s (s.charged n) := by
  refine Aged.foldl (fun t x => ?_) _ s
  exact rfl

theorem aged_strikes (o : Option (Nat × Nat × Nat)) : Aged s (s.strikes o) := by cases o <;> exact rfl

theorem aged_creditBack (o : Option Nat) : Aged s (s.creditBack o) := by cases o <;> exact rfl

theorem aged_passPod : Aged s s.passPod := Aged.trans (t := State.modFabric s.takeFree.2 _) rfl (aged_creditBack _ _)

/-- Beside a step the tick rises by one and the gap that the next free value names, and the rest ages. -/
theorem aged_passTime : Aged { s with tick := s.tick + (1 + Config.tickGap s.freeCtr) } s.passTime := by
  have hfree : Aged s s.takeFree.2 := rfl
  have hcount := hfree.trans (aged_countTicks _ (1 + Config.tickGap s.freeCtr))
  have hcharge := hcount.trans (aged_charged _ (1 + Config.tickGap s.freeCtr))
  have htick := (hcharge.trans (t := charged _ _) (u := (charged _ _).takeFree.2) rfl).addTick (1 + Config.tickGap s.freeCtr)
  exact htick.trans ((aged_strikes _ _).trans (aged_passPod _))

end State

/-- What a step adds to the state that it came to (R5, R37). -/
theorem afterStep_adds {u t : State} (h : afterStep (.next u) = .next t) :
    t.cur = none ∧ t.tick = u.tick + 1 + Config.tickGap u.freeCtr ∧ t.mem = u.mem ∧ t.cores = u.cores ∧ t.homes = u.homes
      ∧ t.waves = u.waves ∧ t.control = u.control := by
  cases h
  obtain ⟨htick, hrest⟩ := u.aged_passTime.fields
  exact ⟨rfl, htick.trans (Nat.add_assoc ..).symm, hrest⟩

/-! ## The turn (R31) -/

/-- The state in which the step of a turn begins. -/
def State.nextTurn (s : State) : State := { s with turns := s.turns.tail }

/-- The step of each kind of turn. -/
def runTurn (s : State) : Turn → Result
  | .pipe c p => pipeStep exec s c p
  | .combiner h => combinerStep exec s h
  | .unit i => exec i { s with cur := none }
  | .control k => controlStep exec s k

theorem step_of_turn {s : State} {t : Turn} (h : s.turns.head? = some t) : step s = afterStep (runTurn s.nextTurn t) := by
  obtain ⟨rest, hturns⟩ := List.head?_eq_some_iff.mp h
  simp only [step, stepWith, State.nextTurn, hturns, List.tail_cons]
  cases t <;> rfl

/-- Where no turn is left, the pipe in focus takes one. -/
theorem step_of_focus {s : State} {c : Fin 256} {p : Fin 32} (hturns : s.turns = []) (hfocus : s.focus = (c, p)) :
    step s = afterStep (runTurn s.nextTurn (.pipe c p)) := by
  have hs : s.nextTurn = s := by rw [State.nextTurn, hturns, List.tail_nil, ← hturns]
  simp only [step, stepWith, runTurn, hturns, hfocus, hs]

/-! ## The word and the pipe (R57, R60, R261) -/

theorem instrOfWord_ok {x : Word} {i : Instr} (h : decodeWord x = .ok i) : instrOfWord x = i := by
  simp only [instrOfWord, h]

theorem instrOfWord_error {x : Word} {e : DecodeReject} (h : decodeWord x = .error e) : instrOfWord x = .illegal x := by
  simp only [instrOfWord, h]

section
variable {s : State} {c : Fin 256} {p : Fin 32} {w : Wave} {q : Path} {x : Word}

theorem issue_run (hissuer : s.issuer c p = some (w, q)) (hhalt : w.haltReq = false) (hjoin : w.atJoin q = false)
    (hwait : s.fetchWaits w q.pc = false) (hfetch : s.fetch w q.pc = .ok x) : s.issue c p = .run w q (instrOfWord x) := by
  simp [State.issue, hissuer, hhalt, hjoin, hwait, hfetch]

/-- What a pipe adds to what its instruction came to: the issue is counted (R423). -/
def countedIssue (before : State) (c : Fin 256) (id : Nat) : Result → Result
  | .next t => .next (t.countIssue before c id)
  | r => r

theorem pipeStep_run {i : Instr} (h : s.issue c p = .run w q i) :
    pipeStep exec s c p = countedIssue ((s.fetched w q.pc).running w q) c w.id
      (((s.fetched w q.pc).running w q).ofWave w (exec i)) := by
  rw [pipeStep, h]
  rfl

theorem State.ofWave_none (h : w.det = none) (go : State → Result) : s.ofWave w go = go s := by
  simp only [State.ofWave, h]

end

/-! ## The wave that executes (R38, R261) -/

section
variable {s : State} {w : Wave} {p : Path}

/-- The wave keeps all but its held cycles as a path of it gains the pipe. -/
theorem State.gain_wave? (h : s.wave? w.id = some w) :
    ∃ w', (s.gain w p).wave? w.id = some w' ∧ { w' with heldCycles := w.heldCycles } = w := by
  have hreset : (s.modWave w.id fun x => { x with heldCycles := 0 }).wave? w.id = some { w with heldCycles := 0 } :=
    State.wave?_modWave h fun _ hx => hx
  unfold State.gain
  dsimp only
  split
  · split
    · exact ⟨w, h, rfl⟩
    · exact ⟨_, hreset, rfl⟩
  · exact ⟨_, hreset, rfl⟩

theorem State.cursor?_of_cur {t : Tag} {id : Nat} (hcur : s.cur = some (id, t)) (hw : s.wave? id = some w)
    (hp : w.path? t = some p) : s.cursor? = some { w := w, p := p } := by
  simp [State.cursor?, hcur, hw, hp]

/-- The path that the pipe has chosen executes, and nothing of its wave but the held cycles has changed. -/
theorem State.running_cursor? (hw : s.wave? w.id = some w) (hp : w.path? p.tag = some p) :
    ∃ w', (s.running w p).cursor? = some { w := w', p := p } ∧ { w' with heldCycles := w.heldCycles } = w := by
  obtain ⟨w', hgain, hrest⟩ := State.gain_wave? (p := p) hw
  have hpath : w'.path? p.tag = some p := by
    rw [← hrest] at hp
    exact hp
  exact ⟨w', State.cursor?_of_cur (s := s.running w p) rfl hgain hpath, hrest⟩

end

namespace State

/-! ## Copies dropped and lines read (R115, R141, R144) -/

section
variable {α : Type} (g : State → α)

section
variable (hg : ∀ (s : State) c m n, g { s with cores := c, messages := m, nextId := n } = g s)
include hg

/-- A write-back of a sector changes the core, the messages and the next name: what reads none of them stays. -/
theorem writebackSector_keeps (s : State) (c : Fin 256) (sec : Nat) : g (s.writebackSector c sec) = g s := by
  unfold writebackSector
  dsimp only
  split
  · exact hg s _ _ _
  · rfl

theorem evictL1_keeps (s : State) (c : Fin 256) (line : Nat) : g (s.evictL1 c line) = g s := by
  have hcore : ∀ (t : State) f, g (t.modCore c f) = g t := fun t _ => hg t _ t.messages t.nextId
  have hsectors : g ([0, 1, 2, 3].foldl (fun s i => s.writebackSector c (4 * line + i)) s) = g s :=
    List.foldlRecOn (motive := fun t => g t = g s) _ _ rfl fun t ht i _ => (writebackSector_keeps g hg t c _).trans ht
  exact (hcore _ _).trans ((hcore _ _).trans hsectors)

end

section
variable (hg : ∀ (s : State) h r l, g { s with homes := h, regs := r, lineWrites := l } = g s)
include hg

theorem count_keeps (s : State) (u : CounterUnit) (src n : Nat) : g (s.count u src n) = g s := by
  obtain ⟨r, h⟩ := count_regs s u src n
  rw [h]
  exact hg s s.homes r s.lineWrites

/-- A line installed changes homes and the lines on their way to the controllers. -/
theorem install_keeps {s t : State} {line : Nat} {data : Vector Byte 128} {dirty : BitVec 4} {asid : BitVec 8} {master : DWord}
    (h : s.install line data dirty asid master = .ok t) : g t = g s := by
  unfold install at h
  dsimp only at h
  have hhome : ∀ (u : State) k f, g (u.modHome k f) = g u := fun u _ _ => hg u _ u.regs u.lineWrites
  have hsend : ∀ (u : State) x m, g (u.sendLine x m) = g u := fun u x m => by
    unfold sendLine
    split
    · rfl
    · exact hg u u.homes u.regs _
  split at h
  · split at h
    · cases h
    · cases h
      exact (hhome _ _ _).trans ((hsend _ _ _).trans (hhome _ _ _))
  · cases h
    exact hhome _ _ _

/-- A line that a home reads changes homes, counters and the lines on their way to the controllers: what reads none of them
stays. -/
theorem ensureL2_keeps {s t : State} {line : Nat} {asid : BitVec 8} {master : DWord} {x : L2Line}
    (h : s.ensureL2 line asid master = .ok (x, t)) : g t = g s := by
  have hcount := count_keeps g hg
  unfold ensureL2 at h
  split at h
  · cases h
  split at h
  · cases h
    exact (hcount _ _ _ _).trans (hg s _ s.regs s.lineWrites)
  split at h
  · cases h
  dsimp only at h
  generalize hu : (if inLineSpace (line * 128) = true then _ else _) = u at h
  have hcounted : g u = g s := by
    rw [← hu]
    split
    · exact (hcount _ _ _ _).trans (hcount _ _ _ _)
    · exact hcount _ _ _ _
  split at h
  · cases h
  next hinstall =>
  split at h
  · cases h
    exact (install_keeps g hg hinstall).trans hcounted
  · cases h

theorem readLines_keeps (s : State) (lines : List Nat) (asid : BitVec 8) (master : DWord) :
    g (s.readLines lines asid master) = g s := by
  refine List.foldlRecOn (motive := fun t => g t = g s) _ _ rfl fun t ht line _ => ?_
  split
  · next h => exact (ensureL2_keeps g hg h).trans ht
  · exact ht

end
end

@[simp] theorem walked_waves (s : State) (w : Wave) (eas : List Nat) : (s.walked w eas).waves = s.waves := by
  refine List.foldlRecOn (motive := fun (t : State) => t.waves = s.waves) _ _ rfl fun t ht page _ => ?_
  dsimp only
  split
  · exact ht
  · have hdrop := List.foldlRecOn (motive := fun (u : State) => u.waves = t.waves)
      (t.walkLines (t.coreBytes w.core) w.asid (page * 65536)) (fun s l => s.evictL1 w.core l) rfl
      fun u hu l _ => (evictL1_keeps waves (fun _ _ _ _ => rfl) u w.core l).trans hu
    exact (readLines_keeps waves (fun _ _ _ _ => rfl) _ _ _ _).trans (hdrop.trans ht)

@[simp] theorem fetched_waves (s : State) (w : Wave) (pc : Nat) : (s.fetched w pc).waves = s.waves := by
  unfold fetched
  split
  · dsimp only
    split
    · exact (readLines_keeps waves (fun _ _ _ _ => rfl) _ _ _ _).trans (walked_waves s w [pc])
    · exact walked_waves s w [pc]
  · rfl

@[simp] theorem fetched_wave? (s : State) (w : Wave) (pc id : Nat) : (s.fetched w pc).wave? id = s.wave? id := by
  unfold wave?
  rw [fetched_waves]

end State

/-! ## The control cores (R285) -/

/-- A word of the launch extension that is none of its instructions. -/
theorem controlStep_reserved {s : State} {k : Fin 16} (hheld : (s.control[k]).held = false)
    (hword : decodeCdm (s.control[k]).fetch = none) (hres : cdmReserved (s.control[k]).fetch = true) :
    controlStep exec s k = .next { s with control := s.control.set k { s.control[k] with exception := some 2 } } := by
  simp only [controlStep, hheld, hword, hres, Bool.false_eq_true, if_false, if_true]

theorem controlStep_refused {s : State} {k : Fin 16} (hheld : (s.control[k]).held = false)
    (hword : decodeCdm (s.control[k]).fetch = none) (hres : cdmReserved (s.control[k]).fetch = false) :
    controlStep exec s k = .refused .riscvInstruction := by
  simp only [controlStep, hheld, hword, hres, Bool.false_eq_true, if_false]

theorem controlStep_decoded {s : State} {k : Fin 16} {i : Instr} (hheld : (s.control[k]).held = false)
    (hword : decodeCdm (s.control[k]).fetch = some i) :
    controlStep exec s k = exec i { s with cur := some (k.val, Tag.root) } := by
  simp only [controlStep, hheld, hword, Bool.false_eq_true, if_false]

theorem combinerStep_run {s : State} {h : Fin 128} {w : Wave} {p : Path} {b : Batch} {x : Word} {i : Instr}
    (hmethod : s.methodPath? h = some (w, p, b)) (hjoin : w.atJoin p = false) (hbody : b.inBody p.pc = true)
    (hclock : w.clock < 4096) (hfetch : s.fetch w p.pc = .ok x) (hword : decodeWord x = .ok i) :
    combinerStep exec s h = exec i { s with cur := some (w.id, p.tag) } := by
  have hlimit : ¬4096 ≤ w.clock := Nat.not_le.mpr hclock
  simp only [combinerStep, hmethod, hjoin, hbody, hlimit, hfetch, instrOfWord_ok hword, Bool.not_true, Bool.false_eq_true, if_false]

/-- Settles O4: each kind of turn runs what its word decodes to, and the passing of time does the rest. -/
theorem stepRuns : Obligations.StepRuns := by
  unfold Obligations.StepRuns
  intro s
  refine ⟨fun c p w q x hturn hissuer hhalt hjoin hwait hfetch => ?pipe, fun i => step_of_turn, ?combiner, ?control, ?time⟩
  case pipe =>
    have hissue := issue_run (s := s.nextTurn) hissuer hhalt hjoin hwait hfetch
    have hpipe : step s = afterStep (runTurn s.nextTurn (.pipe c p)) :=
      hturn.elim (fun ⟨hturns, hfocus⟩ => step_of_focus hturns hfocus) step_of_turn
    have hstep := fun i (hi : instrOfWord x = i) => hpipe.trans (congrArg afterStep (pipeStep_run (hi ▸ hissue)))
    refine ⟨fun i hi => hstep i (instrOfWord_ok hi), fun e he => hstep _ (instrOfWord_error he), fun hdet i =>
      State.ofWave_none hdet (exec i), fun hw hp => State.running_cursor? ?_ hp⟩
    exact (State.fetched_wave? s.nextTurn w q.pc w.id).trans hw
  case combiner =>
    intro h w p b x i hturn hmethod hjoin hbody hclock hfetch hword
    exact (step_of_turn hturn).trans (congrArg afterStep (combinerStep_run hmethod hjoin hbody hclock hfetch hword))
  case control =>
    intro k hturn hheld
    have hstep : step s = afterStep (controlStep exec s.nextTurn k) := step_of_turn hturn
    refine ⟨fun i hword => hstep.trans (congrArg afterStep (controlStep_decoded (s := s.nextTurn) hheld hword)), fun hword =>
      ⟨fun hres => ?_, fun hres => hstep.trans (congrArg afterStep (controlStep_refused (s := s.nextTurn) hheld hword hres))⟩⟩
    rw [controlStep_reserved (s := s.nextTurn) hheld hword hres] at hstep
    obtain ⟨-, -, -, -, -, hwaves, hcontrol⟩ := afterStep_adds (t := { State.passTime _ with cur := none }) rfl
    exact ⟨_, hstep, hcontrol, hwaves⟩
  case time =>
    intro u t h
    obtain ⟨hcur, htick, hmem, hcores, hhomes, hwaves, -⟩ := afterStep_adds h
    exact ⟨hcur, htick, hmem, hcores, hhomes, hwaves⟩

end Sys2Proof.Machine
end

section
/-! SUPPORT. The scheduler (R27, R28, R286 to R296, R331 to R335): slots and scratchpad bases, deficits, reservations, the run bit. -/

namespace Sys2Proof.Machine

/-! ## Where a wave and a workgroup stand (R27, R28, R159, R288) -/

/-- A slot that the search finds stands in the core, is not the producer's, and shares nothing with what is used. -/
theorem findSlot_free {used : List WavePlace} {n : Nat} {u : WavePlace} (h : findSlot used n = some u) :
    u.blocks = n ∧ (n ≤ 16 → u.block + n ≤ 16) ∧ ¬(u.pipe = 31 ∧ u.slot = 7)
      ∧ ∀ x ∈ used, x.pipe = u.pipe → x.slot ≠ u.slot ∧ (u.block + n ≤ x.block ∨ x.block + x.blocks ≤ u.block) := by
  obtain ⟨p, -, hp⟩ := List.exists_of_findSome?_eq_some h
  dsimp only at hp
  split at hp
  · next k slots b hslots hblock =>
    cases hp
    have hk : k ∈ k :: slots := List.mem_cons_self
    rw [← hslots] at hk
    have hfree := List.find?_some hblock
    have hb : b < 17 - n := List.mem_range.mp (List.mem_of_find?_eq_some hblock)
    simp only [List.mem_filter, List.mem_finRange, true_and, Bool.and_eq_true, Bool.not_eq_true', Bool.and_eq_false_iff,
      List.any_eq_false, List.mem_filter, decide_eq_true_eq, beq_eq_false_iff_ne, List.all_eq_true, and_imp] at hk hfree
    obtain ⟨hproducer, hslot⟩ := hk
    refine ⟨rfl, fun _ => ?_, ?_, fun x hx hpipe => ⟨fun hs => ?_, hfree x hx hpipe⟩⟩
    · show b + n ≤ 16
      omega
    · rintro ⟨h31, h7⟩
      exact hproducer.elim (fun hne => hne (congrArg Fin.val h31)) fun hne => hne (congrArg Fin.val h7)
    · exact hslot x hx hpipe hs
  · cases hp

/-- A base that the search finds is a multiple of 768, inside the scratchpad and apart from every resident range. -/
theorem State.scratchBase?_free {s : State} {c : Fin 256} {size b : Nat} (h : s.scratchBase? c size = some b) :
    b % 768 = 0 ∧ b + size ≤ 786432
      ∧ ∀ x ∈ s.wgsOn c, 0 < x.size → 0 < size → b + size ≤ x.base ∨ x.base + x.size ≤ b := by
  have hfree := List.find?_some h
  obtain ⟨k, -, rfl⟩ := List.mem_map.mp (List.mem_of_find?_eq_some h)
  simp only [Bool.and_eq_true, decide_eq_true_eq, List.all_eq_true, List.mem_filter, and_imp] at hfree
  obtain ⟨hend, hheld⟩ := hfree
  refine ⟨Nat.mul_mod_right 768 k, hend, fun x hx hsize hpos => ?_⟩
  exact (hheld x hx hsize).resolve_left (Nat.ne_of_gt hpos)

/-! ## Deficits (R291) -/

/-- A value that a map lists is an entry of it. -/
theorem SMap.mem_of_at? {α : Type} : ∀ {m : SMap α} {k : Nat} {v : α}, SMap.at? m k = some v → (k, v) ∈ m
  | [], _, _, h => by cases h
  | (j, x) :: m, k, v, h => by
    rw [SMap.at?] at h
    split at h
    · next hj =>
      cases h
      exact hj ▸ List.mem_cons_self
    · split at h
      · cases h
      · exact List.mem_cons_of_mem _ (SMap.mem_of_at? h)

/-- A key whose entries the filter drops reads as the default. -/
theorem SMap.get_filter_eq_default {α : Type} {d : α} {m : SMap α} {f : Nat × α → Bool} {k : Nat} (h : ∀ v, f (k, v) = false) :
    SMap.get d (m.filter f) k = d := by
  unfold SMap.get
  cases hat : SMap.at? (m.filter f) k with
  | none => rfl
  | some v =>
    have hf := (List.mem_filter.mp (SMap.mem_of_at? hat)).2
    rw [h v] at hf
    cases hf

namespace State

/-- D is 0 where the queue holds no unplaced unit. -/
theorem get_dropDeficits {s : State} {a : BitVec 8} {prio : Nat} (hprio : prio < 4) (h : s.dropDeficits.queueEmpty a prio = true) :
    SMap.get 0 s.dropDeficits.deficits (deficitKey a prio) = 0 := by
  have hctx : BitVec.ofNat 8 (deficitKey a prio / 4) = a := by
    have hdiv : deficitKey a prio / 4 = a.toNat := by unfold deficitKey; omega
    rw [hdiv, BitVec.ofNat_toNat, BitVec.setWidth_eq]
  have hprio : deficitKey a prio % 4 = prio := by unfold deficitKey; omega
  have hempty : s.queueEmpty a prio = true := h
  refine SMap.get_filter_eq_default fun v => ?_
  simp only [hctx, hprio, hempty, Bool.not_true]

/-- A round ends with the deficits of the empty queues dropped. -/
theorem get_round_deficits {s : State} {a : BitVec 8} {prio : Nat} (hprio : prio < 4) (h : s.round.queueEmpty a prio = true) :
    SMap.get 0 s.round.deficits (deficitKey a prio) = 0 := by
  unfold round at h ⊢
  exact get_dropDeficits hprio h

/-! ### What a placement leaves of the deficits (R289, R291) -/

@[simp] theorem trimLent_deficits (s : State) (c : Fin 256) : (s.trimLent c).deficits = s.deficits :=
  List.foldlRecOn (motive := fun (t : State) => t.deficits = s.deficits) _ _ rfl
    fun t ht l _ => (evictL1_keeps deficits (fun _ _ _ _ => rfl) t c l.line).trans ht

@[simp] theorem startWaves_deficits (s : State) (x : Launch) (gang gangid stage wg : Nat) (pl : WgPlace) :
    (s.startWaves x gang gangid stage wg pl).deficits = s.deficits := by
  refine (trimLent_deficits _ pl.core).trans ?_
  exact List.foldlRecOn (motive := fun (t : State) => t.deficits = s.deficits) _ _ rfl fun _ ht _ _ => ht

@[simp] theorem placeGang_deficits (s : State) (x : Launch) (gangid stage : Nat) (cl : Fin 64) (slot : Nat) (pls : List WgPlace) :
    (s.placeGang x gangid stage cl slot pls).deficits = s.deficits :=
  List.foldlRecOn (motive := fun (t : State) => t.deficits = s.deficits) _ _ rfl
    fun t ht _ _ => (startWaves_deficits t x _ _ _ _ _).trans ht

theorem placeIn_deficits {s t : State} {x : Launch} {cls : List (Fin 64)} {g : Nat × Nat} (h : s.placeIn x cls g = some t) :
    t.deficits = s.deficits := by
  obtain ⟨⟨cl, k, pls⟩, -, rfl⟩ := Option.map_eq_some_iff.mp h
  exact placeGang_deficits s x g.1 g.2 cl k pls

theorem placeUnitOf_deficits {s t : State} {x : Launch} {cls : List (Fin 64)} (h : s.placeUnitOf x cls = some t) :
    t.deficits = s.deficits := by
  have hgangs : ∀ u ∈ x.nextUnit.foldl (fun (r : Option State) g => r.bind fun s => s.placeIn x cls g) (some s),
      u.deficits = s.deficits := by
    refine List.foldlRecOn (motive := fun (r : Option State) => ∀ u ∈ r, u.deficits = s.deficits) _ _ ?_ fun r hr g _ u hu => ?_
    · rintro u ⟨⟩
      rfl
    · obtain ⟨v, hv, hplace⟩ := Option.bind_eq_some_iff.mp hu
      exact (placeIn_deficits hplace).trans (hr v hv)
  unfold placeUnitOf at h
  split at h
  · cases h
  · obtain ⟨u, hu, rfl⟩ := Option.map_eq_some_iff.mp h
    exact hgangs u hu

/-! ### A context served (R291) -/

/-- The deficits stand in the canonical form, and D[a, prio] is at most 64. -/
def DeficitBounded (a : BitVec 8) (prio : Nat) (s : State) : Prop :=
  SMap.wf (fun _ => 0) s.deficits = true ∧ SMap.get 0 s.deficits (deficitKey a prio) ≤ 64

theorem deficitBounded_set {a : BitVec 8} {prio : Nat} {m : SMap Nat} (h : SMap.wf (fun _ => 0) m = true) {d : Nat} (hd : d ≤ 64)
    {s : State} (hs : s.deficits = SMap.set 0 m (deficitKey a prio) d) : DeficitBounded a prio s := by
  rw [DeficitBounded, hs, SMap.get_set 0 m _ _ d h, if_pos rfl]
  exact ⟨SMap.wf_set 0 m _ d h, hd⟩

/-- Units placed from a queue only lower its deficit. -/
theorem DeficitBounded.drainQueue {a : BitVec 8} {prio : Nat} (n : Nat) {s : State} (h : DeficitBounded a prio s) :
    DeficitBounded a prio (drainQueue a prio n s) := by
  induction n generalizing s with
  | zero => exact h
  | succ n ih =>
    rw [State.drainQueue]
    dsimp only
    split
    · exact h
    split
    · exact h
    split
    · exact h
    next t hplace =>
    obtain ⟨hwf, hle⟩ := h
    have hdef := placeUnitOf_deficits hplace
    refine ih (deficitBounded_set (m := t.deficits) (hdef ▸ hwf) ?_ rfl)
    omega

/-- A context served has at most 64 left: its credit is cut there, and a queue that has run empty has 0. -/
theorem serve_deficitBounded {s : State} (prio : Nat) (a : BitVec 8) (h : SMap.wf (fun _ => 0) s.deficits = true) :
    DeficitBounded a prio (State.serve prio s a) := by
  have hcredit := fun d (hd : d ≤ 64) => deficitBounded_set (a := a) (prio := prio)
    (s := { s with deficits := SMap.set 0 s.deficits (deficitKey a prio) d }) h hd rfl
  have hdrain := (hcredit (min 64 (SMap.get 0 s.deficits (deficitKey a prio) + s.regBits (Reg.schCtx a.toNat) 4 0))
    (Nat.min_le_left 64 _)).drainQueue 64
  unfold State.serve
  dsimp only
  split
  · obtain ⟨hwf, -⟩ := hdrain
    exact deficitBounded_set hwf (Nat.zero_le _) rfl
  · exact hdrain

/-! ## Reservations (R292) -/

/-- A reservation of one cluster names one of the partition in which the launch would fit alone. -/
theorem reserveFor_cluster {s : State} {l : Launch} {cl : Fin 64} {k : Fin 256} (h : s.reserveFor l = (cl, false, k)) :
    s.wouldFit l cl = true ∧ cl ∈ s.clustersOf l.part := by
  unfold reserveFor at h
  split at h
  · next hfind =>
    cases h
    have hfit := List.find?_some hfind
    simp only [Bool.and_eq_true] at hfit
    exact ⟨hfit.2, List.mem_of_find?_eq_some hfind⟩
  · cases h

theorem starvationBound_reserves {s : State} {q : Fin 32} {l : Launch} (hnone : SMap.at? s.reservations q.val = none)
    (hl : s.starving? q = some l) : exec (.starvationBound q) s =
      .next (placeReserved { s with reservations := SMap.insert s.reservations q.val (s.reserveFor l) }) := by
  simp only [exec_starvationBound, execStarvationBound, hnone, hl]

theorem starvationBound_idle {s : State} {q : Fin 32} (h : s.starving? q = none) :
    exec (.starvationBound q) s = notEnabled := by
  cases hat : SMap.at? s.reservations q.val <;> simp only [exec_starvationBound, execStarvationBound, hat, h]

/-! ## Readiness (R286) -/

theorem launchReady_ready {s : State} {k : Fin 256} {l : Launch} (hl : s.launch? k = some l) (hready : l.ready = none)
    (hmet : s.depsMet l = true) : exec (.launchReady k) s = .next (s.becomeReady k) := by
  simp [exec_launchReady, execLaunchReady, hl, hready, hmet]

theorem launchReady_waits {s : State} {k : Fin 256} {l : Launch} (hl : s.launch? k = some l)
    (h : l.ready ≠ none ∨ s.depsMet l = false) : exec (.launchReady k) s = notEnabled := by
  have hno : ¬(l.ready.isNone && s.depsMet l) = true := by
    rcases h with h | h <;> simp [h]
  simp only [exec_launchReady, execLaunchReady, hl, if_neg hno]

/-! ## SCHBOUND and the run bit (R295, R296, R331) -/

theorem ctxRuns_setRun {s : State} (h : s.RegsWf) (a : BitVec 8) (b : Bool) : (s.setRun a b).ctxRuns a = b := by
  unfold setRun ctxRuns regBit
  rw [reg_setReg_same h, BitVec.getLsbD_ofNat, Nat.testBit_eq_decide_div_mod_eq]
  cases b <;> simp <;> omega

theorem schctxRun_next (s : State) (a : BitVec 8) : exec (.schctxRun a) s = .next (s.setRun a true).round := rfl

theorem schctxStop_next (s : State) (a : BitVec 8) : exec (.schctxStop a) s = .next ((s.setRun a false).preempt a) := rfl

/-- The run bit is a write of one register. -/
theorem setRun_eq (s : State) (a : BitVec 8) (b : Bool) : ∃ x, s.setRun a b = s.setReg (Reg.schCtx a.toNat) x := ⟨_, rfl⟩

theorem ctxGangs_setRun (s : State) (a c : BitVec 8) (b : Bool) : (s.setRun a b).ctxGangs c = s.ctxGangs c := by
  obtain ⟨x, h⟩ := setRun_eq s a b
  rw [h]
  rfl

theorem ctxRuns_preempt (s : State) (a c : BitVec 8) : (s.preempt a).ctxRuns c = s.ctxRuns c := rfl

/-- The request reaches a resident gang of the context and every wave of it. -/
theorem preempt_stops {s : State} {a : BitVec 8} {g : Gang} (hg : g ∈ s.ctxGangs a) (hres : g.resident = true) :
    (∀ w ∈ (s.preempt a).waves, w.kind = .launched → w.gang = g.id → w.stopReq = true)
      ∧ ∀ g' ∈ (s.preempt a).gangs, g'.id = g.id → g'.stopping = true := by
  have hid : (((s.ctxGangs a).filter (·.resident)).map (·.id)).contains g.id = true :=
    List.contains_iff_mem.mpr (List.mem_map_of_mem (List.mem_filter.mpr ⟨hg, hres⟩))
  unfold preempt
  dsimp only
  refine ⟨fun w hw hkind hgang => ?waves, fun g' hg' hsame => ?gangs⟩
  case waves =>
    obtain ⟨v, -, rfl⟩ := List.mem_map.mp hw
    split at hkind
    · next hv => rw [if_pos hv]; rfl
    · next hv =>
      rw [if_neg hv] at hgang
      exact absurd ⟨hkind, hgang ▸ hid⟩ hv
  case gangs =>
    obtain ⟨x, -, rfl⟩ := List.mem_map.mp hg'
    split at hsame
    · next hx => rw [if_pos hx]
    · next hx => exact absurd (hsame ▸ hid) hx

/-! ## Gangs saved and resumed (R331 to R335) -/

section
variable {s : State} {g : Nat} {x : Gang} (hx : s.gang? g = some x)
include hx

theorem gangSave_waits (h : (s.gangSet x).all s.savable = false) : exec (.gangSave g) s = notEnabled := by
  simp only [exec_gangSave, execGangSave, hx, h, Bool.not_false, if_true]

section
variable {w : Wave} (h : (s.gangSet x).all s.savable = true)
  (hw : (s.gangSet x).findSome? (fun y => (s.gangWaves y.id).head?) = some w)
include h hw

theorem gangSave_noArea (harea : s.hasSaveArea w.asid = false) : exec (.gangSave g) s =
    .next (((s.gangSet x).flatMap fun y => s.gangWaves y.id).foldl (fun (u : State) w => u.freezeWave w 8 0) s) := by
  simp only [exec_gangSave, execGangSave, hx, h, hw, harea, Bool.not_true, Bool.not_false, if_true, Bool.false_eq_true, if_false]

theorem gangSave_saves (harea : s.hasSaveArea w.asid = true) :
    let r := s.saveRelease ((s.gangSet x).flatMap fun y => s.gangWaves y.id)
    exec (.gangSave g) s = .next (if r.1 then ((s.gangSet x).foldl State.saveGang r.2).round else r.2) := by
  simp only [exec_gangSave, execGangSave, hx, h, hw, harea, Bool.not_true, Bool.false_eq_true, if_false]

end

section
variable {l : Launch} (hl : s.launches.find? (fun l => l.slot == x.launch && l.seq == x.seq) = some l)
include hl

theorem gangResume_resumes {t : State} (hruns : s.ctxRuns l.asid = true) (hsaved : (s.gangSet x).all (·.saved) = true)
    (ht : (s.gangSet x).foldl (fun (r : Option State) y => r.bind fun u => u.resumeGang y) (some s) = some t) :
    exec (.gangResume g) s =
      .next (((s.gangSet x).flatMap fun y => t.gangWaves y.id).foldl (fun (u : State) w => u.resumeReport w.id) t) := by
  simp only [exec_gangResume, execGangResume, hx, hl, hruns, hsaved, ht, Option.map_some]
  rfl

theorem gangResume_stopped (hruns : s.ctxRuns l.asid = false) : exec (.gangResume g) s = notEnabled := by
  simp only [exec_gangResume, execGangResume, hx, hl, hruns, Option.map_some]
  rfl

end
end

/-! ## The end of a quantum (R306) -/

section
variable {s : State} {id : Nat} {w : Wave} {d : WaveDet} (hw : s.wave? id = some w) (hd : w.det = some d)
include hw hd

theorem quantumEnd_ends (hended : d.ended = false) (hover : w.quantumOver d (s.quantumOf w) = true) :
    ∃ t, exec (.quantumEnd id) s = .next t ∧ s.OnlyWave t id { w with det := some { d with ended := true } } := by
  have honly := OnlyWave.of_modWave (f := fun y => y.modDet fun d => { d with ended := true }) hw fun _ hy => hy
  rw [Wave.modDet, hd] at honly
  refine ⟨_, ?_, honly⟩
  simp [exec_quantumEnd, execQuantumEnd, hw, hd, hended, hover]

theorem quantumEnd_runs (hover : w.quantumOver d (s.quantumOf w) = false) : exec (.quantumEnd id) s = notEnabled := by
  simp [exec_quantumEnd, execQuantumEnd, hw, hd, hover]

end

/-! ## The end of a period and the start of the next (R306, R307, R317, R319) -/

/-- A step of the domain takes the free values that the domain's data name, and leaves those of the machine (R303). -/
def stepInPeriod (s : State) (l : Launch) (d : DetState) (key : List Nat) (go : State → State) : State :=
  { go { s with freeCtr := Config.domainFree (l.record.key ++ 2 :: d.period :: key) } with freeCtr := s.freeCtr }

theorem inPeriod_next (s : State) (l : Launch) (d : DetState) (n : Nat) (go : State → State) :
    s.inPeriod l d n (fun u => .next (go u)) = .next (s.stepInPeriod l d [n] go) := rfl

section
variable {s : State} {k : Fin 256} {l : Launch} {d : DetState} (hl : s.launch? k = some l) (hd : l.det = some d)
include hl hd

section
variable (hended : d.ended = false)
include hended

/-- Steps 1 to 3 are due: dirty copies go first, then the homes must serve the lines, then the steps are taken. -/
theorem periodEnd_due (hclosing : d.closing = false) (hready : s.periodReady l = true) (hfree : s.buffersFree l = true) :
    exec (.periodEnd k) s =
      if ((s.dueLines l).any fun x => x.2.any (s.core x.1).dirtyLine) = true then
        .next ((s.dueLines l).foldl (fun (u : State) x => u.dropCopies x.1 x.2) s)
      else if ((s.dueLines l).any fun x => x.2.any (s.lineComing x.1) || !s.servesAll x.2) = true then notEnabled
      else .next (s.stepInPeriod l d [2] fun u => u.closePeriod l) := by
  simp only [exec_periodEnd, execPeriodEnd, hl, hd, hended, hclosing, hready, hfree, Bool.not_true, Bool.not_false,
    Bool.or_self, Bool.false_eq_true, if_false, if_true, inPeriod_next]

/-- Step 4 goes on with the first operation that is left, and the period ends behind the last. -/
theorem periodEnd_step (hclosing : d.closing = true) (hbusy : s.stepBusy l = false) :
    (∀ id rest, d.order = id :: rest → exec (.periodEnd k) s =
      .next (s.stepInPeriod l d [3 + d.order.length] fun u => u.grantNext l id rest))
    ∧ (d.order = [] → exec (.periodEnd k) s = .next (s.finishPeriod l d.period)) := by
  constructor
  · intro id rest horder
    simp only [exec_periodEnd, execPeriodEnd, hl, hd, hended, hclosing, hbusy, horder, Bool.not_true, Bool.false_eq_true,
      if_false, inPeriod_next]
  · intro horder
    simp only [exec_periodEnd, execPeriodEnd, hl, hd, hended, hclosing, hbusy, horder, Bool.not_true, Bool.false_eq_true,
      if_false]

end

theorem periodEnd_ended (hended : d.ended = true) : exec (.periodEnd k) s = notEnabled := by
  simp only [exec_periodEnd, execPeriodEnd, hl, hd, hended, if_true]

theorem periodAdvance_next (hended : d.ended = true) (hpeers : s.peersReached l d.period = true) (hout : s.resultsOut l = false)
    (hfree : s.commitsFree l = true) {t : State} (ht : s.deliverPeriod l.part d.period = some t) :
    exec (.periodAdvance k) s = .next (t.stepInPeriod l d [0] fun u => (u.wakeAll l).startPeriod l) := by
  simp only [exec_periodAdvance, execPeriodAdvance, hl, hd, hended, hpeers, hout, hfree, ht, Bool.not_true, Bool.or_self,
    Bool.false_eq_true, if_false, inPeriod_next]

theorem periodAdvance_waits (h : d.ended = false ∨ s.peersReached l d.period = false ∨ s.resultsOut l = true) :
    exec (.periodAdvance k) s = notEnabled := by
  have hwait : (!d.ended || !s.peersReached l d.period || s.resultsOut l || !s.commitsFree l) = true := by
    rcases h with h | h | h <;> simp [h]
  simp only [exec_periodAdvance, execPeriodAdvance, hl, hd, if_pos hwait]

end

end State

/-- Settles O55: each step of the scheduler is its rule above, and a round leaves every deficit within its bounds. -/
theorem scheduleSteps : Obligations.ScheduleSteps := by
  unfold Obligations.ScheduleSteps
  intro s hs
  refine ⟨fun k l hl => ?ready, fun _ _ _ => findSlot_free, fun _ _ _ => State.scratchBase?_free, fun prio a hwf => ?deficit,
    fun _ _ => State.get_round_deficits, fun _ _ _ => State.reserveFor_cluster, fun q => ?starving, fun value => ?bound,
    fun a => ?context, fun g x hx => ?gang, fun id w d hw hd hended => ?quantum, fun k l d hl hd => ?period⟩
  case ready => exact ⟨State.launchReady_ready hl, State.launchReady_waits hl⟩
  case deficit =>
    obtain ⟨-, hle⟩ := State.serve_deficitBounded prio a hwf
    exact hle
  case starving => exact ⟨fun _ => State.starvationBound_reserves, State.starvationBound_idle⟩
  case bound =>
    refine ⟨_, rfl, fun hlo hhi => ?_, fun hout => if_neg hout⟩
    rw [if_pos ⟨hlo, hhi⟩]
    exact State.setsReg_setReg hs _ _
  case context =>
    refine ⟨State.schctxRun_next s a, State.ctxRuns_setRun hs a true, _, State.schctxStop_next s a,
      (State.ctxRuns_preempt _ a a).trans (State.ctxRuns_setRun hs a false), fun g hg => State.preempt_stops ?_⟩
    rw [State.ctxGangs_setRun]
    exact hg
  case gang =>
    exact ⟨fun h w hw => ⟨State.gangSave_noArea hx h hw, State.gangSave_saves hx h hw⟩, State.gangSave_waits hx,
      fun l t hl => ⟨State.gangResume_resumes hx hl, State.gangResume_stopped hx hl⟩⟩
  case quantum => exact ⟨State.quantumEnd_ends hw hd hended, State.quantumEnd_runs hw hd⟩
  case period =>
    refine ⟨fun hended hclosing hready hfree => ?due, fun hended => State.periodEnd_step hl hd hended,
      State.periodEnd_ended hl hd, fun hended hpeers hout hfree t ht => ?advance, State.periodAdvance_waits hl hd,
      fun hended => State.periodAdvance_waits hl hd (.inl hended)⟩
    case due =>
      have hdue := State.periodEnd_due hl hd hended hclosing hready hfree
      refine ⟨fun hdirty => hdue.trans (if_pos hdirty), fun hclean hcoming => ?_, fun hclean hserved => ?_⟩
      · rw [hdue, if_neg (ne_true_of_eq_false hclean), if_pos hcoming]
      · rw [hdue, if_neg (ne_true_of_eq_false hclean), if_neg (ne_true_of_eq_false hserved)]
        rfl
    case advance => exact ⟨_, State.periodAdvance_next hl hd hended hpeers hout hfree ht, rfl⟩

end Sys2Proof.Machine
end

section
/-! SUPPORT. The integers of a type in 64 bits, and fix, which wraps or saturates (R63 to R65, R231). -/

namespace Sys2Proof.Machine

/-! ## The range of a type (R63) -/

/-- An integer that a type of w bits holds. -/
def InIntRange (w : Nat) (signed : Bool) (v : Int) : Prop := (intRange w signed).1 ≤ v ∧ v ≤ (intRange w signed).2

theorem intRange_snd {w : Nat} (hw : 0 < w) (signed : Bool) : (intRange w signed).2 = (intRange w signed).1 + 2 ^ w - 1 := by
  obtain ⟨k, rfl⟩ := Nat.exists_eq_add_one.mpr hw
  cases signed with
  | false =>
    simp only [intRange, Bool.false_eq_true, if_false]
    omega
  | true =>
    have hsucc : (2 : Int) ^ (k + 1) = 2 ^ k * 2 := Int.pow_succ 2 k
    simp only [intRange, if_true, Nat.add_sub_cancel]
    omega

theorem intRange_le {w : Nat} (hw : 0 < w) (signed : Bool) : (intRange w signed).1 ≤ (intRange w signed).2 := by
  have hpos : (0 : Int) < 2 ^ w := Int.pow_pos (by decide)
  have hsnd := intRange_snd hw signed
  omega

/-- The range holds each residue modulo 2^w once. -/
theorem InIntRange.eq_of_emod_eq {w : Nat} {signed : Bool} {u v : Int} (hw : 0 < w) (hu : InIntRange w signed u)
    (hv : InIntRange w signed v) (h : u % 2 ^ w = v % 2 ^ w) : u = v := by
  obtain ⟨hu1, hu2⟩ := hu
  obtain ⟨hv1, hv2⟩ := hv
  have hsnd := intRange_snd hw signed
  have hu0 : (u - (intRange w signed).1) % 2 ^ w = u - (intRange w signed).1 := Int.emod_eq_of_lt (by omega) (by omega)
  have hv0 : (v - (intRange w signed).1) % 2 ^ w = v - (intRange w signed).1 := Int.emod_eq_of_lt (by omega) (by omega)
  have hsub : u - (intRange w signed).1 = v - (intRange w signed).1 := by
    rw [← hu0, ← hv0, Int.sub_emod u, h, ← Int.sub_emod v]
  omega

theorem clampInt_eq_max_min {lo hi : Int} (h : lo ≤ hi) (x : Int) : clampInt lo hi x = max lo (min hi x) := by
  unfold clampInt
  split
  · omega
  · split <;> omega

theorem inIntRange_clampInt {w : Nat} (hw : 0 < w) (signed : Bool) (x : Int) :
    InIntRange w signed (clampInt (intRange w signed).1 (intRange w signed).2 x) := by
  have hle := intRange_le hw signed
  rw [clampInt_eq_max_min hle]
  exact ⟨by omega, by omega⟩

/-! ## Reading 64 bits as a type (R64) -/

theorem readInt_emod (w : Nat) (signed : Bool) (x : DWord) : readInt w signed x % 2 ^ w = (x.toNat : Int) % 2 ^ w := by
  have hcast : ((x.toNat % 2 ^ w : Nat) : Int) = (x.toNat : Int) % 2 ^ w := rfl
  simp only [readInt, hcast]
  split
  · rw [Int.sub_emod_right, Int.emod_emod]
  · rw [Int.emod_emod]

theorem inIntRange_readInt {w : Nat} (hw : 0 < w) (signed : Bool) (x : DWord) : InIntRange w signed (readInt w signed x) := by
  obtain ⟨k, rfl⟩ := Nat.exists_eq_add_one.mpr hw
  have hlt : x.toNat % 2 ^ (k + 1) < 2 ^ (k + 1) := Nat.mod_lt _ (Nat.two_pow_pos _)
  simp only [InIntRange, readInt, intRange, Nat.add_sub_cancel]
  have hcast : ((2 ^ k : Nat) : Int) = 2 ^ k := rfl
  generalize x.toNat % 2 ^ (k + 1) = n at hlt ⊢
  cases signed with
  | false =>
    simp only [Bool.false_eq_true, false_and, if_false]
    omega
  | true =>
    simp only [true_and, if_true]
    split <;> omega

theorem toNat_ofInt_emod {w : Nat} (hw : w ≤ 64) (v : Int) : ((BitVec.ofInt 64 v).toNat : Int) % 2 ^ w = v % 2 ^ w := by
  have hpos : (0 : Int) ≤ v % ↑(2 ^ 64 : Nat) := Int.emod_nonneg v (by decide)
  rw [BitVec.toNat_ofInt, Int.toNat_of_nonneg hpos]
  exact Int.emod_emod_of_dvd v (Int.ofNat_dvd.mpr (Nat.pow_dvd_pow 2 hw))

/-- A value of the type's range is read back from its 64 bits. -/
theorem readInt_ofInt {w : Nat} {signed : Bool} {v : Int} (hw : 0 < w) (hw64 : w ≤ 64) (hv : InIntRange w signed v) :
    readInt w signed (BitVec.ofInt 64 v) = v :=
  (inIntRange_readInt hw signed _).eq_of_emod_eq hw hv ((readInt_emod ..).trans (toNat_ofInt_emod hw64 v))

theorem lo32_ofInt (v : Int) : lo32 (BitVec.ofInt 64 v) = BitVec.ofInt 32 v := by
  have h := toNat_ofInt_emod (w := 32) (by decide) v
  apply BitVec.eq_of_toNat_eq
  rw [lo32, BitVec.truncate_eq_setWidth, BitVec.toNat_setWidth, BitVec.toNat_ofInt (n := 32)]
  omega

/-! ## fix (R65, R231) -/

/-- The integer that fix writes: the exact one clamped, or its low bits read again. -/
def IntTy.fixed (t : IntTy) (x : Int) : Int :=
  if t.sat then clampInt (intRange t.w t.signed).1 (intRange t.w t.signed).2 x
  else readInt t.w t.signed (BitVec.ofNat 64 (x % 2 ^ t.w).toNat)

theorem IntTy.fix_eq_ofInt (t : IntTy) (x : Int) : t.fix x = BitVec.ofInt 64 (t.fixed x) :=
  (apply_ite (BitVec.ofInt 64) _ _ _).symm

theorem IntTy.inIntRange_fixed {t : IntTy} (hw : 0 < t.w) (x : Int) : InIntRange t.w t.signed (t.fixed x) := by
  unfold fixed
  split
  · exact inIntRange_clampInt hw t.signed x
  · exact inIntRange_readInt hw t.signed _

/-- What fix writes is read back: the bits above the type's width are its extension. -/
theorem IntTy.read_fix {t : IntTy} (hw : 0 < t.w) (hw64 : t.w ≤ 64) (x : Int) : t.read (t.fix x) = t.fixed x := by
  rw [fix_eq_ofInt]
  exact readInt_ofInt hw hw64 (inIntRange_fixed hw x)

theorem IntTy.fixed_wraps {t : IntTy} (hw64 : t.w ≤ 64) (hsat : t.sat = false) (x : Int) :
    t.fixed x % 2 ^ t.w = x % 2 ^ t.w := by
  have hpos : 0 ≤ x % 2 ^ t.w := Int.emod_nonneg x (Int.ne_of_gt (Int.pow_pos (by decide)))
  have hlow : ((BitVec.ofNat 64 (x % 2 ^ t.w).toNat).toNat : Int) % 2 ^ t.w = x % 2 ^ t.w := by
    rw [← BitVec.ofInt_natCast, Int.toNat_of_nonneg hpos, toNat_ofInt_emod hw64, Int.emod_emod]
  unfold fixed
  rw [if_neg (ne_true_of_eq_false hsat), readInt_emod, hlow]

theorem IntTy.fixed_saturates {t : IntTy} (hw : 0 < t.w) (hsat : t.sat = true) (x : Int) :
    t.fixed x = max (intRange t.w t.signed).1 (min (intRange t.w t.signed).2 x) := by
  unfold fixed
  rw [if_pos hsat, clampInt_eq_max_min (intRange_le hw t.signed)]

/-- Without saturation the low w bits of what fix writes are the exact integer modulo 2^w. -/
theorem IntTy.pat_fix {t : IntTy} (hw64 : t.w ≤ 64) (hsat : t.sat = false) (x : Int) :
    (t.pat (t.fix x) : Int) = x % 2 ^ t.w := by
  rw [fix_eq_ofInt, pat]
  exact (toNat_ofInt_emod hw64 _).trans (fixed_wraps hw64 hsat x)

/-! ## The integer reading of M (R63, R231, R234) -/

theorem intWidth?_bounds {e : ElemType} {w : Nat} (h : intWidth? e = some w) : 0 < w ∧ w ≤ 64 := by
  cases e <;> simp [intWidth?] at h <;> omega

theorem Mode.intTy_of_intT {m : Mode} (h : intT m.type = true) : (0 < m.intTy.w ∧ m.intTy.w ≤ 64) ∧ m.intTy.sat = m.sat := by
  obtain ⟨w, hw⟩ := Option.isSome_iff_exists.mp h
  have ht : m.intTy = ⟨w, isSigned m.type, m.sat⟩ := by simp only [Mode.intTy, hw]
  rw [ht]
  exact ⟨intWidth?_bounds hw, rfl⟩

theorem Mode.intTy_of_b32 {m : Mode} (h : m.type = .b32) : m.intTy = ⟨32, false, false⟩ := by
  simp only [Mode.intTy, h, intWidth?]

/-- Settles O14: fix writes an integer of the type's range, which its bits give back; the exact integer is congruent to it
without saturation and clamped to it with saturation. -/
theorem saturationRule : Obligations.SaturationRule := by
  unfold Obligations.SaturationRule
  intro m x
  refine ⟨fun hint => ?integer, fun hb => ?b32⟩
  case integer =>
    obtain ⟨⟨hw, hw64⟩, hsat⟩ := Mode.intTy_of_intT hint
    refine ⟨fun h0 => IntTy.pat_fix hw64 (hsat.trans h0) x, fun h1 => ?_, ?_⟩
    · rw [IntTy.read_fix hw hw64, IntTy.fixed_saturates hw (hsat.trans h1)]
    · rw [IntTy.read_fix hw hw64, IntTy.fix_eq_ofInt, lo32_ofInt]
  case b32 =>
    rw [Mode.intTy_of_b32 hb, lo32, BitVec.truncate_eq_setWidth, BitVec.toNat_setWidth]
    exact IntTy.pat_fix (by decide) rfl x

end Sys2Proof.Machine
end
section
/-! SUPPORT. Switch points with the reports that they deliver (R31, R53, R329), holds that begin (R154), and ENGWAIT, SLEEPUNTIL and
PUBLISH (R202 to R205). -/

namespace Sys2Proof.Machine

/-! ## The instruction at a switch point (R31, R53, R55) -/

section
variable {i : Instr} {mk : Wave → Path → Card} {s : State} {w : Wave} {p : Path} {fields uniform : List Field}

/-- An instruction that is a switch point and keeps the pipe comes to its reports behind its checks. -/
theorem State.ReadySwitch.issue (h : s.ReadySwitch w p fields uniform) (hk : (mk w p).Passes w p.atSwitch)
    (hsw : (mk w p).switch = true) : runCard i mk s = (mk w p).issue i w p p.atSwitch true s := by
  have hisw : (mk w p).isSwitch w p = true := by simp [Card.isSwitch, hsw]
  have hstop : (w.kind == .producer && w.stopReq) = false := by
    have hun := h.undisturbed
    simp only [Wave.undisturbed, Bool.and_eq_true, Bool.not_eq_true'] at hun
    simp [hun.1]
  have hrival : (if !p.swDone && !(mk w p).last then s.rival? w p else none) = none := by
    cases hd : p.swDone with
    | true => rfl
    | false =>
      have hnone : s.rival? w p = none := by simpa [State.keepsPipe, hd] using h.keeps
      rw [hnone, ite_self]
  unfold runCard
  rw [h.runs.cursor]
  simp only [h.runs.starts, hisw]
  rw [if_neg (by decide)]
  simp only [Bool.true_and, hstop, Bool.false_eq_true, if_false, if_true, hk.static]
  rw [hrival]

/-- With no report to deliver, what follows is the body behind the switch. -/
theorem State.ReadySwitch.issue_body (h : s.ReadySwitch w p fields uniform) {k : Card} (hk : k.Passes w p.atSwitch)
    (hi : (k.irrev && w.versioned) = false) (hd : s.deliver? k w p true = none) :
    k.issue i w p p.atSwitch true s = k.body (w.switched p) p.atSwitch (s.switched w p) := by
  have hun := h.undisturbed
  simp only [Wave.undisturbed, Bool.and_eq_true, Bool.not_eq_true'] at hun
  obtain ⟨hstop, hgrown⟩ := hun
  have hcommits : k.commits w true = false := by simp [Card.commits, hgrown, hi]
  have hblock : (k.blocking && w.stopping) = false := by simp [Wave.stopping, hstop]
  have hsync : (k.sync && !w.mayAct) = false := by simp [h.mayAct]
  unfold Card.issue
  rw [hd]
  simp only [if_true]
  exact Card.proceed_body hk.waits hk.fresh hcommits hblock hsync

/-- A wave in handler state is delivered no report (R329). -/
theorem State.deliver_handler {k : Card} {sw : Bool} (hw : w.handler ≠ none) : s.deliver? k w p sw = none := by
  have hsome : w.handler.isSome = true := Option.isSome_iff_ne_none.mpr hw
  simp [State.deliver?, hsome]

/-- A wave outside handler state for which no other report waits is delivered the missed promise of a blocking instruction
(R202, R329). -/
theorem State.deliver_missed {k : Card} {info : TrapInfo} (hw : w.handler = none) (hkind : w.kind = .launched)
    (hq : s.quiet w = true) (hrace : k.race = false) (hblock : k.blocking = true) (hwaits : k.waits p = [])
    (hm : k.missed = some info) :
    s.deliver? k w p true = some (info, s.modWave w.id fun x => { x with missed := none }) := by
  simp only [State.quiet, Bool.and_eq_true, List.isEmpty_iff, Option.isNone_iff_eq_none] at hq
  obtain ⟨⟨⟨hreports, hmissed⟩, -⟩, -⟩ := hq
  have hreport : ∀ c, s.takeReport? w c = none := fun c => by simp [State.takeReport?, hreports]
  have hpromise : k.promise? w p = some info := by simp [Card.promise?, hblock, hmissed, hwaits, hm]
  simp [State.deliver?, hw, hkind, hreport, hrace, hpromise]

/-- A wave with no missed promise of its own is found unchanged after the mark of one is cleared. -/
theorem State.wave?_clearMissed (hw : s.wave? w.id = some w) (hm : w.missed = none) :
    (s.modWave w.id fun x => { x with missed := none }).wave? w.id = some w := by
  have hclear := State.wave?_modWave (f := fun x => { x with missed := none }) hw fun _ hx => hx
  rwa [← show { w with missed := none } = w from hm ▸ rfl]

/-- A wave in handler state executes a switch point whatever reports wait (R329). -/
theorem State.ReadySwitch.run_handler (h : s.ReadySwitch w p fields uniform) (hk : (mk w p).Passes w p.atSwitch)
    (hsw : (mk w p).switch = true) (hi : ((mk w p).irrev && w.versioned) = false) (hw : w.handler ≠ none) :
    runCard i mk s = (mk w p).body (w.switched p) p.atSwitch (s.switched w p) :=
  (h.issue hk hsw).trans (h.issue_body hk hi (State.deliver_handler hw))

/-- Outside handler state a blocking instruction traps with the missed promise that it finds (R202, R329). -/
theorem State.ReadySwitch.run_missed {info : TrapInfo} (h : s.ReadySwitch w p fields uniform) (hk : (mk w p).Passes w p.atSwitch)
    (hsw : (mk w p).switch = true) (hw : w.handler = none) (hkind : w.kind = .launched) (hrace : (mk w p).race = false)
    (hblock : (mk w p).blocking = true) (hm : (mk w p).missed = some info) :
    runCard i mk s = .next ((s.modWave w.id fun x => { x with missed := none }).trap w p (wordOf i) info) := by
  have hwaits : (mk w p).waits p = [] := hk.waits
  obtain ⟨-, hfind, -⟩ := State.cursor?_spec h.runs.cursor
  have hq := h.quiet
  simp only [State.quiet, Bool.and_eq_true, Option.isNone_iff_eq_none] at hq
  obtain ⟨⟨⟨-, hnone⟩, -⟩, -⟩ := hq
  have hfound := State.wave?_clearMissed hfind hnone
  rw [h.issue hk hsw, Card.issue, State.deliver_missed hw hkind h.quiet hrace hblock hwaits hm]
  simp only [hfound]
  rfl

/-- The sources that a card accepts at a switch point are no latches: they read as before it (R53). -/
theorem srcUni_switched {l : List Operand} (hfree : allFree (uniFields l) w p.atSwitch = true) {o : Operand} (ho : o ∈ l) :
    srcUni (w.switched p) p.atSwitch o = srcUni w p o := by
  simp only [allFree, List.all_eq_true, uniFields, List.mem_map] at hfree
  have hsrc : (Field.src o).free w p.atSwitch = true := hfree _ ⟨o, ho, rfl⟩
  cases o with
  | l k => simp [Field.free, Field.stale, Field.latchSet, Field.src, Path.atSwitch, Latch.empty] at hsrc
  | _ => rfl

theorem scalar64_switched (o : Operand) : scalar64 (w.switched p) o = scalar64 w o := by cases o <;> rfl

end

namespace State
section
variable {s t : State} {w w' : Wave} {p : Path}

/-! ## The state behind a switch point (R31, R53, R423) -/

theorem switched_spec (s : State) (w : Wave) (p : Path) :
    ∃ r, s.switched w p = { s.modWave w.id (fun _ => w.switched p) with regs := r } := by
  unfold switched
  dsimp only
  split
  · exact ⟨s.regs, rfl⟩
  · exact count_regs _ _ _ _

@[simp] theorem switched_cur : (s.switched w p).cur = s.cur := by
  obtain ⟨r, h⟩ := switched_spec s w p
  rw [h]
  rfl

@[simp] theorem switched_tick : (s.switched w p).tick = s.tick := by
  obtain ⟨r, h⟩ := switched_spec s w p
  rw [h]
  rfl

@[simp] theorem switched_core (c : Fin 256) : (s.switched w p).core c = s.core c := by
  obtain ⟨r, h⟩ := switched_spec s w p
  rw [h]
  rfl

@[simp] theorem switched_waves : (s.switched w p).waves = (s.modWave w.id fun _ => w.switched p).waves := by
  obtain ⟨r, h⟩ := switched_spec s w p
  rw [h]

theorem switched_wave? (hw : s.wave? w.id = some w) : (s.switched w p).wave? w.id = some (w.switched p) := by
  have hmod : (s.modWave w.id fun _ => w.switched p).wave? w.id = some (w.switched p) :=
    wave?_modWave (f := fun _ => w.switched p) hw fun _ _ => rfl
  rwa [wave?, switched_waves]

theorem switched_wave?_ne {k : Nat} (hk : k ≠ w.id) : (s.switched w p).wave? k = s.wave? k := by
  have hmod : (s.modWave w.id fun _ => w.switched p).wave? k = s.wave? k :=
    wave?_modWave_ne (f := fun _ => w.switched p) hk fun _ _ => rfl
  rwa [wave?, switched_waves]

theorem switched_cursor (h : s.cursor? = some { w := w, p := p }) :
    (s.switched w p).cursor? = some { w := w.switched p, p := p.atSwitch } := by
  obtain ⟨hc, hw, hp⟩ := cursor?_spec h
  exact cursor?_of_cur (switched_cur.trans hc) (switched_wave? hw)
    (Wave.path?_modPath (f := fun _ => p.atSwitch) hp fun _ _ => rfl)

/-- What changes one wave behind a switch point changes one wave, event counters and the holder of a pipe. -/
theorem OnlyWave.behindSwitch (h : (s.switched w p).OnlyWave t w.id w') : s.OnlyWaveSwitched t w.id w' where
  wave := h.wave
  others := fun k hk => (h.others k hk).trans (switched_wave?_ne hk)
  rest := by
    obtain ⟨r, hr⟩ := switched_spec s w p
    have hrest := congrArg (fun x : State => { x with waves := s.waves, regs := s.regs, holders := s.holders }) h.rest
    rw [hr] at hrest
    exact hrest

end
end State

/-- A path that goes on behind its switch goes on from before it. -/
theorem Wave.Went.behindSwitch {w w' : Wave} {p q : Path} (h : (w.switched p).Went w' q) (hq : q.tag = p.tag) : w.Went w' q where
  path := h.path
  paths := fun t ht => (h.paths t ht).trans
    (Wave.path?_modPath_ne (f := fun _ => p.atSwitch) (fun e => ht (e.trans hq.symm)) fun _ _ => rfl)
  clock := h.clock
  rest := congrArg (fun x : Wave => { x with paths := w.paths }) h.rest

namespace State
section
variable {s : State} {w : Wave} {p : Path}

theorem switched_isDet (hdet : w.det = none) : (w.switched p).isDet = false := by
  rw [Wave.isDet, show (w.switched p).det = w.det from rfl, hdet]
  rfl

/-! ## ENGWAIT (R203) -/

/-- ENGWAIT traps where its offset names no barrier word; otherwise it goes on, with an acquire, where the phase has passed and no
command names the word, and waits where not. -/
theorem exec_engwait_switched (hkind : w.kind = .launched) (hdet : w.det = none) {a b : Operand}
    (h : s.ReadySwitch w p (uniFields [a, b]) (uniFields [a, b])) :
    let s1 := s.switched w p
    let w1 := w.switched p
    let o := (srcUni w p a).toNat
    let ph := bitsOf (srcUni w p b).toNat 14 0
    (∀ c, s1.barWord? w1 o = .error c →
      exec (.engwait a b) s = .next (s1.trap w1 p.atSwitch (wordOf (.engwait a b)) (TrapInfo.mem c p.mask o)))
    ∧ (∀ x, s1.barWord? w1 o = .ok x → exec (.engwait a b) s =
        .next (if barPhase (s1.barWord w.gang o) ≠ ph ∧ s1.engineBusy w1 o = false then (s1.acquire w.core .dev).advance p 1
          else s1.block (.engine o ph))) := by
  intro s1 w1 o ph
  have hwoken : (p.atSwitch.stage == .woken) = false := by rw [show p.atSwitch.stage = .none from h.runs.starts]; rfl
  have ha : srcUni (w.switched p) p.atSwitch a = srcUni w p a := srcUni_switched h.free (by simp)
  have hb : srcUni (w.switched p) p.atSwitch b = srcUni w p b := srcUni_switched h.free (by simp)
  have hidle : s1.engineIdle w1 o ph = true ↔ barPhase (s1.barWord w.gang o) ≠ ph ∧ s1.engineBusy w1 o = false := by
    simp only [engineIdle, Bool.and_eq_true, bne_iff_ne, Bool.not_eq_true']
    exact Iff.rfl
  rw [exec_engwait, execEngwait, h.run rfl rfl (by simp [pipeCard, onlyLaunched, hkind]) rfl rfl rfl rfl rfl]
  simp only [pipeCard, hwoken, switched_isDet hdet, ha, hb, Bool.false_and, Bool.and_false, Bool.or_false, Bool.false_eq_true,
    if_false]
  refine ⟨fun c hc => ?fault, fun x hx => ?goes⟩
  case fault =>
    simp only [s1, w1, o] at hc
    simp only [hc]
    rfl
  case goes =>
    simp only [← hidle]
    simp only [s1, w1, o] at hx
    simp only [hx]
    split <;> rfl

/-! ## SLEEPUNTIL (R202) -/

theorem missed?_none {T : Nat} (h : ∀ c ∈ (s.core w.core).accepted, c.req.wave = w.id → T < c.promise) :
    s.missed? w T = none := by
  have hnone : ((s.core w.core).accepted.filter fun c => c.req.wave == w.id && decide (c.promise ≤ T)) = [] := by
    rw [List.filter_eq_nil_iff]
    intro c hc
    simp only [Bool.and_eq_true, beq_iff_eq, decide_eq_true_eq, not_and, Nat.not_le]
    exact h c hc
  rw [missed?, hnone]
  rfl

theorem missed?_switched (T : Nat) : (s.switched w p).missed? (w.switched p) T = s.missed? w T := by
  rw [missed?, switched_core]
  rfl

section
variable (hkind : w.kind = .launched) (hdet : w.det = none) {a : Operand} (h : s.ReadySwitch w p [.group isSca 2 2 a] [])
include hkind hdet h

/-- SLEEPUNTIL waits for a tick that has not come. -/
theorem exec_sleepuntil_waits (ht : s.tick < (scalar64 w a).toNat) :
    exec (.sleepuntil a) s = .next ((s.switched w p).block (.tick (scalar64 w a).toNat)) := by
  have hstage : p.stage = .none := h.runs.starts
  have hmissed : (w.isDet || (decide (s.tick < (scalar64 w a).toNat) && p.stage != .woken)) = true := by simp [ht, hstage]
  rw [exec_sleepuntil, execSleepuntil,
    h.run rfl rfl (by simp [pipeCard, onlyLaunched, hkind]) rfl rfl rfl rfl (by simp only [hmissed, if_true])]
  simp [pipeCard, switched_isDet hdet, scalar64_switched, ht, show p.atSwitch.stage = .none from hstage]

/-- SLEEPUNTIL goes on where the tick has come and no command of the wave was promised by it. -/
theorem exec_sleepuntil_went (ht : (scalar64 w a).toNat ≤ s.tick) (hm : s.missed? w (scalar64 w a).toNat = none) :
    ∃ t w', exec (.sleepuntil a) s = .next t ∧ s.OnlyWaveSwitched t w.id w' ∧ w.Went w' (p.atSwitch.retire (p.pc + 4)) := by
  obtain ⟨w', honly, hwent⟩ := advance_went (switched_cursor h.runs.cursor) 1
  refine ⟨_, w', ?_, honly.behindSwitch, hwent.behindSwitch rfl⟩
  rw [exec_sleepuntil, execSleepuntil,
    h.run rfl rfl (by simp [pipeCard, onlyLaunched, hkind]) rfl rfl rfl rfl (by simp only [hm, Option.map_none, ite_self])]
  simp [pipeCard, switched_isDet hdet, scalar64_switched, Nat.not_lt.mpr ht, missed?_switched, hm]

/-- A wave outside handler state is delivered its missed promise before SLEEPUNTIL. -/
theorem exec_sleepuntil_missed (ht : (scalar64 w a).toNat ≤ s.tick) (hw : w.handler = none) {c : EngCmd}
    (hm : s.missed? w (scalar64 w a).toNat = some c) :
    exec (.sleepuntil a) s = .next ((s.modWave w.id fun x => { x with missed := none }).trap w p (wordOf (.sleepuntil a))
      (missedInfo c)) := by
  rw [exec_sleepuntil, execSleepuntil]
  refine h.run_missed ⟨by simp [pipeCard, onlyLaunched, hkind], rfl, rfl, h.free, h.plain⟩ rfl hw hkind rfl rfl ?_
  simp [Wave.isDet, hdet, Nat.not_lt.mpr ht, hm]

/-- In handler state SLEEPUNTIL itself traps with the missed promise. -/
theorem exec_sleepuntil_handler (ht : (scalar64 w a).toNat ≤ s.tick) (hw : w.handler ≠ none) {c : EngCmd}
    (hm : (s.switched w p).missed? (w.switched p) (scalar64 w a).toNat = some c) :
    exec (.sleepuntil a) s = .next ((s.switched w p).trap (w.switched p) p.atSwitch (wordOf (.sleepuntil a)) (missedInfo c)) := by
  rw [exec_sleepuntil, execSleepuntil,
    h.run_handler ⟨by simp [pipeCard, onlyLaunched, hkind], rfl, rfl, h.free, h.plain⟩ rfl rfl hw]
  simp only [pipeCard, switched_isDet hdet, scalar64_switched, switched_tick, Nat.not_lt.mpr ht, hm, false_and,
    Bool.false_eq_true, if_false]
  rfl

end
end
end State

/-! ## Holds (R154, R155) -/

namespace State
section
variable {s t : State} {w w' : Wave} {p : Path}

theorem OnlyWave.cur (h : s.OnlyWave t w.id w') : t.cur = s.cur := by
  simpa only using congrArg State.cur h.rest

/-- Holds that are all open stay: their wave is as it was. -/
theorem settleHolds_onlyWave (hw : s.wave? w.id = some w) (hopen : ∀ h ∈ w.holds, s.holdDone w h = false) :
    s.OnlyWave (s.settleHolds w.id) w.id w := by
  have hdone : w.holds.filter (s.holdDone w) = [] := by simpa [List.filter_eq_nil_iff] using hopen
  have hfilter : (w.holds.filter fun h => !s.holdDone w h) = w.holds := List.filter_eq_self.mpr fun h hh => by simp [hopen h hh]
  have hkept : { w with holds := w.holds.filter fun h => !s.holdDone w h } = w := by rw [hfilter]
  have hsettle : s.settleHolds w.id = s.modWave w.id fun x => { x with holds := x.holds.filter fun h => !s.holdDone w h } := by
    simp only [settleHolds, hw, hdone, List.any_nil, Bool.false_eq_true, if_false]
  rw [hsettle]
  exact hkept ▸ OnlyWave.of_modWave (f := fun x => { x with holds := x.holds.filter fun h => !s.holdDone w h }) hw fun _ hx => hx

/-- A hold is open while something that it waits for has not been performed. -/
theorem holdDone_of_unperformed {h : Hold} {d : Nat} (hd : d ∈ h.deps) (hopen : s.performed d = false) :
    s.holdDone w h = false := by
  have hdeps : h.deps.all s.performed = false := List.all_eq_false.mpr ⟨d, hd, by simp [hopen]⟩
  simp [holdDone, hdeps]

/-- A hold that begins on a wave without holds, and is open, is the wave's one hold. -/
theorem addHold_onlyWave (hw : s.wave? w.id = some w) (hnone : w.holds = []) {h : Hold} {d : Nat} (hd : d ∈ h.deps)
    (hopen : s.performed d = false) : s.OnlyWave (s.addHold w.id h) w.id { w with holds := [h] } := by
  have hadd := OnlyWave.of_modWave (f := fun x => { x with holds := x.holds ++ [h] }) hw fun _ hx => hx
  rw [hnone, List.nil_append] at hadd
  refine hadd.trans (settleHolds_onlyWave (w := { w with holds := [h] }) hadd.wave fun x hx => ?_)
  obtain rfl := List.mem_singleton.mp hx
  exact holdDone_of_unperformed hd hopen

end

/-! ## A release (R154) -/

section
variable {α : Type} (g : State → α)
variable (hg : ∀ (s : State) c m n, g { s with cores := c, messages := m, nextId := n } = g s)
include hg

theorem writebackL1_keeps (s : State) (c : Fin 256) (line : Nat) : g (s.writebackL1 c line) = g s :=
  (hg _ _ _ _).trans (List.foldlRecOn (motive := fun t => g t = g s) _ _ rfl
    fun t ht _ _ => (writebackSector_keeps g hg t c _).trans ht)

theorem appendEntry_keeps (s : State) (c : Fin 256) (e : FifoEntry) : g (s.appendEntry c e) = g s := by
  unfold appendEntry
  dsimp only
  refine (hg _ _ _ _).trans ?_
  split
  · exact writebackL1_keeps g hg s c _
  · rfl

/-- A core that sends its dirty bytes home changes itself, the messages and the next name: what reads none of them stays. -/
theorem drainFifo_keeps (s : State) (c : Fin 256) : g (s.drainFifo c) = g s := by
  have hlines : g ((s.core c).fifoLines.foldl (fun s line => s.writebackL1 c line) s) = g s :=
    List.foldlRecOn (motive := fun t => g t = g s) _ _ rfl fun t ht line _ => (writebackL1_keeps g hg t c line).trans ht
  unfold drainFifo
  dsimp only
  generalize (s.core c).fifoLines.foldl (fun s line => s.writebackL1 c line) s = u at hlines ⊢
  have hmarks : ∀ f, g (u.modCore c f) = g s := fun f => (hg u _ u.messages u.nextId).trans hlines
  split
  · exact hmarks _
  · exact (appendEntry_keeps g hg _ c _).trans (hmarks _)

end

/-- A release has begun: it joins those that there are, and but for the cores, the messages and the next name nothing has changed. -/
structure ReleaseBegun (s t : State) (r : Release) : Prop where
  releases : t.releases = s.releases ++ [r]
  rest : { t with cores := s.cores, messages := s.messages, nextId := s.nextId, releases := s.releases } = s

theorem ReleaseBegun.fields {s t : State} {r : Release} (h : s.ReleaseBegun t r) :
    t.cur = s.cur ∧ t.waves = s.waves ∧ t.publishes = s.publishes ∧ t.mem = s.mem ∧ t.homes = s.homes := by
  rw [← h.rest]
  exact ⟨rfl, rfl, rfl, rfl, rfl⟩

/-- A release beyond the workgroup sends the core's dirty bytes home, and begins. -/
theorem startRelease_begun (s : State) (w : Wave) (req : Requester) {scope : Scope} (hscope : scope ≠ .wg) (act : ReleaseAct) :
    ∃ r t, s.startRelease w req scope act = (r.id, t) ∧ r.act = act ∧ s.ReleaseBegun t r := by
  have hdrain : { s.drainFifo w.core with cores := s.cores, messages := s.messages, nextId := s.nextId } = s :=
    drainFifo_keeps (fun t => { t with cores := s.cores, messages := s.messages, nextId := s.nextId }) (fun _ _ _ _ => rfl) s w.core
  have hreleases : (s.drainFifo w.core).releases = s.releases := by simpa only using congrArg State.releases hdrain
  simp only [startRelease, releaseDeps, if_neg hscope]
  refine ⟨⟨(s.drainFifo w.core).nextId, req, _, act⟩, _, rfl, rfl, congrArg (· ++ _) hreleases, ?_⟩
  exact congrArg (fun t : State => { t with releases := s.releases }) hdrain

/-! ## PUBLISH (R204, R205) -/

/-- The hold of a PUBLISH: the later accesses of the wave through its entry. -/
def publishHold (e : Bool × Nat × Nat) (id : Nat) : Hold :=
  { classes := [.load, .store, .scratch, .engine], through := some e, deps := [id], loads := [], commands := [], netOps := [],
    acquire := false }

/-- A PUBLISH noted: it joins those that there are, and what has failed or is written under its entry is forgotten. -/
def noted (s : State) (w : Wave) (e : Bool × Nat × Nat) (x : Publish) : State :=
  { s.clearHidden w e with publishes := s.publishes ++ [x] }

/-- Another state notes a PUBLISH of the entry that waits for a release of its own: nothing else of the state that a wave or a
home holds has changed. -/
structure Notes (s t : State) (w : Wave) (e : Bool × Nat × Nat) (x : Publish) (r : Release) : Prop where
  remap : x.remap = e.1
  wg : x.wg = e.2.1
  entry : x.entry = e.2.2
  commands : x.commands = s.hiddenCommands w e
  release : r.id = x.release
  act : r.act = .none
  publishes : t.publishes = s.publishes ++ [x]
  releases : t.releases = s.releases ++ [r]
  cur : t.cur = s.cur
  waves : t.waves = s.waves
  mem : t.mem = s.mem
  homes : t.homes = s.homes

theorem Notes.unperformed {s t : State} {w : Wave} {e : Bool × Nat × Nat} {x : Publish} {r : Release} (h : s.Notes t w e x r) :
    t.performed x.id = false := by
  simp [performed, h.publishes]

section
variable {s : State} {w : Wave} {p : Path} {a : Operand} {e : Bool × Nat × Nat}

/-- A PUBLISH of an entry that it finds, and whose hidden copy no command failed on, is noted, and its hold begins. -/
theorem exec_publish_notes (hkind : w.kind = .launched) (hdet : w.det = none)
    (h : s.ReadyClear w p (uniFields [a]) (uniFields [a])) (he : s.pubEntry? w (srcUni w p a) = some e)
    (hf : s.hiddenFailed.contains (pubKey w e) = false) :
    ∃ t x r, s.Notes t w e x r ∧ exec (.publish a) s = .next ((t.addHold w.id (publishHold e x.id)).advance p 1) := by
  obtain ⟨r, u, hstart, hact, hbegun⟩ := s.startRelease_begun w (s.requester w 0) (scope := .dev) (by decide) .none
  rw [exec_publish, execPublish, h.run rfl rfl (by simp [pipeCard, onlyLaunched, hkind]) rfl rfl rfl rfl rfl]
  simp only [pipeCard, he, hf, Wave.isDet, hdet, hstart, Option.isSome_none, Bool.false_eq_true, if_false]
  refine ⟨u.fresh.2.noted w e _,
    { id := u.nextId, req := u.fresh.2.requester w 0, gang := w.gang, remap := e.1, wg := e.2.1, entry := e.2.2,
      release := r.id, commands := s.hiddenCommands w e }, r, ?notes, rfl⟩
  obtain ⟨hcur, hwaves, hpublishes, hmem, hhomes⟩ := hbegun.fields
  exact ⟨rfl, rfl, rfl, rfl, rfl, hact, congrArg (· ++ _) hpublishes, hbegun.releases, hcur, hwaves, hmem, hhomes⟩

/-- A PUBLISH goes on with its hold. -/
theorem exec_publish_went (hkind : w.kind = .launched) (hdet : w.det = none)
    (h : s.ReadyClear w p (uniFields [a]) (uniFields [a])) (hholds : w.holds = []) (he : s.pubEntry? w (srcUni w p a) = some e)
    (hf : s.hiddenFailed.contains (pubKey w e) = false) :
    ∃ t w' x r, exec (.publish a) s = .next t ∧ s.Notes { t with waves := s.waves } w e x r ∧ t.wave? w.id = some w'
      ∧ w.Went { w' with holds := w.holds } (p.retire (p.pc + 4)) ∧ w'.holds = [publishHold e x.id] := by
  obtain ⟨u, x, r, hnotes, hexec⟩ := exec_publish_notes hkind hdet h he hf
  obtain ⟨hc, hw, hp⟩ := cursor?_spec h.runs.cursor
  have hwu : u.wave? w.id = some w := by rw [wave?, hnotes.waves]; exact hw
  have hadd := addHold_onlyWave hwu hholds (h := publishHold e x.id) (List.mem_singleton.mpr rfl) hnotes.unperformed
  have hcursor := cursor?_of_cur (hadd.cur.trans (hnotes.cur.trans hc)) hadd.wave (p := p) hp
  obtain ⟨w', honly, hwent⟩ := advance_went hcursor 1
  obtain ⟨hwave, -, hrest⟩ := hadd.trans honly
  rw [hnotes.waves] at hrest
  refine ⟨_, w', x, r, hexec, hrest.symm ▸ hnotes, hwave, ⟨hwent.path, hwent.paths, hwent.clock, ?went⟩, ?holds⟩
  case went => exact congrArg (fun y : Wave => { y with holds := w.holds }) hwent.rest
  case holds => simpa only using congrArg Wave.holds hwent.rest

end
end State

/-- Settles O43: each of the three is its body behind its checks. A missed promise is a report before SLEEPUNTIL, and its own trap in
handler state; the hold of a PUBLISH stays, because the PUBLISH that it waits for has not been performed. -/
theorem engineWaits : Obligations.EngineWaits := by
  unfold Obligations.EngineWaits
  intro s w p hkind hdet s1 w1
  refine ⟨fun a b h => State.exec_engwait_switched hkind hdet h, fun a h => ⟨?_, ?_, ?_, ?_⟩, fun a h hholds e he hf => ?publish⟩
  · exact State.exec_sleepuntil_waits hkind hdet h
  · exact fun ht hc => State.exec_sleepuntil_went hkind hdet h ht (State.missed?_none hc)
  · exact fun ht hw c hm => State.exec_sleepuntil_missed hkind hdet h ht hw hm
  · exact fun ht hw c hm => State.exec_sleepuntil_handler hkind hdet h ht hw hm
  case publish =>
    obtain ⟨t, w', x, r, hexec, hnotes, hwave, hwent, hhold⟩ := State.exec_publish_went hkind hdet h hholds he hf
    exact ⟨t, w', x, r, State.publishHold e x.id, hexec, hwave, hwent, hhold, hnotes.publishes, hnotes.remap, hnotes.wg,
      hnotes.entry, hnotes.commands, hnotes.releases, hnotes.release, hnotes.act, rfl, rfl, rfl, hnotes.mem, hnotes.homes⟩

end Sys2Proof.Machine
end
section
/-! SUPPORT. COPY, COPYM and QUANT2 up to their acceptance (R187, R189, R199, R200, R316). -/

namespace Sys2Proof.Machine

/-- A wave that a result is delivered to keeps its name. -/
theorem Wave.deliver_id (w : Wave) (p : Path) (nw : Bool) (d : Operand) (st : Bool) (exec : Mask) (rs : List Lanes) :
    (w.deliver p nw d st exec rs).id = w.id := by
  have hwrite : (w.writeDst d exec rs).id = w.id := by
    unfold Wave.writeDst
    cases d with
    | v k => exact (Wave.writeV_rest (rs.zipIdx k.val) exec w).elim fun _ h => (congrArg Wave.id h).trans rfl
    | s k => exact (Wave.writeS_rest (rs.zipIdx k.val) w).elim fun _ h => (congrArg Wave.id h).trans rfl
    | p k => cases rs <;> rfl
    | _ => rfl
  cases nw with
  | true => rfl
  | false => exact hwrite

/-- Results delivered under a mask of their own to one wave, whose path goes on. -/
theorem State.modWave_delivered {s : State} {w : Wave} {p : Path} (hw : s.wave? w.id = some w) (hp : w.path? p.tag = some p)
    (nw : Bool) (d : Operand) (st : Bool) (exec : Mask) (rs : List Lanes) (cost : Nat) :
    ∃ w', s.OnlyWave (s.modWave w.id fun y => (y.deliver p nw d st exec rs).retire p.tag (p.pc + 4) cost) w.id w'
      ∧ w.Delivered w' p nw d st exec rs :=
  ⟨_, State.OnlyWave.of_modWave hw fun y hy => (Wave.deliver_id y p nw d st exec rs).trans hy,
    Wave.delivered w nw d st exec rs cost hp⟩

/-- The operand that receives the promise of a command, where the command has a destination. -/
def EngCmd.dstOperand (c : EngCmd) : Operand :=
  match c.dst with
  | some r => .s r
  | none => .zero

/-- The two words of a promise. -/
def promiseWords (t : Nat) : List Lanes := [splat (lo32 (BitVec.ofNat 64 t)), splat (hi32 (BitVec.ofNat 64 t))]

namespace State

/-! ## What the read of a block leaves (R115, R141, R200) -/

theorem core_modCore (s : State) (c k : Fin 256) (f : Core → Core) :
    (s.modCore c f).core k = if c = k then f (s.core c) else s.core k := by
  simp only [core, modCore_cores, Fin.getElem_fin, Vector.getElem_set, Fin.ext_iff]

/-- What waves and engines see of a state: who executes, the waves, the commands of every core. -/
def engineView (s : State) : Option (Nat × Tag) × List Wave × (Fin 256 → List EngCmd) :=
  (s.cur, s.waves, fun c => (s.core c).engine)

section
variable {s t : State}

theorem engineView_modCore {c : Fin 256} {f : Core → Core} (hf : ∀ k, (f k).engine = k.engine) :
    (s.modCore c f).engineView = s.engineView := by
  have hengine : ∀ k, ((s.modCore c f).core k).engine = (s.core k).engine := fun k => by
    rw [core_modCore]
    split
    · next hk => exact hk ▸ hf _
    · rfl
  simp only [engineView, hengine, modCore_cur, modCore_waves]

theorem engineView_wave? (h : t.engineView = s.engineView) (id : Nat) : t.wave? id = s.wave? id :=
  congrArg (fun x => x.2.1.find? fun w => w.id == id) h

theorem engineView_engine (h : t.engineView = s.engineView) (c : Fin 256) : (t.core c).engine = (s.core c).engine :=
  congrArg (fun x => x.2.2 c) h

theorem engineView_cur (h : t.engineView = s.engineView) : t.cur = s.cur := congrArg (fun x => x.1) h

end

theorem writebackSector_engineView (s : State) (c : Fin 256) (sec : Nat) : (s.writebackSector c sec).engineView = s.engineView := by
  unfold writebackSector
  dsimp only
  split
  · exact engineView_modCore fun _ => rfl
  · rfl

theorem writebackL1_engineView (s : State) (c : Fin 256) (line : Nat) : (s.writebackL1 c line).engineView = s.engineView := by
  have hsectors : ([0, 1, 2, 3].foldl (fun s i => s.writebackSector c (4 * line + i)) s).engineView = s.engineView :=
    List.foldlRecOn (motive := fun t : State => t.engineView = s.engineView) _ _ rfl
      fun t ht _ _ => (writebackSector_engineView t c _).trans ht
  exact (engineView_modCore (f := Core.purge) fun _ => rfl).trans hsectors

theorem evictL1_engineView (s : State) (c : Fin 256) (line : Nat) : (s.evictL1 c line).engineView = s.engineView :=
  (engineView_modCore (f := fun k => k.dropL1 line) fun _ => rfl).trans (writebackL1_engineView s c line)

theorem readLines_engineView (s : State) (lines : List Nat) (asid : BitVec 8) (master : DWord) :
    (s.readLines lines asid master).engineView = s.engineView := readLines_keeps engineView (fun _ _ _ _ => rfl) s lines asid master

theorem walked_engineView (s : State) (w : Wave) (eas : List Nat) : (s.walked w eas).engineView = s.engineView := by
  refine List.foldlRecOn (motive := fun t : State => t.engineView = s.engineView) _ _ rfl fun t ht page _ => ?_
  dsimp only
  split
  · exact ht
  · exact (readLines_engineView _ _ _ _).trans (List.foldlRecOn (motive := fun u : State => u.engineView = s.engineView) _ _ ht
      fun u hu l _ => (evictL1_engineView u w.core l).trans hu)

theorem blockRead_engineView (s : State) (w : Wave) (ea : Nat) : (s.blockRead w ea).engineView = s.engineView := by
  unfold blockRead
  dsimp only
  split
  · exact walked_engineView s w [ea]
  · exact (readLines_engineView _ _ _ _).trans ((evictL1_engineView _ _ _).trans (walked_engineView s w [ea]))

/-- Groups claimed change registers and parts of their core beside the engine: what reads neither of them stays. -/
theorem claimGroups_keeps {α : Type} (g : State → α)
    (hg : ∀ (s : State) r c f, (∀ k : Core, (f k).engine = k.engine) → g (State.modCore { s with regs := r } c f) = g s)
    (s : State) (c : Fin 256) (asid : BitVec 8) (l : List (Fin 16)) : g (s.claimGroups c asid l) = g s := by
  refine List.foldlRecOn (motive := fun t => g t = g s) _ _ rfl fun t ht x _ => ?_
  split
  · exact ht
  · refine (hg t _ c _ ?_).trans ht
    exact fun _ => rfl

theorem claimGroups_engineView (s : State) (c : Fin 256) (asid : BitVec 8) (l : List (Fin 16)) :
    (s.claimGroups c asid l).engineView = s.engineView :=
  claimGroups_keeps engineView (fun s r _ _ hf => engineView_modCore (s := { s with regs := r }) hf) s c asid l

/-! ## COPY, COPYM and QUANT2 (R199, R200) -/

section
variable {s : State} {w : Wave} {p : Path} (hrun : s.Runs w p) (hnone : w.holds = [])
include hrun hnone

theorem Runs.settled : s.OnlyWave (s.settleHolds w.id) w.id w :=
  settleHolds_onlyWave (cursor?_spec hrun.cursor).2.1 (by simp [hnone])

/-- A wave without holds is held from nothing. -/
theorem Runs.settled_held (cls : List AccessClass) (eas offs : List Nat) : (s.settleHolds w.id).held w cls eas offs = false := by
  simp [held, holdsOn, (hrun.settled hnone).wave, hnone]

theorem Runs.read_held (ea : Nat) (cls : List AccessClass) (eas offs : List Nat) :
    ((s.settleHolds w.id).blockRead w ea).held w cls eas offs = false := by
  have hw := (engineView_wave? (blockRead_engineView _ w ea) w.id).trans (hrun.settled hnone).wave
  simp [held, holdsOn, hw, hnone]

end

section
variable {i : Instr} {kind : CmdKind} {nw : Bool} {d a b : Operand} {s : State} {w : Wave} {p : Path}

/-- The card of the three is its body. -/
theorem runCard_engine (hkind : w.kind = .launched) (hq : s.quiet w = true)
    (h : s.Ready w p ((if nw then [] else [.group isSca 2 2 d]) ++ [baseField a, .src b]) [.src b]) :
    runCard i (engineCard i kind nw d a b) s = engineBody i kind nw d a b w p s :=
  runCard_plain h.runs h.calm ⟨by simp [engineCard, pipeCard, onlyLaunched, hkind], rfl, rfl, h.free, h.plain⟩ rfl
    (Or.inl ⟨hq, rfl⟩) rfl rfl rfl rfl

/-- Each of the three is the body of its kind. -/
theorem exec_engine (hi : (i, kind) = (.copy nw d a b, CmdKind.copy) ∨ (i, kind) = (.copym nw d a b, .copym)
      ∨ (i, kind) = (.quant2 nw d a b, .quant2)) (hkind : w.kind = .launched) (hq : s.quiet w = true)
    (h : s.Ready w p ((if nw then [] else [.group isSca 2 2 d]) ++ [baseField a, .src b]) [.src b]) :
    exec i s = engineBody i kind nw d a b w p s := by
  rcases hi with hi | hi | hi <;> obtain ⟨rfl, rfl⟩ := Prod.mk.inj hi <;> exact runCard_engine hkind hq h

variable (hrun : s.Runs w p)
include hrun

/-- A block out of range or misaligned traps. -/
theorem engineBody_misplaced {c : TrapCode} (hc : blockAddrFault? (blockEa w p a b) (blockSize kind) = some c) :
    engineBody i kind nw d a b w p s = .next (s.trap w p (wordOf i) (TrapInfo.mem c p.mask (blockEa w p a b))) := by
  simp only [engineBody, hrun.starts, hc]
  rfl

variable (hnone : w.holds = []) (hplace : blockAddrFault? (blockEa w p a b) (blockSize kind) = none)
include hnone hplace

/-- The path waits while its block cannot be read. -/
theorem engineBody_waits {s' : State} (hs : (s.settleHolds w.id).blockSync w (blockEa w p a b) = some s') :
    engineBody i kind nw d a b w p s = s'.stall := by
  simp only [engineBody, hrun.starts, hplace, hrun.settled_held hnone, hs, Bool.or_self, Bool.false_eq_true, if_false]

variable (hs : (s.settleHolds w.id).blockSync w (blockEa w p a b) = none)
include hs

/-- A block that its home cannot give traps. -/
theorem engineBody_unreadable {c : TrapCode}
    (hc : ((s.settleHolds w.id).blockRead w (blockEa w p a b)).blockBytes w (blockEa w p a b) (blockSize kind) = .error c) :
    engineBody i kind nw d a b w p s = .next (((s.settleHolds w.id).blockRead w (blockEa w p a b)).trap w p (wordOf i)
      (TrapInfo.mem c p.mask (blockEa w p a b))) := by
  simp only [engineBody, hrun.starts, hplace, hrun.settled_held hnone, hs, hc, Bool.or_self, Bool.false_eq_true, if_false]
  rfl

variable {bs : List Byte}
  (hbs : ((s.settleHolds w.id).blockRead w (blockEa w p a b)).blockBytes w (blockEa w p a b) (blockSize kind) = .ok bs)
include hbs

/-- A failing check traps. -/
theorem engineBody_refused {info : TrapInfo}
    (hx : ((s.settleHolds w.id).blockRead w (blockEa w p a b)).checkCommand w p kind (blockEa w p a b) bs = .error info) :
    engineBody i kind nw d a b w p s = .next (((s.settleHolds w.id).blockRead w (blockEa w p a b)).trap w p (wordOf i) info) := by
  simp only [engineBody, hrun.starts, hplace, hrun.settled_held hnone, hs, hbs, hx, Bool.or_self, Bool.false_eq_true, if_false]
  rfl

variable {x : EngSides}
  (hx : ((s.settleHolds w.id).blockRead w (blockEa w p a b)).checkCommand w p kind (blockEa w p a b) bs = .ok x)
include hx

/-- A checked command of a wave without a period is issued, and accepted at once where its engine can. -/
theorem engineBody_issued (hdet : w.isDet = false) :
    let u := (s.settleHolds w.id).blockRead w (blockEa w p a b)
    let s1 : State := { u with nextId := u.nextId + 1 }
    let s2 := (s1.beginRelease w .dev).2
    let c := s2.newCommand w p kind (wordOf i) nw d (blockEa w p a b) bs x (s1.beginRelease w .dev).1 u.nextId
    let s3 := (s2.modCore w.core fun k => { k with engine := k.engine ++ [c] }).modCurPath fun q =>
      { q with stage := .command u.nextId, swDone := true }
    engineBody i kind nw d a b w p s = .next (if s3.canAccept w.core c then s3.acceptCommand w.core c else s3) := by
  simp only [engineBody, hrun.starts, hplace, hrun.settled_held hnone, hrun.read_held hnone, hs, hbs, hx, hdet, Bool.or_self,
    Bool.false_eq_true, if_false]
  rfl

/-- A checked command of a deterministic wave returns 0 and joins the commands of its core (R316). -/
theorem engineBody_det (hdet : w.isDet = true) :
    ∃ t w' c', engineBody i kind nw d a b w p s = .next t ∧ t.wave? w.id = some w'
      ∧ w.Delivered { w' with holds := w.holds } p nw d false (execMask w p) [splat 0, splat 0]
      ∧ (t.core w.core).engine = (s.core w.core).engine ++ [c'] ∧ c'.det = true ∧ c'.state = .issued ∧ c'.blk = bs := by
  obtain ⟨hcur, -, hp⟩ := cursor?_spec hrun.cursor
  have hsettled := hrun.settled hnone
  have hcore : (s.settleHolds w.id).cores = s.cores := by simpa only using congrArg State.cores hsettled.rest
  simp only [engineBody, hrun.starts, hplace, hrun.settled_held hnone, hrun.read_held hnone, hs, hbs, hx, hdet, Bool.or_self,
    Bool.false_eq_true, if_false, if_true]
  have hread := blockRead_engineView (s.settleHolds w.id) w (blockEa w p a b)
  generalize (s.settleHolds w.id).blockRead w (blockEa w p a b) = u at hread ⊢
  have hclaim := (claimGroups_engineView u.fresh.2 w.core w.asid (followGroups kind bs)).trans hread
  generalize hv : u.fresh.2.claimGroups w.core w.asid (followGroups kind bs) = v at hclaim ⊢
  let c := u.fresh.2.newCommand w p kind (wordOf i) nw d (blockEa w p a b) bs x none u.nextId
  let z := v.modCore w.core fun k => { k with engine := k.engine ++ [c] }
  have hz : z.cursor? = some { w := w, p := p } := cursor?_of_cur ((engineView_cur hclaim).trans (hsettled.cur.trans hcur))
    ((engineView_wave? hclaim _).trans hsettled.wave) hp
  obtain ⟨w', honly, hdelivered⟩ := result_delivered hz nw d false [splat 0, splat 0]
  have hholds : w'.holds = w.holds := by simpa only using congrArg Wave.holds hdelivered.rest
  refine ⟨_, w', c, rfl, honly.wave, ?delivered, ?engine, hdet, rfl, rfl⟩
  case delivered =>
    rw [← hholds]
    exact hdelivered
  case engine =>
    have hengine : (z.core w.core).engine = (v.core w.core).engine ++ [c] := by rw [core_modCore, if_pos rfl]
    have hkept : ((s.settleHolds w.id).core w.core).engine = (s.core w.core).engine := by rw [core, hcore, core]
    exact hengine.trans (by rw [engineView_engine hclaim, hkept])

end

/-! ## COMMAND_ACCEPT (R189, R195, R200) -/

section
variable {s : State} {core : Fin 256} {c : EngCmd} {w : Wave} {p : Path}

theorem cmd?_id {id : Nat} (hc : s.cmd? core id = some c) : c.id = id := by
  simpa using List.find?_some hc

/-- A command that changes under its name is found as it has become. -/
theorem cmd?_modCmd {id : Nat} (hc : s.cmd? core id = some c) {f : EngCmd → EngCmd} (hf : ∀ y, (f y).id = y.id) :
    (s.modCmd core id f).cmd? core id = some (f c) := by
  have hid := cmd?_id hc
  have hfind : (s.core core).engine.find? (fun y => y.id == id) = some c := hc
  have hmap : ∀ y : EngCmd, ((if y.id = id then f y else y).id == id) = (y.id == id) := fun y => by
    split
    · rw [hf]
    · rfl
  rw [cmd?, modCmd, core_modCore, if_pos rfl, find?_map _ hmap, hfind]
  simp [hid]

/-- A command is found where its path waits for it. -/
theorem acceptCommand_found (hw : s.wave? c.req.wave = some w) (hp : w.paths.find? (fun q => q.stage == .command c.id) = some p) :
    (s.wave? c.req.wave).bind (fun w => (w.paths.find? fun p => p.stage == .command c.id).map fun p => (w, p)) = some (w, p) := by
  simp [hw, hp]

variable {id : Nat} (hc : s.cmd? core id = some c) (hacc : s.canAccept core c = true) (hw : s.wave? c.req.wave = some w)
  (hp : w.paths.find? (fun q => q.stage == .command id) = some p)
include hc hacc hw hp

/-- A command whose checks fail at its acceptance leaves, and its instruction traps. -/
theorem exec_commandAccept_refused {info : TrapInfo} (hx : s.checkCommand w p c.kind c.blkVa c.blk = .error info) :
    exec (.commandAccept core id) s = .next (((s.dropCmd core id).modPath w.id p.tag fun q => { q with stage := .none }).trap
      (w.modPath p.tag fun q => { q with stage := .none }) p c.word info) := by
  obtain rfl := cmd?_id hc
  simp only [exec_commandAccept, execCommandAccept, hc, hacc, if_true, acceptCommand, acceptCommand_found hw hp, hx]

/-- A command whose checks still pass is accepted: its path goes on with the promise, and the engine holds it with what its
checks yielded. -/
theorem exec_commandAccept_accepted (hpath : w.path? p.tag = some p) {x : EngSides}
    (hx : s.checkCommand w p c.kind c.blkVa c.blk = .ok x) :
    let promise := s.tick + 1 + Config.promiseSlack s.freeCtr
    ∃ t w' order remaps, exec (.commandAccept core id) s = .next t ∧ t.wave? w.id = some w'
      ∧ w.Delivered w' p c.dst.isNone c.dstOperand false 0 (promiseWords promise)
      ∧ (∀ k, k ≠ w.id → t.wave? k = s.wave? k) ∧ t.mem = s.mem ∧ t.homes = s.homes
      ∧ t.cmd? core id = some (c.asAccepted x order promise remaps) := by
  intro promise
  obtain rfl := cmd?_id hc
  have hid := wave?_id hw
  let u : State := { s with freeCtr := s.freeCtr + 1, nextId := s.nextId + 1 }
  let v := u.claimGroups core w.asid (followGroups c.kind c.blk)
  have hview : v.engineView = s.engineView := claimGroups_engineView u core w.asid _
  have hcv : v.cmd? core c.id = some c := by rw [cmd?, engineView_engine hview]; exact hc
  let f : EngCmd → EngCmd := fun y => y.asAccepted x s.nextId promise (v.remapsOf c.gang)
  have hwv : (v.modCmd core c.id f).wave? w.id = some w := (engineView_wave? hview _).trans (hid ▸ hw)
  obtain ⟨w', honly, hdelivered⟩ := modWave_delivered hwv hpath c.dst.isNone c.dstOperand false 0 (promiseWords promise) 1
  refine ⟨_, w', s.nextId, v.remapsOf c.gang, ?exec, honly.wave, hdelivered, ?others, ?mem, ?homes, ?cmd⟩
  case exec =>
    simp only [exec_commandAccept, execCommandAccept, hc, hacc, if_true, acceptCommand, acceptCommand_found hw hp, hx]
    rfl
  case others => exact fun k hk => (honly.others k hk).trans (engineView_wave? hview k)
  case mem => exact claimGroups_keeps State.mem (fun _ _ _ _ _ => rfl) u core w.asid _
  case homes => exact claimGroups_keeps State.homes (fun _ _ _ _ _ => rfl) u core w.asid _
  case cmd => exact cmd?_modCmd hcv fun _ => rfl

end
end State

/-- Settles O42: the body of the three, one clause for each way in which it leaves, behind a block whose read changes neither waves nor
engines; and COMMAND_ACCEPT by the outcome of its check. -/
theorem engineCommands : Obligations.EngineCommands := by
  unfold Obligations.EngineCommands
  refine ⟨fun nw d a b s w p kind i hi hkind hnone hq h => ?issue, fun s core id c w p hc hacc hw hp hpath => ⟨?refused, ?accepted⟩⟩
  case issue =>
    rw [State.exec_engine hi hkind hq h]
    have hrun := h.runs
    refine ⟨fun c => State.engineBody_misplaced hrun, fun s' hplace => State.engineBody_waits hrun hnone hplace,
      fun hplace hs => ⟨fun c => State.engineBody_unreadable hrun hnone hplace hs, fun bs hbs =>
        ⟨fun info => State.engineBody_refused hrun hnone hplace hs hbs, fun x hx =>
          ⟨State.engineBody_issued hrun hnone hplace hs hbs hx,
            State.engineBody_det hrun hnone hplace hs hbs hx⟩⟩⟩⟩
  case refused => exact fun info => State.exec_commandAccept_refused hc hacc hw hp
  case accepted =>
    intro x hx
    obtain ⟨t, w', order, remaps, hexec, hwave, hdelivered, hothers, hmem, hhomes, hcmd⟩ :=
      State.exec_commandAccept_accepted hc hacc hw hp hpath hx
    exact ⟨t, w', _, hexec, hwave, hdelivered, hothers, hmem, hhomes, hcmd, rfl, rfl, rfl, rfl, rfl, rfl, rfl⟩

end Sys2Proof.Machine
end
